-- ==== Sys2Proof/Word.lean ====
section
/-!
DEFINITION. The word types of the K9 and their plainest arithmetic (R2, R69).
-/

namespace Sys2Proof

/-- A byte of memory. -/
abbrev Byte := BitVec 8

/-- A 32-bit lane or FP32 pattern. -/
abbrev W32 := BitVec 32

/-- A 64-bit register word. -/
abbrev W64 := BitVec 64

/-- A 128-bit word: the random generator's state, a stage-2 entry. -/
abbrev W128 := BitVec 128

/-- The bit field of `n` bits of `w` that starts at bit `lo`. -/
def fld (w lo n : Nat) : Nat := w / 2 ^ lo % 2 ^ n

/-- One bit of a number. -/
def bitAt (w i : Nat) : Bool := w / 2 ^ i % 2 == 1

/-- The 64-bit word of a number, modulo 2^64. -/
def w64 (n : Nat) : W64 := BitVec.ofNat 64 n

/-- The 64-bit word of a truth value. -/
def boolW (b : Bool) : W64 := if b then 1 else 0

/-- The two's complement reading of the low `n` bits of `v` (Sx of the spec, as an integer). -/
def sxInt (v n : Nat) : Int :=
  let r := v % 2 ^ n
  if r < 2 ^ (n - 1) then (r : Int) else (r : Int) - 2 ^ n

/-- `v` with its low `n` bits sign-extended to 64 (Sx of the spec). -/
def sx (v n : Nat) : W64 := BitVec.ofInt 64 (sxInt v n)

/-- `v` with its low `n` bits zero-extended to 64 (Zx of the spec). -/
def zx (v n : Nat) : W64 := BitVec.ofNat 64 (v % 2 ^ n)

end Sys2Proof
end

