-- ==== Sys2Proof/Syntax.lean ====
section
/-!
DEFINITION. The instructions of the K9 as data: one constructor for each row of the opcode table.
The encoded rows take the operands of their kas forms (R24-R59); the event rows take what the
outside world or an engine supplies to the step.
-/

namespace Sys2Proof

/-- A register specifier (R24): the main, operand and last-result files, z, and the queue registers. -/
inductive Reg where
  | m (i : Fin 32)
  | o (i : Fin 8)
  | l (i : Fin 4)
  | z
  | qmi | qmo | qcs | qnt | qrn | qvs | qsa | qso
deriving DecidableEq, Repr

/-- A capability operand kN: the pair m(2N), m(2N+1) (R25, R98). -/
abbrev Cap := Fin 16

/-- A vector register v0-v31 (R26). -/
abbrev VReg := Fin 32

/-- A mask register vm0-vm7 (R26). -/
abbrev VMask := Fin 8

/-- The scope of a release, an acquire, an atomic or a fence (R31). -/
inductive Scope where
  | cell | die | pkg | sys
deriving DecidableEq, Repr

/-- The fields of a coordinate pointer that CRDGET and CRDSET select (R113). -/
inductive CrdField where
  | die | y | x | rank | window | offset
deriving DecidableEq, Repr

/-- The system registers (R102). -/
inductive SysReg where
  | cellx | celly | celld | rank | gthread | grpmap | vfid | home | gcycle | status
  | cause | epc | tval | upvec | uivec | ax | fillv | spillsz | ovfptr | tdmask | lflags | fstat
  | wdesc5 | wdesc6 | fbvec | meter | mlimit
  | evsel (i : Fin 16) | evc (i : Fin 16)
  | cadence | budget | energy | stallr | occupy | vshare | scopecap | waymask
  | sepc | scause | stval | svec
deriving DecidableEq, Repr

/-- What a host access over PCIe or CXL names (R229, R388-R390): device memory, a slot of a VF's launch window
(R324), a VF's BAR0, the PF's BAR0, or a window of the PF command area. -/
inductive HostTarget where
  | mem (pa : Nat)
  | launch (vf off : Nat)
  | vfBar (vf off : Nat)
  | pfBar (endpoint off : Nat)
deriving DecidableEq, Repr

/-- What a capping decision weighs (R373, R374, R378): the chip's energy in an interval and, for each member node, its own at
cadences 1 to 16, as the estimator predicts them in mJ, and the cadence that the peer of each link of the collective needs. -/
structure CapNeed where
  chip : Nat
  pred : List (List Nat)
  peers : List Nat
deriving DecidableEq, Repr, Inhabited

/-- What the energy of a VF is worked out from over 100 µs (R379): the counts of the events tagged with it and of all events, by
code from 1 on, its slice time and that of its node's VFs, and the node's idle energy in pJ. In the fallback (R378) the counts are those
of the last whole 1 ms, of which a refresh adds a tenth (log 92). -/
structure EnergyUse where
  counts : List Nat
  all : List Nat
  mine : Nat
  total : Nat
  idle : Nat
deriving DecidableEq, Repr, Inhabited

/-- One instruction or step of the opcode table. -/
inductive Instr where
  | add (rd rs1 rs2 : Reg)
  | sub (rd rs1 rs2 : Reg)
  | and (rd rs1 rs2 : Reg)
  | or (rd rs1 rs2 : Reg)
  | xor (rd rs1 rs2 : Reg)
  | andn (rd rs1 rs2 : Reg)
  | orn (rd rs1 rs2 : Reg)
  | xnor (rd rs1 rs2 : Reg)
  | sll (rd rs1 rs2 : Reg)
  | srl (rd rs1 rs2 : Reg)
  | sra (rd rs1 rs2 : Reg)
  | rol (rd rs1 rs2 : Reg)
  | ror (rd rs1 rs2 : Reg)
  | slt (rd rs1 rs2 : Reg)
  | sltu (rd rs1 rs2 : Reg)
  | min (rd rs1 rs2 : Reg)
  | max (rd rs1 rs2 : Reg)
  | minu (rd rs1 rs2 : Reg)
  | maxu (rd rs1 rs2 : Reg)
  | mul (rd rs1 rs2 : Reg)
  | mulh (rd rs1 rs2 : Reg)
  | mulhu (rd rs1 rs2 : Reg)
  | mulhsu (rd rs1 rs2 : Reg)
  | sh1add (rd rs1 rs2 : Reg)
  | sh2add (rd rs1 rs2 : Reg)
  | sh3add (rd rs1 rs2 : Reg)
  | czero (rd rs1 rs2 : Reg)
  | addw (rd rs1 rs2 : Reg)
  | subw (rd rs1 rs2 : Reg)
  | sllw (rd rs1 rs2 : Reg)
  | srlw (rd rs1 rs2 : Reg)
  | sraw (rd rs1 rs2 : Reg)
  | mulw (rd rs1 rs2 : Reg)
  | clz (rd rs1 : Reg)
  | ctz (rd rs1 : Reg)
  | popc (rd rs1 : Reg)
  | brev (rd rs1 : Reg)
  | bswap (rd rs1 : Reg)
  | sextb (rd rs1 : Reg)
  | sexth (rd rs1 : Reg)
  | sextw (rd rs1 : Reg)
  | zextb (rd rs1 : Reg)
  | zexth (rd rs1 : Reg)
  | zextw (rd rs1 : Reg)
  | addi (rd rs1 : Reg) (imm : BitVec 13)
  | andi (rd rs1 : Reg) (imm : BitVec 13)
  | ori (rd rs1 : Reg) (imm : BitVec 13)
  | xori (rd rs1 : Reg) (imm : BitVec 13)
  | slti (rd rs1 : Reg) (imm : BitVec 13)
  | sltiu (rd rs1 : Reg) (imm : BitVec 13)
  | addiw (rd rs1 : Reg) (imm : BitVec 13)
  | slli (rd rs1 : Reg) (shamt : BitVec 6)
  | srli (rd rs1 : Reg) (shamt : BitVec 6)
  | srai (rd rs1 : Reg) (shamt : BitVec 6)
  | rori (rd rs1 : Reg) (shamt : BitVec 6)
  | slliw (rd rs1 : Reg) (shamt : BitVec 5)
  | srliw (rd rs1 : Reg) (shamt : BitVec 5)
  | sraiw (rd rs1 : Reg) (shamt : BitVec 5)
  | lui (rd : Reg) (imm : BitVec 19)
  | auipc (rd : Reg) (imm : BitVec 19)
  | crdself (rd : Reg)
  | crdmk (rd rs1 rs2 : Reg)
  | crdget (rd rs1 : Reg) (field : CrdField)
  | crdset (rd rs1 rs2 : Reg) (field : CrdField)
  | crdadd (rd rs1 rs2 : Reg)
  | div (la : BitVec 4) (rd rs1 rs2 : Reg)
  | divu (la : BitVec 4) (rd rs1 rs2 : Reg)
  | rem (la : BitVec 4) (rd rs1 rs2 : Reg)
  | remu (la : BitVec 4) (rd rs1 rs2 : Reg)
  | divw (la : BitVec 4) (rd rs1 rs2 : Reg)
  | remw (la : BitVec 4) (rd rs1 rs2 : Reg)
  | fdiv (la : BitVec 4) (rd rs1 rs2 : Reg)
  | fsqrt (la : BitVec 4) (rd rs1 : Reg)
  | beq (rs1 rs2 : Reg) (off : BitVec 10)
  | bne (rs1 rs2 : Reg) (off : BitVec 10)
  | blt (rs1 rs2 : Reg) (off : BitVec 10)
  | bge (rs1 rs2 : Reg) (off : BitVec 10)
  | bltu (rs1 rs2 : Reg) (off : BitVec 10)
  | bgeu (rs1 rs2 : Reg) (off : BitVec 10)
  | beqz (rs1 : Reg) (off : BitVec 16)
  | bnez (rs1 : Reg) (off : BitVec 16)
  | bltz (rs1 : Reg) (off : BitVec 16)
  | bgez (rs1 : Reg) (off : BitVec 16)
  | bgtz (rs1 : Reg) (off : BitVec 16)
  | blez (rs1 : Reg) (off : BitVec 16)
  | jal (rd : Reg) (off : BitVec 19)
  | jalr (rd rs1 : Reg) (imm : BitVec 13)
  | ldB (la : BitVec 4) (rd base : Reg) (off : BitVec 6)
  | ldBu (la : BitVec 4) (rd base : Reg) (off : BitVec 6)
  | ldH (la : BitVec 4) (rd base : Reg) (off : BitVec 6)
  | ldHu (la : BitVec 4) (rd base : Reg) (off : BitVec 6)
  | ldW (la : BitVec 4) (rd base : Reg) (off : BitVec 6)
  | ldWu (la : BitVec 4) (rd base : Reg) (off : BitVec 6)
  | ldD (la : BitVec 4) (rd base : Reg) (off : BitVec 6)
  | ldxB (la : BitVec 4) (rd base index : Reg)
  | ldxBu (la : BitVec 4) (rd base index : Reg)
  | ldxH (la : BitVec 4) (rd base index : Reg)
  | ldxHu (la : BitVec 4) (rd base index : Reg)
  | ldxW (la : BitVec 4) (rd base index : Reg)
  | ldxWu (la : BitVec 4) (rd base index : Reg)
  | ldxD (la : BitVec 4) (rd base index : Reg)
  | ldaqB (la : BitVec 4) (scope : Scope) (rd base : Reg)
  | ldaqBu (la : BitVec 4) (scope : Scope) (rd base : Reg)
  | ldaqH (la : BitVec 4) (scope : Scope) (rd base : Reg)
  | ldaqHu (la : BitVec 4) (scope : Scope) (rd base : Reg)
  | ldaqW (la : BitVec 4) (scope : Scope) (rd base : Reg)
  | ldaqWu (la : BitVec 4) (scope : Scope) (rd base : Reg)
  | ldaqD (la : BitVec 4) (scope : Scope) (rd base : Reg)
  | stB (rs base : Reg) (off : BitVec 6) (g : Bool) (rel : Option Scope)
  | stH (rs base : Reg) (off : BitVec 6) (g : Bool) (rel : Option Scope)
  | stW (rs base : Reg) (off : BitVec 6) (g : Bool) (rel : Option Scope)
  | stD (rs base : Reg) (off : BitVec 6) (g : Bool) (rel : Option Scope)
  | logstB (rs base : Reg) (off : BitVec 6) (g : Bool) (rel : Option Scope)
  | logstH (rs base : Reg) (off : BitVec 6) (g : Bool) (rel : Option Scope)
  | amoadd (dword : Bool) (scope : Scope) (rd base rs2 : Reg)
  | amoand (dword : Bool) (scope : Scope) (rd base rs2 : Reg)
  | amoor (dword : Bool) (scope : Scope) (rd base rs2 : Reg)
  | amoxor (dword : Bool) (scope : Scope) (rd base rs2 : Reg)
  | amomin (dword : Bool) (scope : Scope) (rd base rs2 : Reg)
  | amomax (dword : Bool) (scope : Scope) (rd base rs2 : Reg)
  | amominu (dword : Bool) (scope : Scope) (rd base rs2 : Reg)
  | amomaxu (dword : Bool) (scope : Scope) (rd base rs2 : Reg)
  | amoswap (dword : Bool) (scope : Scope) (rd base rs2 : Reg)
  | amocas (dword : Bool) (scope : Scope) (rd base rs2 : Reg)
  | fence (scope : Scope) (rr rw wr ww : Bool)
  | fenceE (scope : Scope)
  | tdclr
  | cbnd (kd ks : Cap) (rs2 : Reg)
  | cperm (kd ks : Cap) (rs2 : Reg)
  | cgetb (rd : Reg) (ks : Cap)
  | cgetl (rd : Reg) (ks : Cap)
  | cgetp (rd : Reg) (ks : Cap)
  | cgett (rd : Reg) (ks : Cap)
  | cmov (kd ks : Cap)
  | cclr (kd : Cap)
  | lcap (la : BitVec 4) (kd : Cap) (base : Reg) (off : BitVec 6)
  | scap (ks : Cap) (base : Reg) (off : BitVec 6)
  | fadd (rd rs1 rs2 : Reg)
  | fsub (rd rs1 rs2 : Reg)
  | fmul (rd rs1 rs2 : Reg)
  | fmin (rd rs1 rs2 : Reg)
  | fmax (rd rs1 rs2 : Reg)
  | feq (rd rs1 rs2 : Reg)
  | flt (rd rs1 rs2 : Reg)
  | fle (rd rs1 rs2 : Reg)
  | fsgnj (rd rs1 rs2 : Reg)
  | fsgnjn (rd rs1 rs2 : Reg)
  | fsgnjx (rd rs1 rs2 : Reg)
  | fclass (rd rs1 : Reg)
  | fcvtWS (rd rs1 : Reg)
  | fcvtWuS (rd rs1 : Reg)
  | fcvtSW (rd rs1 : Reg)
  | fcvtSWu (rd rs1 : Reg)
  | fcvtSH (rd rs1 : Reg)
  | fcvtHS (rd rs1 : Reg)
  | fcvtSBf (rd rs1 : Reg)
  | fcvtBfS (rd rs1 : Reg)
  | fcvtLS (rd rs1 : Reg)
  | fcvtSL (rd rs1 : Reg)
  | fmadd (rd rs1 rs2 rs3 : Reg)
  | fnmadd (rd rs1 rs2 rs3 : Reg)
  | lnscvtB (rd rs1 : Reg)
  | lnscvtH (rd rs1 : Reg)
  | lincvtB (rd rs1 : Reg)
  | lincvtH (rd rs1 : Reg)
  | lmulB (rd rs1 rs2 : Reg)
  | lmulH (rd rs1 rs2 : Reg)
  | vaddW (vd vs1 vs2 : VReg) (vm : VMask)
  | vsubW (vd vs1 vs2 : VReg) (vm : VMask)
  | vmulW (vd vs1 vs2 : VReg) (vm : VMask)
  | vmulhW (vd vs1 vs2 : VReg) (vm : VMask)
  | vminW (vd vs1 vs2 : VReg) (vm : VMask)
  | vmaxW (vd vs1 vs2 : VReg) (vm : VMask)
  | vminuW (vd vs1 vs2 : VReg) (vm : VMask)
  | vmaxuW (vd vs1 vs2 : VReg) (vm : VMask)
  | vand (vd vs1 vs2 : VReg) (vm : VMask)
  | vor (vd vs1 vs2 : VReg) (vm : VMask)
  | vxor (vd vs1 vs2 : VReg) (vm : VMask)
  | vsll (vd vs1 vs2 : VReg) (vm : VMask)
  | vsrl (vd vs1 vs2 : VReg) (vm : VMask)
  | vsra (vd vs1 vs2 : VReg) (vm : VMask)
  | vdot4 (vd vs1 vs2 : VReg) (vm : VMask)
  | vdot4u (vd vs1 vs2 : VReg) (vm : VMask)
  | vfadd (vd vs1 vs2 : VReg) (vm : VMask)
  | vfsub (vd vs1 vs2 : VReg) (vm : VMask)
  | vfmul (vd vs1 vs2 : VReg) (vm : VMask)
  | vfma (vd vs1 vs2 : VReg) (vm : VMask)
  | vfmin (vd vs1 vs2 : VReg) (vm : VMask)
  | vfmax (vd vs1 vs2 : VReg) (vm : VMask)
  | vfrcp (vd vs1 : VReg) (vm : VMask)
  | vfrsq (vd vs1 : VReg) (vm : VMask)
  | vexp2 (vd vs1 : VReg) (vm : VMask)
  | vlog2 (vd vs1 : VReg) (vm : VMask)
  | vfabs (vd vs1 : VReg) (vm : VMask)
  | vfneg (vd vs1 : VReg) (vm : VMask)
  | vceqW (vmd : VMask) (vs1 vs2 : VReg) (vm : VMask)
  | vcltW (vmd : VMask) (vs1 vs2 : VReg) (vm : VMask)
  | vcltuW (vmd : VMask) (vs1 vs2 : VReg) (vm : VMask)
  | vfceq (vmd : VMask) (vs1 vs2 : VReg) (vm : VMask)
  | vfclt (vmd : VMask) (vs1 vs2 : VReg) (vm : VMask)
  | vfcle (vmd : VMask) (vs1 vs2 : VReg) (vm : VMask)
  | vsel (vd vs1 vs2 : VReg) (sel : VMask)
  | vmov (vd vs1 : VReg) (vm : VMask)
  | vperm (vd vs1 vs2 : VReg) (vm : VMask)
  | vcvtSW (vd vs1 : VReg) (vm : VMask)
  | vcvtWS (vd vs1 : VReg) (vm : VMask)
  | vcvtSH (vd vs1 : VReg) (vm : VMask)
  | vcvtHS (vd vs1 : VReg) (vm : VMask)
  | vcvtSBf (vd vs1 : VReg) (vm : VMask)
  | vcvtBfS (vd vs1 : VReg) (vm : VMask)
  | vlmulH (vd vs1 vs2 : VReg) (vm : VMask)
  | vlinH (vd vs1 : VReg) (vm : VMask)
  | vlogH (vd vs1 : VReg) (vm : VMask)
  | vlinB (vd vs1 : VReg) (vm : VMask)
  | vlogB (vd vs1 : VReg) (vm : VMask)
  | vredsumW (vs1 : VReg) (vm : VMask)
  | vredsumS (vs1 : VReg) (vm : VMask)
  | vredmaxS (vs1 : VReg) (vm : VMask)
  | vredminS (vs1 : VReg) (vm : VMask)
  | vredmaxW (vs1 : VReg) (vm : VMask)
  | vaddWShort (vd vs : VReg)
  | vsubWShort (vd vs : VReg)
  | vmulWShort (vd vs : VReg)
  | vandShort (vd vs : VReg)
  | vorShort (vd vs : VReg)
  | vxorShort (vd vs : VReg)
  | vminWShort (vd vs : VReg)
  | vmaxWShort (vd vs : VReg)
  | vfaddShort (vd vs : VReg)
  | vfsubShort (vd vs : VReg)
  | vfmulShort (vd vs : VReg)
  | vfminShort (vd vs : VReg)
  | vfmaxShort (vd vs : VReg)
  | vmovShort (vd vs : VReg)
  | vlmulHShort (vd vs : VReg)
  | vsllShort (vd vs : VReg)
  | vaddWBcast (vd : VReg) (o : Fin 8)
  | vsubWBcast (vd : VReg) (o : Fin 8)
  | vmulWBcast (vd : VReg) (o : Fin 8)
  | vandBcast (vd : VReg) (o : Fin 8)
  | vorBcast (vd : VReg) (o : Fin 8)
  | vxorBcast (vd : VReg) (o : Fin 8)
  | vminWBcast (vd : VReg) (o : Fin 8)
  | vmaxWBcast (vd : VReg) (o : Fin 8)
  | vfaddBcast (vd : VReg) (o : Fin 8)
  | vfsubBcast (vd : VReg) (o : Fin 8)
  | vfmulBcast (vd : VReg) (o : Fin 8)
  | vfminBcast (vd : VReg) (o : Fin 8)
  | vfmaxBcast (vd : VReg) (o : Fin 8)
  | vmovBcast (vd : VReg) (o : Fin 8)
  | vlmulHBcast (vd : VReg) (o : Fin 8)
  | vsllBcast (vd : VReg) (o : Fin 8)
  | vld (vd : VReg) (k : Cap) (rs2 : Reg) (vm : VMask)
  | vst (vd : VReg) (k : Cap) (rs2 : Reg) (vm : VMask)
  | vlds (vd : VReg) (k : Cap) (rs2 : Reg) (vm : VMask)
  | vsts (vd : VReg) (k : Cap) (rs2 : Reg) (vm : VMask)
  | vldg (vd : VReg) (k : Cap) (vm : VMask)
  | vstg (vd : VReg) (k : Cap) (vn : VReg) (vm : VMask)
  | vbcast (vd : VReg) (rs1 : Reg) (vm : VMask)
  | vmovs (vd : VReg) (rs2 : Reg)
  | vins (vd : VReg) (rs1 rs2 : Reg)
  | viota (vd : VReg) (vm : VMask)
  | vrand (vd : VReg) (vm : VMask)
  | gang (rs1 : Reg)
  | ungang
  | vfence
  | vsetw (rs1 : Reg)
  | vmand (vmd vms1 vms2 : VMask)
  | vmor (vmd vms1 vms2 : VMask)
  | vmnot (vmd vms1 : VMask)
  | vmpopc (rd : Reg) (vms1 : VMask)
  | mclaim (rd : Reg)
  | mfree
  | mldw (rs1 : Reg)
  | mswap
  | mstream (rs1 rs2 : Reg)
  | mzero (rs1 rs2 : Reg)
  | mstore (rs1 rs2 : Reg)
  | mwait
  | mmode (rs1 : Reg)
  | mscale (rs1 rs2 : Reg)
  | mstat (rd : Reg)
  | cpq (q : Fin 8)
  | cpqt (rd : Reg) (q : Fin 8)
  | rinit (rs1 : Reg)
  | rawait (rd rs1 : Reg)
  | rrel (rs1 : Reg)
  | rpeek (rd rs1 : Reg)
  | binit (rs1 rs2 : Reg)
  | barv (rd rs1 : Reg)
  | bexp (rs1 rs2 : Reg)
  | bwait (rd rs1 rs2 : Reg)
  | btest (rd rs1 rs2 : Reg)
  | grank (rd rs1 : Reg)
  | gsize (rd rs1 : Reg)
  | garv (rd rs1 : Reg)
  | gwait (rs1 rs2 : Reg)
  | evsig (rs1 rs2 : Reg)
  | evwait (rs1 : Reg)
  | evtry (rd rs1 : Reg)
  | evset (rs1 : Reg)
  | evclr (rs1 : Reg)
  | spawn (rd rs1 : Reg)
  | suspend
  | yield
  | exit
  | resume (rs1 : Reg)
  | dist (rd rs1 : Reg) (size : BitVec 13)
  | srd (rd : Reg) (sr : SysReg)
  | swr (rd : Reg) (sr : SysReg) (rs1 : Reg)
  | sset (rd : Reg) (sr : SysReg) (rs1 : Reg)
  | sclr (rd : Reg) (sr : SysReg) (rs1 : Reg)
  | trap (code : BitVec 6)
  | uret
  | uiret
  | sret
  | brk
  | wfi
  | uien (rs1 : Reg)
  | pref (rs1 : Reg)
  | invl (rs1 : Reg)
  | hmbump (rs1 : Reg)
  | relack (rs1 : Reg)
  | flushl (rs1 : Reg)
  | vfcall (rd rs1 : Reg)
  | qrnPop
  | qcsPop
  | qntPop
  | qvsPop
  | qmoPop
  | qmiPush (v : W64)
  | qsaPush (v : W64)
  | qsoPop
  | lookaheadResult (i : Nat)
  | storeOrdered (i : Nat)
  | acknowledgement (i : Nat)
  | amoResult
  | allowanceEnd (i : Nat)
  | userInterrupt
  | asynchronousTrap
  | vectorGrant (cell : Nat)
  | vectorComplete
  | copyChunkStart (engine : Nat)
  | copyChunkDone (id : Nat)
  | copyCompletion (id : Nat)
  | periodRefill (vf : Nat)
  | planeLoad (cell : Nat)
  | rowInjection (cell : Nat)
  | rowComplete (cell : Nat)
  | pageRelocation
  | cellRetirement (cell : Nat)
  | scrub (cell corrected : Nat)
  | softErrorHalving
  | stage2Load (vf : Nat)
  | pageWalk (die : Nat)
  | hostWrite (t : HostTarget) (data : List Byte)
  | hostRead (t : HostTarget) (n : Nat)
  | launchCommit (vf slot : Nat)
  | launchCompletion (id : Nat)
  | dispatch
  | sliceEnding (node : Nat)
  | sliceEnd (node : Nat)
  | coreHalt
  | flushComplete (node : Nat)
  | sliceStart (node : Nat)
  | actionRecord
  | setmin
  | setwd
  | setimg
  | actionDelivery (ac : Nat)
  | post (ac : Nat)
  | wait (ac : Nat)
  | controlBlockWrite (ac off : Nat) (v : W64)
  | episodeZeroed (n : Nat)
  | watchdogExpiry (n : Nat)
  | cappingDecision (coll : Nat) (need : CapNeed)
  | cadenceApply (coll : Nat)
  | tokenGrant (mj : Nat)
  | tokenTrade (inward : Bool) (mj : Nat)
  | fallbackGrant
  | estimatorRefit (shunt : Option Nat) (rms : Nat) (counts : List Nat)
  | telemetryRead (mw : Nat)
  | energyRefresh (vf : Nat) (use : EnergyUse)
  | stallrUpdate (cluster : Nat) (v : BitVec 16)
  | setv (die mv : Nat)
  | setfb (cluster freq : Nat) (bias : Int)
  | voltageStepSettled (die : Nat)
  | biasSettled (cluster : Nat)
  | thermalSample (sensor : Nat) (degC : Nat)
  | coolantFlowLow (decilitres : Nat)
  | ackTimeout (i : Nat)
  | hivePortFailure (die : Nat)
  | peerChunkArrival (link ring vf cmd len chunk : Nat) (data : List (Byte × Bool))
  | chipLinkFailure (link : Nat)
  | powerOnReset
  | enterReduced
  | enterFull
  | assignvf (vf node share : Nat) (compat : Bool)
  | sets2 (vf i : Nat) (e : BitVec 128)
  | setslice (node i vf units : Nat) (valid : Bool)
  | setcoll (node coll : Nat)
  | setway (vf cell : Nat) (mask : BitVec 16)
  | setscope (vf : Nat) (scope : Scope)
  | setmbox (n : Nat) (owner : Option Nat)
  | setbudget (vf units period weight : Nat)
  | resetdie (die : Nat)
  | saveregion (base size : Nat)
  | attest (nonce : List Byte)
  | s2reply (vf status result : Nat)
  | setroot (vf : Nat)
  | reserve (vf : Nat)
  | relocate (vf : Nat)
  | setq (vf : Nat)
  | s2req (vf : Nat)
  | publish (vf : Nat)
  | unpublish (vf : Nat)
  | pwrread (vf : Nat)
  | reservedEncoding (w : BitVec 32)
  | fetchFault
  | environmentCoreInstruction (ac : Nat)
  | hiveDieFault
  | matrixInstructionComplete (cell : Nat)
deriving DecidableEq, Repr

end Sys2Proof
end

