-- ==== Sys2Proof/Config.lean ====
section
/-!
DEFINITION. The turns by which agents act, and the free values: what the spec leaves open and no proof can see.
-/

namespace Sys2Proof

/-- What happens in one turn (log 1). -/
inductive Act where
  /-- the core issues its next instruction -/
  | instr
  /-- a step of another agent, or an event row of the opcode table -/
  | event (e : Instr)
  /-- GCYCLE advances by `n` cycles of 1.25 GHz (R11) -/
  | elapse (n : Nat)
  /-- the agents of the writer's die begin to see the core's `i`-th queued store, before it has its place (R224) -/
  | shown (i : Nat)
  /-- the write with this number becomes performed at package scope (R224) -/
  | performed (id : Nat)
  /-- the stored check value of a global line becomes `v`, by damage in storage or transit (R180) -/
  | damage (line : Nat) (v : W32)
  /-- an uncorrectable error in the 8-byte SRAM word at this storage address: of a scratchpad, or of a slice that holds its line
  (R180) -/
  | wordError (addr : Nat)
  /-- a comb or store die reports an uncorrectable internal error, or the power controller turns it off (R360) -/
  | dieFailure (die : Nat)
  /-- a decision of a peer chip for a collective that spans chips comes in over a link: cadence and apply cycle (R375, R394) -/
  | peerCadence (link coll new t : Nat)
  /-- a peer chip's command to a landing ring ends before its last chunk: link, ring, sender VF and its command number (R258, R393) -/
  | peerEnd (link ring vf cmd : Nat)
  /-- the emergency save writes its next context (R384) -/
  | saveStep
  /-- firmware goes on with the busy command of an endpoint's PF (R390) -/
  | pfStep (endpoint : Nat)
deriving DecidableEq, Repr, Inhabited

/-- One turn: the core whose context is acting, and what happens. -/
structure Turn where
  core : Nat
  act : Act
deriving DecidableEq, Repr, Inhabited

namespace Config

/-- The turn taken when the schedule of the state is empty: free (log 1). -/
opaque turn : Nat → Turn

/-- Whether a read returns the value older than a performed G = 0 write while the allowance of R224 lasts:
the read's number and the write's number; free (log 10). -/
opaque stale : Nat → Nat → Bool

/-- The order in which the matrix engine adds the products of one column (R91): from the cell and the claim, the row's number
since that claim and the column, a ranking of the products; free (log 11). -/
opaque accOrder : Nat × Nat → Nat → Nat → Nat → Nat

/-- What a peer chip answers a chunk of a copy command: command number and turn. To the first chunk 0 admits it, 1 has a full ring,
3 and 6 refuse it as R258 does, any other number refuses it; to a later chunk 5 refuses it (R393); free (log 19). -/
opaque peerAnswer : Nat → Nat → Nat

/-- Which of the VFs that share a node owns a scratchpad page (R164), by the number of the placement, core and page: firmware
decides when it places a VF; free (log 22). -/
opaque pageShare : Nat → Nat → Nat → Nat

/-- The signer's random number of a report (R396), by the report's number; free (log 23). -/
opaque signerNonce : Nat → Nat

/-- The private identity key that the part's PUF gives with the helper data of board flash (R396); free (log 23). -/
opaque pufKey : List Byte → Nat

/-- The version that a signed image or configuration states (R396); no rule gives its place; free (log 23). -/
opaque versionOf : List Byte → W32

/-- A byte of the digest of Lumyth's public key that the mask ROM holds (R395); free (log 23). -/
opaque romDigest : Nat → Byte

/-- The estimator's factory weight of an event code, an energy: `n / (d + 1)` pJ (R377); free (log 92). -/
opaque factoryWeight : Nat → Nat × Nat

/-- The spread that the estimator's refit starts from (R377); free (log 92). -/
opaque refitSpread : Rat

/-- The leakage of a cluster in pJ per µs: supply in mV, bias in mV, junction in °C (R377); free (log 92). -/
opaque leakage : Nat → Int → Nat → Rat

/-- A byte of a register save area after a save (R320), by the number of the save and its address: no rule lays the area
out; free (log 6). -/
opaque saveByte : Nat → Nat → Byte

/-- The flit bits a transfer of `n` payload bytes takes on the network, which R240 counts and no rule states; free (log 18). -/
opaque flitBits : Nat → Nat

/-- How far a route goes beyond the architectural path between two homes: path length and turn. R240 counts the routes taken, which no
rule gives; free (log 18). -/
opaque detour : Nat → Nat → Nat

end Config

end Sys2Proof
end

