-- ==== Sys2Proof/WellFormed.lean ====
section
/-!
DEFINITION. Which instruction terms the encoding admits (R24-R26, R31, R40, R48, R57, R61).
Event rows have no encoding and no restriction.
-/

namespace Sys2Proof

/-- A register a program may read as a source (R24). -/
def Reg.readable : Reg → Bool
  | .qmi | .qsa => false
  | _ => true

/-- A register a program may name as a destination (R24). -/
def Reg.writable : Reg → Bool
  | .l _ | .qmo | .qcs | .qnt | .qrn | .qvs | .qso => false
  | _ => true

/-- The queue registers (R24). -/
def Reg.isQueue : Reg → Bool
  | .m _ | .o _ | .l _ | .z => false
  | _ => true

/-- A pop register named as a source (R24). -/
def Reg.isPop : Reg → Bool
  | .qmo | .qcs | .qnt | .qrn | .qvs | .qso => true
  | _ => false

/-- The source fields of one instruction: all readable, at most one a queue register (R25). -/
def srcsOk (rs : List Reg) : Bool :=
  rs.all Reg.readable && decide ((rs.filter Reg.isQueue).length ≤ 1)

/-- A base, index or address operand: readable and no queue register (R25). -/
def Reg.addrOk (r : Reg) : Bool := r.readable && !r.isQueue

/-- A release at package or system scope must have G = 1 (R31). -/
def relOk (g : Bool) (rel : Option Scope) : Bool :=
  match rel with
  | some .pkg => g
  | some .sys => g
  | _ => true

/-- A mask register an instruction may write: not vm0 (R26). -/
def VMask.writable (v : VMask) : Bool := decide (v ≠ 0)

/-- The instruction terms that some encoding stands for; every event row is one. -/
def Instr.wf : Instr → Bool
  | .add rd rs1 rs2 => rd.writable && srcsOk [rs1, rs2]
  | .sub rd rs1 rs2 => rd.writable && srcsOk [rs1, rs2]
  | .and rd rs1 rs2 => rd.writable && srcsOk [rs1, rs2]
  | .or rd rs1 rs2 => rd.writable && srcsOk [rs1, rs2]
  | .xor rd rs1 rs2 => rd.writable && srcsOk [rs1, rs2]
  | .andn rd rs1 rs2 => rd.writable && srcsOk [rs1, rs2]
  | .orn rd rs1 rs2 => rd.writable && srcsOk [rs1, rs2]
  | .xnor rd rs1 rs2 => rd.writable && srcsOk [rs1, rs2]
  | .sll rd rs1 rs2 => rd.writable && srcsOk [rs1, rs2]
  | .srl rd rs1 rs2 => rd.writable && srcsOk [rs1, rs2]
  | .sra rd rs1 rs2 => rd.writable && srcsOk [rs1, rs2]
  | .rol rd rs1 rs2 => rd.writable && srcsOk [rs1, rs2]
  | .ror rd rs1 rs2 => rd.writable && srcsOk [rs1, rs2]
  | .slt rd rs1 rs2 => rd.writable && srcsOk [rs1, rs2]
  | .sltu rd rs1 rs2 => rd.writable && srcsOk [rs1, rs2]
  | .min rd rs1 rs2 => rd.writable && srcsOk [rs1, rs2]
  | .max rd rs1 rs2 => rd.writable && srcsOk [rs1, rs2]
  | .minu rd rs1 rs2 => rd.writable && srcsOk [rs1, rs2]
  | .maxu rd rs1 rs2 => rd.writable && srcsOk [rs1, rs2]
  | .mul rd rs1 rs2 => rd.writable && srcsOk [rs1, rs2]
  | .mulh rd rs1 rs2 => rd.writable && srcsOk [rs1, rs2]
  | .mulhu rd rs1 rs2 => rd.writable && srcsOk [rs1, rs2]
  | .mulhsu rd rs1 rs2 => rd.writable && srcsOk [rs1, rs2]
  | .sh1add rd rs1 rs2 => rd.writable && srcsOk [rs1, rs2]
  | .sh2add rd rs1 rs2 => rd.writable && srcsOk [rs1, rs2]
  | .sh3add rd rs1 rs2 => rd.writable && srcsOk [rs1, rs2]
  | .czero rd rs1 rs2 => rd.writable && srcsOk [rs1, rs2]
  | .addw rd rs1 rs2 => rd.writable && srcsOk [rs1, rs2]
  | .subw rd rs1 rs2 => rd.writable && srcsOk [rs1, rs2]
  | .sllw rd rs1 rs2 => rd.writable && srcsOk [rs1, rs2]
  | .srlw rd rs1 rs2 => rd.writable && srcsOk [rs1, rs2]
  | .sraw rd rs1 rs2 => rd.writable && srcsOk [rs1, rs2]
  | .mulw rd rs1 rs2 => rd.writable && srcsOk [rs1, rs2]
  | .clz rd rs1 => rd.writable && srcsOk [rs1]
  | .ctz rd rs1 => rd.writable && srcsOk [rs1]
  | .popc rd rs1 => rd.writable && srcsOk [rs1]
  | .brev rd rs1 => rd.writable && srcsOk [rs1]
  | .bswap rd rs1 => rd.writable && srcsOk [rs1]
  | .sextb rd rs1 => rd.writable && srcsOk [rs1]
  | .sexth rd rs1 => rd.writable && srcsOk [rs1]
  | .sextw rd rs1 => rd.writable && srcsOk [rs1]
  | .zextb rd rs1 => rd.writable && srcsOk [rs1]
  | .zexth rd rs1 => rd.writable && srcsOk [rs1]
  | .zextw rd rs1 => rd.writable && srcsOk [rs1]
  | .addi rd rs1 _ => rd.writable && srcsOk [rs1]
  | .andi rd rs1 _ => rd.writable && srcsOk [rs1]
  | .ori rd rs1 _ => rd.writable && srcsOk [rs1]
  | .xori rd rs1 _ => rd.writable && srcsOk [rs1]
  | .slti rd rs1 _ => rd.writable && srcsOk [rs1]
  | .sltiu rd rs1 _ => rd.writable && srcsOk [rs1]
  | .addiw rd rs1 _ => rd.writable && srcsOk [rs1]
  | .slli rd rs1 _ => rd.writable && srcsOk [rs1]
  | .srli rd rs1 _ => rd.writable && srcsOk [rs1]
  | .srai rd rs1 _ => rd.writable && srcsOk [rs1]
  | .rori rd rs1 _ => rd.writable && srcsOk [rs1]
  | .slliw rd rs1 _ => rd.writable && srcsOk [rs1]
  | .srliw rd rs1 _ => rd.writable && srcsOk [rs1]
  | .sraiw rd rs1 _ => rd.writable && srcsOk [rs1]
  | .lui rd _ => rd.writable
  | .auipc rd _ => rd.writable
  | .crdself rd => rd.writable
  | .crdmk rd rs1 rs2 => rd.writable && srcsOk [rs1, rs2]
  | .crdget rd rs1 _ => rd.writable && srcsOk [rs1]
  | .crdset rd rs1 rs2 _ => rd.writable && srcsOk [rs1, rs2]
  | .crdadd rd rs1 rs2 => rd.writable && srcsOk [rs1, rs2]
  | .div _ rd rs1 rs2 => rd.writable && srcsOk [rs1, rs2]
  | .divu _ rd rs1 rs2 => rd.writable && srcsOk [rs1, rs2]
  | .rem _ rd rs1 rs2 => rd.writable && srcsOk [rs1, rs2]
  | .remu _ rd rs1 rs2 => rd.writable && srcsOk [rs1, rs2]
  | .divw _ rd rs1 rs2 => rd.writable && srcsOk [rs1, rs2]
  | .remw _ rd rs1 rs2 => rd.writable && srcsOk [rs1, rs2]
  | .fdiv _ rd rs1 rs2 => rd.writable && srcsOk [rs1, rs2]
  | .fsqrt _ rd rs1 => rd.writable && srcsOk [rs1]
  | .beq rs1 rs2 _ => srcsOk [rs1, rs2]
  | .bne rs1 rs2 _ => srcsOk [rs1, rs2]
  | .blt rs1 rs2 _ => srcsOk [rs1, rs2]
  | .bge rs1 rs2 _ => srcsOk [rs1, rs2]
  | .bltu rs1 rs2 _ => srcsOk [rs1, rs2]
  | .bgeu rs1 rs2 _ => srcsOk [rs1, rs2]
  | .beqz rs1 _ => srcsOk [rs1]
  | .bnez rs1 _ => srcsOk [rs1]
  | .bltz rs1 _ => srcsOk [rs1]
  | .bgez rs1 _ => srcsOk [rs1]
  | .bgtz rs1 _ => srcsOk [rs1]
  | .blez rs1 _ => srcsOk [rs1]
  | .jal rd _ => rd.writable
  | .jalr rd rs1 _ => rd.writable && srcsOk [rs1]
  | .ldB _ rd base _ => rd.writable && base.addrOk
  | .ldBu _ rd base _ => rd.writable && base.addrOk
  | .ldH _ rd base _ => rd.writable && base.addrOk
  | .ldHu _ rd base _ => rd.writable && base.addrOk
  | .ldW _ rd base _ => rd.writable && base.addrOk
  | .ldWu _ rd base _ => rd.writable && base.addrOk
  | .ldD _ rd base _ => rd.writable && base.addrOk
  | .ldxB _ rd base index => rd.writable && base.addrOk && index.addrOk
  | .ldxBu _ rd base index => rd.writable && base.addrOk && index.addrOk
  | .ldxH _ rd base index => rd.writable && base.addrOk && index.addrOk
  | .ldxHu _ rd base index => rd.writable && base.addrOk && index.addrOk
  | .ldxW _ rd base index => rd.writable && base.addrOk && index.addrOk
  | .ldxWu _ rd base index => rd.writable && base.addrOk && index.addrOk
  | .ldxD _ rd base index => rd.writable && base.addrOk && index.addrOk
  | .ldaqB _ _ rd base => rd.writable && base.addrOk
  | .ldaqBu _ _ rd base => rd.writable && base.addrOk
  | .ldaqH _ _ rd base => rd.writable && base.addrOk
  | .ldaqHu _ _ rd base => rd.writable && base.addrOk
  | .ldaqW _ _ rd base => rd.writable && base.addrOk
  | .ldaqWu _ _ rd base => rd.writable && base.addrOk
  | .ldaqD _ _ rd base => rd.writable && base.addrOk
  | .stB rs base _ g rel => srcsOk [rs] && base.addrOk && relOk g rel
  | .stH rs base _ g rel => srcsOk [rs] && base.addrOk && relOk g rel
  | .stW rs base _ g rel => srcsOk [rs] && base.addrOk && relOk g rel
  | .stD rs base _ g rel => srcsOk [rs] && base.addrOk && relOk g rel
  | .logstB rs base _ g rel => srcsOk [rs] && base.addrOk && relOk g rel
  | .logstH rs base _ g rel => srcsOk [rs] && base.addrOk && relOk g rel
  | .amoadd _ _ rd base rs2 => rd.writable && base.addrOk && srcsOk [rs2]
  | .amoand _ _ rd base rs2 => rd.writable && base.addrOk && srcsOk [rs2]
  | .amoor _ _ rd base rs2 => rd.writable && base.addrOk && srcsOk [rs2]
  | .amoxor _ _ rd base rs2 => rd.writable && base.addrOk && srcsOk [rs2]
  | .amomin _ _ rd base rs2 => rd.writable && base.addrOk && srcsOk [rs2]
  | .amomax _ _ rd base rs2 => rd.writable && base.addrOk && srcsOk [rs2]
  | .amominu _ _ rd base rs2 => rd.writable && base.addrOk && srcsOk [rs2]
  | .amomaxu _ _ rd base rs2 => rd.writable && base.addrOk && srcsOk [rs2]
  | .amoswap _ _ rd base rs2 => rd.writable && base.addrOk && srcsOk [rs2]
  | .amocas _ _ rd base rs2 => rd.writable && base.addrOk && srcsOk [rd, rs2]
  | .fence _ rr rw wr ww => rr || rw || wr || ww
  | .fenceE _ => true
  | .tdclr => true
  | .cbnd _ _ rs2 => srcsOk [rs2]
  | .cperm _ _ rs2 => srcsOk [rs2]
  | .cgetb rd _ => rd.writable
  | .cgetl rd _ => rd.writable
  | .cgetp rd _ => rd.writable
  | .cgett rd _ => rd.writable
  | .cmov _ _ => true
  | .cclr _ => true
  | .lcap _ _ base _ => base.addrOk
  | .scap _ base _ => base.addrOk
  | .fadd rd rs1 rs2 => rd.writable && srcsOk [rs1, rs2]
  | .fsub rd rs1 rs2 => rd.writable && srcsOk [rs1, rs2]
  | .fmul rd rs1 rs2 => rd.writable && srcsOk [rs1, rs2]
  | .fmin rd rs1 rs2 => rd.writable && srcsOk [rs1, rs2]
  | .fmax rd rs1 rs2 => rd.writable && srcsOk [rs1, rs2]
  | .feq rd rs1 rs2 => rd.writable && srcsOk [rs1, rs2]
  | .flt rd rs1 rs2 => rd.writable && srcsOk [rs1, rs2]
  | .fle rd rs1 rs2 => rd.writable && srcsOk [rs1, rs2]
  | .fsgnj rd rs1 rs2 => rd.writable && srcsOk [rs1, rs2]
  | .fsgnjn rd rs1 rs2 => rd.writable && srcsOk [rs1, rs2]
  | .fsgnjx rd rs1 rs2 => rd.writable && srcsOk [rs1, rs2]
  | .fclass rd rs1 => rd.writable && srcsOk [rs1]
  | .fcvtWS rd rs1 => rd.writable && srcsOk [rs1]
  | .fcvtWuS rd rs1 => rd.writable && srcsOk [rs1]
  | .fcvtSW rd rs1 => rd.writable && srcsOk [rs1]
  | .fcvtSWu rd rs1 => rd.writable && srcsOk [rs1]
  | .fcvtSH rd rs1 => rd.writable && srcsOk [rs1]
  | .fcvtHS rd rs1 => rd.writable && srcsOk [rs1]
  | .fcvtSBf rd rs1 => rd.writable && srcsOk [rs1]
  | .fcvtBfS rd rs1 => rd.writable && srcsOk [rs1]
  | .fcvtLS rd rs1 => rd.writable && srcsOk [rs1]
  | .fcvtSL rd rs1 => rd.writable && srcsOk [rs1]
  | .fmadd rd rs1 rs2 rs3 => rd.writable && srcsOk [rs1, rs2, rs3]
  | .fnmadd rd rs1 rs2 rs3 => rd.writable && srcsOk [rs1, rs2, rs3]
  | .lnscvtB rd rs1 => rd.writable && srcsOk [rs1]
  | .lnscvtH rd rs1 => rd.writable && srcsOk [rs1]
  | .lincvtB rd rs1 => rd.writable && srcsOk [rs1]
  | .lincvtH rd rs1 => rd.writable && srcsOk [rs1]
  | .lmulB rd rs1 rs2 => rd.writable && srcsOk [rs1, rs2]
  | .lmulH rd rs1 rs2 => rd.writable && srcsOk [rs1, rs2]
  | .vaddW _ _ _ _ => true
  | .vsubW _ _ _ _ => true
  | .vmulW _ _ _ _ => true
  | .vmulhW _ _ _ _ => true
  | .vminW _ _ _ _ => true
  | .vmaxW _ _ _ _ => true
  | .vminuW _ _ _ _ => true
  | .vmaxuW _ _ _ _ => true
  | .vand _ _ _ _ => true
  | .vor _ _ _ _ => true
  | .vxor _ _ _ _ => true
  | .vsll _ _ _ _ => true
  | .vsrl _ _ _ _ => true
  | .vsra _ _ _ _ => true
  | .vdot4 _ _ _ _ => true
  | .vdot4u _ _ _ _ => true
  | .vfadd _ _ _ _ => true
  | .vfsub _ _ _ _ => true
  | .vfmul _ _ _ _ => true
  | .vfma _ _ _ _ => true
  | .vfmin _ _ _ _ => true
  | .vfmax _ _ _ _ => true
  | .vfrcp _ _ _ => true
  | .vfrsq _ _ _ => true
  | .vexp2 _ _ _ => true
  | .vlog2 _ _ _ => true
  | .vfabs _ _ _ => true
  | .vfneg _ _ _ => true
  | .vceqW vmd _ _ _ => VMask.writable vmd
  | .vcltW vmd _ _ _ => VMask.writable vmd
  | .vcltuW vmd _ _ _ => VMask.writable vmd
  | .vfceq vmd _ _ _ => VMask.writable vmd
  | .vfclt vmd _ _ _ => VMask.writable vmd
  | .vfcle vmd _ _ _ => VMask.writable vmd
  | .vsel _ _ _ _ => true
  | .vmov _ _ _ => true
  | .vperm _ _ _ _ => true
  | .vcvtSW _ _ _ => true
  | .vcvtWS _ _ _ => true
  | .vcvtSH _ _ _ => true
  | .vcvtHS _ _ _ => true
  | .vcvtSBf _ _ _ => true
  | .vcvtBfS _ _ _ => true
  | .vlmulH _ _ _ _ => true
  | .vlinH _ _ _ => true
  | .vlogH _ _ _ => true
  | .vlinB _ _ _ => true
  | .vlogB _ _ _ => true
  | .vredsumW _ _ => true
  | .vredsumS _ _ => true
  | .vredmaxS _ _ => true
  | .vredminS _ _ => true
  | .vredmaxW _ _ => true
  | .vaddWShort vd vs => !(decide (vd = 0) && decide (vs = 0))
  | .vsubWShort _ _ => true
  | .vmulWShort _ _ => true
  | .vandShort _ _ => true
  | .vorShort _ _ => true
  | .vxorShort _ _ => true
  | .vminWShort _ _ => true
  | .vmaxWShort _ _ => true
  | .vfaddShort _ _ => true
  | .vfsubShort _ _ => true
  | .vfmulShort _ _ => true
  | .vfminShort _ _ => true
  | .vfmaxShort _ _ => true
  | .vmovShort _ _ => true
  | .vlmulHShort _ _ => true
  | .vsllShort _ _ => true
  | .vaddWBcast _ _ => true
  | .vsubWBcast _ _ => true
  | .vmulWBcast _ _ => true
  | .vandBcast _ _ => true
  | .vorBcast _ _ => true
  | .vxorBcast _ _ => true
  | .vminWBcast _ _ => true
  | .vmaxWBcast _ _ => true
  | .vfaddBcast _ _ => true
  | .vfsubBcast _ _ => true
  | .vfmulBcast _ _ => true
  | .vfminBcast _ _ => true
  | .vfmaxBcast _ _ => true
  | .vmovBcast _ _ => true
  | .vlmulHBcast _ _ => true
  | .vsllBcast _ _ => true
  | .vld _ _ rs2 _ => rs2.addrOk
  | .vst _ _ rs2 _ => rs2.addrOk
  | .vlds _ _ rs2 _ => rs2.addrOk
  | .vsts _ _ rs2 _ => rs2.addrOk
  | .vldg _ _ _ => true
  | .vstg _ _ _ _ => true
  | .vbcast _ rs1 _ => rs1.addrOk
  | .vmovs _ rs2 => rs2.addrOk
  | .vins _ rs1 rs2 => rs1.addrOk && rs2.addrOk
  | .viota _ _ => true
  | .vrand _ _ => true
  | .gang rs1 => srcsOk [rs1]
  | .ungang => true
  | .vfence => true
  | .vsetw rs1 => srcsOk [rs1]
  | .vmand vmd _ _ => VMask.writable vmd
  | .vmor vmd _ _ => VMask.writable vmd
  | .vmnot vmd _ => VMask.writable vmd
  | .vmpopc rd _ => rd.writable
  | .mclaim rd => rd.writable
  | .mfree => true
  | .mldw rs1 => srcsOk [rs1]
  | .mswap => true
  | .mstream rs1 rs2 => rs1.addrOk && srcsOk [rs2]
  | .mzero rs1 rs2 => srcsOk [rs1, rs2]
  | .mstore rs1 rs2 => srcsOk [rs1, rs2]
  | .mwait => true
  | .mmode rs1 => srcsOk [rs1]
  | .mscale rs1 rs2 => srcsOk [rs1, rs2]
  | .mstat rd => rd.writable
  | .cpq _ => true
  | .cpqt rd _ => rd.writable
  | .rinit rs1 => srcsOk [rs1]
  | .rawait rd rs1 => rd.writable && srcsOk [rs1]
  | .rrel rs1 => srcsOk [rs1]
  | .rpeek rd rs1 => rd.writable && srcsOk [rs1]
  | .binit rs1 rs2 => srcsOk [rs1, rs2]
  | .barv rd rs1 => rd.writable && srcsOk [rs1]
  | .bexp rs1 rs2 => srcsOk [rs1, rs2]
  | .bwait rd rs1 rs2 => rd.writable && srcsOk [rs1, rs2]
  | .btest rd rs1 rs2 => rd.writable && srcsOk [rs1, rs2]
  | .grank rd rs1 => rd.writable && srcsOk [rs1]
  | .gsize rd rs1 => rd.writable && srcsOk [rs1]
  | .garv rd rs1 => rd.writable && srcsOk [rs1]
  | .gwait rs1 rs2 => srcsOk [rs1, rs2]
  | .evsig rs1 rs2 => srcsOk [rs1, rs2]
  | .evwait rs1 => srcsOk [rs1]
  | .evtry rd rs1 => rd.writable && srcsOk [rs1]
  | .evset rs1 => srcsOk [rs1]
  | .evclr rs1 => srcsOk [rs1]
  | .spawn rd rs1 => rd.writable && srcsOk [rs1]
  | .suspend => true
  | .yield => true
  | .exit => true
  | .resume rs1 => srcsOk [rs1]
  | .dist rd rs1 size => rd.writable && srcsOk [rs1] && decide (1 ≤ size.toNat ∧ size.toNat ≤ 4096)
  | .srd rd _ => rd.writable
  | .swr rd _ rs1 => rd.writable && srcsOk [rs1]
  | .sset rd _ rs1 => rd.writable && srcsOk [rs1]
  | .sclr rd _ rs1 => rd.writable && srcsOk [rs1]
  | .trap _ => true
  | .uret => true
  | .uiret => true
  | .sret => true
  | .brk => true
  | .wfi => true
  | .uien rs1 => srcsOk [rs1]
  | .pref rs1 => rs1.addrOk
  | .invl rs1 => rs1.addrOk
  | .hmbump rs1 => rs1.addrOk
  | .relack rs1 => rs1.addrOk
  | .flushl rs1 => rs1.addrOk
  | .vfcall rd rs1 => rd.writable && srcsOk [rs1]
  | .qrnPop => true
  | .qcsPop => true
  | .qntPop => true
  | .qvsPop => true
  | .qmoPop => true
  | .qmiPush _ => true
  | .qsaPush _ => true
  | .qsoPop => true
  | .lookaheadResult _ => true
  | .storeOrdered _ => true
  | .acknowledgement _ => true
  | .amoResult => true
  | .allowanceEnd _ => true
  | .userInterrupt => true
  | .asynchronousTrap => true
  | .vectorGrant _ => true
  | .vectorComplete => true
  | .copyChunkStart _ => true
  | .copyChunkDone _ => true
  | .copyCompletion _ => true
  | .periodRefill _ => true
  | .planeLoad _ => true
  | .rowInjection _ => true
  | .rowComplete _ => true
  | .pageRelocation => true
  | .cellRetirement _ => true
  | .scrub _ _ => true
  | .softErrorHalving => true
  | .stage2Load _ => true
  | .pageWalk _ => true
  | .hostWrite _ _ => true
  | .hostRead _ _ => true
  | .launchCommit _ _ => true
  | .launchCompletion _ => true
  | .dispatch => true
  | .sliceEnding _ => true
  | .sliceEnd _ => true
  | .coreHalt => true
  | .flushComplete _ => true
  | .sliceStart _ => true
  | .actionRecord => true
  | .setmin => true
  | .setwd => true
  | .setimg => true
  | .actionDelivery _ => true
  | .post _ => true
  | .wait _ => true
  | .controlBlockWrite _ _ _ => true
  | .episodeZeroed _ => true
  | .watchdogExpiry _ => true
  | .cappingDecision _ _ => true
  | .cadenceApply _ => true
  | .tokenGrant _ => true
  | .tokenTrade _ _ => true
  | .fallbackGrant => true
  | .estimatorRefit _ _ _ => true
  | .telemetryRead _ => true
  | .energyRefresh _ _ => true
  | .stallrUpdate _ _ => true
  | .setv _ _ => true
  | .setfb _ _ _ => true
  | .voltageStepSettled _ => true
  | .biasSettled _ => true
  | .thermalSample _ _ => true
  | .coolantFlowLow _ => true
  | .ackTimeout _ => true
  | .hivePortFailure _ => true
  | .peerChunkArrival _ _ _ _ _ _ _ => true
  | .chipLinkFailure _ => true
  | .powerOnReset => true
  | .enterReduced => true
  | .enterFull => true
  | .assignvf _ _ _ _ => true
  | .sets2 _ _ _ => true
  | .setslice _ _ _ _ _ => true
  | .setcoll _ _ => true
  | .setway _ _ _ => true
  | .setscope _ _ => true
  | .setmbox _ _ => true
  | .setbudget _ _ _ _ => true
  | .resetdie _ => true
  | .saveregion _ _ => true
  | .attest _ => true
  | .s2reply _ _ _ => true
  | .setroot _ => true
  | .reserve _ => true
  | .relocate _ => true
  | .setq _ => true
  | .s2req _ => true
  | .publish _ => true
  | .unpublish _ => true
  | .pwrread _ => true
  | .reservedEncoding _ => true
  | .fetchFault => true
  | .environmentCoreInstruction _ => true
  | .hiveDieFault => true
  | .matrixInstructionComplete _ => true

end Sys2Proof
end

