-- ==== Sys2Proof/Decode.lean ====
section
/-!
DEFINITION. The decoder, total on any bytes, and the encoder (R21-R61).
Words are numbers: bit 0 is the least significant bit of the first parcel (R21).
-/

namespace Sys2Proof

/-- The 6-bit specifier of a register (R24). -/
def Reg.code : Reg → Nat
  | .m i => i.val
  | .o i => 32 + i.val
  | .l i => 40 + i.val
  | .z => 44
  | .qmi => 48
  | .qmo => 49
  | .qcs => 50
  | .qnt => 51
  | .qrn => 52
  | .qvs => 53
  | .qsa => 54
  | .qso => 55

/-- The register a 6-bit specifier names; 45-47 and 56-63 are reserved (R24). -/
def Reg.ofCode (n : Nat) : Option Reg :=
  if n < 32 then some (.m (Fin.ofNat 32 n))
  else if n < 40 then some (.o (Fin.ofNat 8 (n - 32)))
  else if n < 44 then some (.l (Fin.ofNat 4 (n - 40)))
  else match n with
    | 44 => some .z
    | 48 => some .qmi
    | 49 => some .qmo
    | 50 => some .qcs
    | 51 => some .qnt
    | 52 => some .qrn
    | 53 => some .qvs
    | 54 => some .qsa
    | 55 => some .qso
    | _ => none

/-- The scope codes of R31 and R48. -/
def Scope.code : Scope → Nat
  | .cell => 1
  | .die => 2
  | .pkg => 3
  | .sys => 4

/-- The scope a code of 1-4 names (R31, R48). -/
def Scope.ofCode : Nat → Option Scope
  | 1 => some .cell
  | 2 => some .die
  | 3 => some .pkg
  | 4 => some .sys
  | _ => none

/-- The scope code of a store's release suffix, 0 for none (R31). -/
def relCode : Option Scope → Nat
  | none => 0
  | some sc => sc.code

/-- The field selectors of CRDGET and CRDSET (R42, R113). -/
def CrdField.code : CrdField → Nat
  | .die => 0
  | .y => 1
  | .x => 2
  | .rank => 3
  | .window => 4
  | .offset => 5

/-- The field a selector of 0-5 names (R42). -/
def CrdField.ofCode : Nat → Option CrdField
  | 0 => some .die
  | 1 => some .y
  | 2 => some .x
  | 3 => some .rank
  | 4 => some .window
  | 5 => some .offset
  | _ => none

/-- The system register numbers (R102). -/
def SysReg.code : SysReg → Nat
  | .cellx => 0x000
  | .celly => 0x001
  | .celld => 0x002
  | .rank => 0x003
  | .gthread => 0x004
  | .grpmap => 0x005
  | .vfid => 0x006
  | .home => 0x007
  | .gcycle => 0x008
  | .status => 0x010
  | .cause => 0x011
  | .epc => 0x012
  | .tval => 0x013
  | .upvec => 0x014
  | .uivec => 0x015
  | .ax => 0x016
  | .fillv => 0x017
  | .spillsz => 0x018
  | .ovfptr => 0x019
  | .tdmask => 0x01A
  | .lflags => 0x01B
  | .fstat => 0x01C
  | .wdesc5 => 0x01D
  | .wdesc6 => 0x01E
  | .fbvec => 0x01F
  | .meter => 0x020
  | .mlimit => 0x021
  | .evsel i => 0x030 + i.val
  | .evc i => 0x040 + i.val
  | .cadence => 0x050
  | .budget => 0x051
  | .energy => 0x052
  | .stallr => 0x053
  | .occupy => 0x054
  | .vshare => 0x060
  | .scopecap => 0x061
  | .waymask => 0x062
  | .sepc => 0x070
  | .scause => 0x071
  | .stval => 0x072
  | .svec => 0x073

/-- The system register a number names; the numbers R102 does not list name none. -/
def SysReg.ofCode : Nat → Option SysReg
  | 0x000 => some .cellx
  | 0x001 => some .celly
  | 0x002 => some .celld
  | 0x003 => some .rank
  | 0x004 => some .gthread
  | 0x005 => some .grpmap
  | 0x006 => some .vfid
  | 0x007 => some .home
  | 0x008 => some .gcycle
  | 0x010 => some .status
  | 0x011 => some .cause
  | 0x012 => some .epc
  | 0x013 => some .tval
  | 0x014 => some .upvec
  | 0x015 => some .uivec
  | 0x016 => some .ax
  | 0x017 => some .fillv
  | 0x018 => some .spillsz
  | 0x019 => some .ovfptr
  | 0x01A => some .tdmask
  | 0x01B => some .lflags
  | 0x01C => some .fstat
  | 0x01D => some .wdesc5
  | 0x01E => some .wdesc6
  | 0x01F => some .fbvec
  | 0x020 => some .meter
  | 0x021 => some .mlimit
  | 0x050 => some .cadence
  | 0x051 => some .budget
  | 0x052 => some .energy
  | 0x053 => some .stallr
  | 0x054 => some .occupy
  | 0x060 => some .vshare
  | 0x061 => some .scopecap
  | 0x062 => some .waymask
  | 0x070 => some .sepc
  | 0x071 => some .scause
  | 0x072 => some .stval
  | 0x073 => some .svec
  | n =>
    if 0x030 ≤ n ∧ n < 0x040 then some (.evsel (Fin.ofNat 16 (n - 0x030)))
    else if 0x040 ≤ n ∧ n < 0x050 then some (.evc (Fin.ofNat 16 (n - 0x040)))
    else none

/-- A destination field: a register that may be written (R24). -/
def dst (n : Nat) : Option Reg :=
  match Reg.ofCode n with
  | some r => if r.writable then some r else none
  | none => none

/-- A source field: a register that may be read (R24). -/
def src (n : Nat) : Option Reg :=
  match Reg.ofCode n with
  | some r => if r.readable then some r else none
  | none => none

/-- An address field: a readable register that is no queue register (R25). -/
def adr (n : Nat) : Option Reg :=
  match Reg.ofCode n with
  | some r => if r.addrOk then some r else none
  | none => none

/-- A capability field: an even main register number (R25). -/
def capf (n : Nat) : Option Cap :=
  if n < 32 ∧ n % 2 = 0 then some (Fin.ofNat 16 (n / 2)) else none

/-- A 6-bit field that names a mask register: values above 7 are reserved (R54). -/
def maskf (n : Nat) : Option VMask :=
  if n < 8 then some (Fin.ofNat 8 n) else none

/-- A destination mask: not vm0 (R26). -/
def maskd (n : Nat) : Option VMask :=
  if n = 0 then none else maskf n

/-- A must-be-zero field (R25). -/
def zero (n : Nat) : Option Unit := if n = 0 then some () else none

/-- The term, when the restriction on it holds. -/
def chk (i : Instr) : Option Instr := if i.wf then some i else none

def vreg (w lo : Nat) : VReg := Fin.ofNat 32 (fld w lo 5)
def vmsk (w lo : Nat) : VMask := Fin.ofNat 8 (fld w lo 3)

/-! One decoder per operand shape; `c` is the constructor. -/

def dR3 (c : Reg → Reg → Reg → Instr) (w : Nat) : Option Instr := do
  let d ← dst (fld w 7 6); let a ← src (fld w 13 6); let b ← src (fld w 19 6)
  chk (c d a b)

def dR2 (c : Reg → Reg → Instr) (w : Nat) : Option Instr := do
  let d ← dst (fld w 7 6); let a ← src (fld w 13 6); let _ ← zero (fld w 19 6)
  chk (c d a)

def dI13 (c : Reg → Reg → BitVec 13 → Instr) (w : Nat) : Option Instr := do
  let d ← dst (fld w 7 6); let a ← src (fld w 13 6)
  chk (c d a (BitVec.ofNat 13 (fld w 19 13)))

def dSh6 (c : Reg → Reg → BitVec 6 → Instr) (w : Nat) : Option Instr := do
  let d ← dst (fld w 7 6); let a ← src (fld w 13 6)
  chk (c d a (BitVec.ofNat 6 (fld w 19 6)))

def dSh5 (c : Reg → Reg → BitVec 5 → Instr) (w : Nat) : Option Instr := do
  let d ← dst (fld w 7 6); let a ← src (fld w 13 6); let _ ← zero (fld w 24 1)
  chk (c d a (BitVec.ofNat 5 (fld w 19 5)))

def dU19 (c : Reg → BitVec 19 → Instr) (w : Nat) : Option Instr := do
  let d ← dst (fld w 7 6)
  chk (c d (BitVec.ofNat 19 (fld w 13 19)))

def dRd (c : Reg → Instr) (w : Nat) : Option Instr := do
  let d ← dst (fld w 7 6); let _ ← zero (fld w 13 12)
  chk (c d)

def dRs1 (c : Reg → Instr) (w : Nat) : Option Instr := do
  let a ← src (fld w 13 6); let _ ← zero (fld w 7 6); let _ ← zero (fld w 19 6)
  chk (c a)

def dAddr1 (c : Reg → Instr) (w : Nat) : Option Instr := do
  let a ← adr (fld w 13 6); let _ ← zero (fld w 7 6); let _ ← zero (fld w 19 6)
  chk (c a)

def dRs12 (c : Reg → Reg → Instr) (w : Nat) : Option Instr := do
  let a ← src (fld w 13 6); let b ← src (fld w 19 6); let _ ← zero (fld w 7 6)
  chk (c a b)

def dMstream (c : Reg → Reg → Instr) (w : Nat) : Option Instr := do
  let a ← adr (fld w 13 6); let b ← src (fld w 19 6); let _ ← zero (fld w 7 6)
  chk (c a b)

def dNone (c : Instr) (w : Nat) : Option Instr := do
  let _ ← zero (fld w 7 18)
  chk c

def dCrdget (c : Reg → Reg → CrdField → Instr) (w : Nat) : Option Instr := do
  let d ← dst (fld w 7 6); let a ← src (fld w 13 6); let _ ← zero (fld w 19 6)
  let f ← CrdField.ofCode (fld w 28 4)
  chk (c d a f)

def dCrdset (c : Reg → Reg → Reg → CrdField → Instr) (w : Nat) : Option Instr := do
  let d ← dst (fld w 7 6); let a ← src (fld w 13 6); let b ← src (fld w 19 6)
  let f ← CrdField.ofCode (fld w 28 4)
  chk (c d a b f)

def dRl3 (c : BitVec 4 → Reg → Reg → Reg → Instr) (w : Nat) : Option Instr := do
  let d ← dst (fld w 7 6); let a ← src (fld w 13 6); let b ← src (fld w 19 6)
  chk (c (BitVec.ofNat 4 (fld w 28 4)) d a b)

def dRl2 (c : BitVec 4 → Reg → Reg → Instr) (w : Nat) : Option Instr := do
  let d ← dst (fld w 7 6); let a ← src (fld w 13 6); let _ ← zero (fld w 19 6)
  chk (c (BitVec.ofNat 4 (fld w 28 4)) d a)

def dBr (c : Reg → Reg → BitVec 10 → Instr) (w : Nat) : Option Instr := do
  let a ← src (fld w 7 6); let b ← src (fld w 13 6)
  chk (c a b (BitVec.ofNat 10 (fld w 22 10)))

def dBz (c : Reg → BitVec 16 → Instr) (w : Nat) : Option Instr := do
  let a ← src (fld w 7 6)
  chk (c a (BitVec.ofNat 16 (fld w 16 16)))

def dJal (c : Reg → BitVec 19 → Instr) (w : Nat) : Option Instr := do
  let d ← dst (fld w 7 6)
  chk (c d (BitVec.ofNat 19 (fld w 13 19)))

def dLd (c : BitVec 4 → Reg → Reg → BitVec 6 → Instr) (w : Nat) : Option Instr := do
  let d ← dst (fld w 7 6); let a ← adr (fld w 13 6)
  chk (c (BitVec.ofNat 4 (fld w 28 4)) d a (BitVec.ofNat 6 (fld w 22 6)))

def dLdx (c : BitVec 4 → Reg → Reg → Reg → Instr) (w : Nat) : Option Instr := do
  let d ← dst (fld w 7 6); let a ← adr (fld w 13 6); let i ← adr (fld w 19 6)
  chk (c (BitVec.ofNat 4 (fld w 28 4)) d a i)

def dLdaq (c : BitVec 4 → Scope → Reg → Reg → Instr) (w : Nat) : Option Instr := do
  let d ← dst (fld w 7 6); let a ← adr (fld w 13 6); let sc ← Scope.ofCode (fld w 22 3)
  let _ ← zero (fld w 25 3)
  chk (c (BitVec.ofNat 4 (fld w 28 4)) sc d a)

/-- The release suffix of a store's scope field (R31). -/
def relf (n : Nat) : Option (Option Scope) :=
  if n = 0 then some none
  else match Scope.ofCode n with
    | some sc => some (some sc)
    | none => none

def dSt (c : Reg → Reg → BitVec 6 → Bool → Option Scope → Instr) (w : Nat) : Option Instr := do
  let r ← src (fld w 7 6); let a ← adr (fld w 13 6); let sc ← relf (fld w 29 3)
  chk (c r a (BitVec.ofNat 6 (fld w 22 6)) (bitAt w 28) sc)

def dAmo (c : Bool → Scope → Reg → Reg → Reg → Instr) (w : Nat) : Option Instr := do
  let d ← dst (fld w 7 6); let a ← adr (fld w 13 6); let b ← src (fld w 19 6)
  let sc ← Scope.ofCode (fld w 29 2 + 1)
  chk (c (bitAt w 31) sc d a b)

/-- AMOCAS also reads its destination field (R47); `chk` asks that it is readable. -/
def dAmocas (c : Bool → Scope → Reg → Reg → Reg → Instr) (w : Nat) : Option Instr := dAmo c w

/-- FENCE, FENCE.E and TDCLR by kind (R48). -/
def decodeFence (w : Nat) : Option Instr := do
  let _ ← zero (fld w 7 12); let _ ← zero (fld w 28 4)
  let sc ← Scope.ofCode (fld w 19 3)
  match fld w 26 2 with
  | 0 => chk (.fence sc (bitAt w 25) (bitAt w 24) (bitAt w 23) (bitAt w 22))
  | 1 => if fld w 22 4 = 0 then some (.fenceE sc) else none
  | 2 => if fld w 22 4 = 15 ∧ sc = .sys then some .tdclr else none
  | _ => none

def dCbnd (c : Cap → Cap → Reg → Instr) (w : Nat) : Option Instr := do
  let kd ← capf (fld w 7 6); let ks ← capf (fld w 13 6); let b ← src (fld w 19 6)
  chk (c kd ks b)

def dCget (c : Reg → Cap → Instr) (w : Nat) : Option Instr := do
  let d ← dst (fld w 7 6); let ks ← capf (fld w 13 6); let _ ← zero (fld w 19 6)
  chk (c d ks)

def dCmov (c : Cap → Cap → Instr) (w : Nat) : Option Instr := do
  let kd ← capf (fld w 7 6); let ks ← capf (fld w 13 6); let _ ← zero (fld w 19 6)
  chk (c kd ks)

def dCclr (c : Cap → Instr) (w : Nat) : Option Instr := do
  let kd ← capf (fld w 7 6); let _ ← zero (fld w 13 12)
  chk (c kd)

def dLcap (c : BitVec 4 → Cap → Reg → BitVec 6 → Instr) (w : Nat) : Option Instr := do
  let kd ← capf (fld w 7 6); let a ← adr (fld w 13 6)
  chk (c (BitVec.ofNat 4 (fld w 28 4)) kd a (BitVec.ofNat 6 (fld w 22 6)))

def dScap (c : Cap → Reg → BitVec 6 → Instr) (w : Nat) : Option Instr := do
  let ks ← capf (fld w 7 6); let a ← adr (fld w 13 6); let _ ← zero (fld w 28 4)
  chk (c ks a (BitVec.ofNat 6 (fld w 22 6)))

def dFm (c : Reg → Reg → Reg → Reg → Instr) (w : Nat) : Option Instr := do
  let d ← dst (fld w 7 6); let a ← src (fld w 13 6); let b ← src (fld w 19 6); let e ← src (fld w 25 6)
  chk (c d a b e)

def dV3 (c : VReg → VReg → VReg → VMask → Instr) (w : Nat) : Option Instr :=
  chk (c (vreg w 7) (vreg w 12) (vreg w 17) (vmsk w 22))

def dVsel (c : VReg → VReg → VReg → VMask → Instr) (w : Nat) : Option Instr := dV3 c w

def dV2 (c : VReg → VReg → VMask → Instr) (w : Nat) : Option Instr := do
  let _ ← zero (fld w 17 5)
  chk (c (vreg w 7) (vreg w 12) (vmsk w 22))

def dVc (c : VMask → VReg → VReg → VMask → Instr) (w : Nat) : Option Instr := do
  let d ← maskd (fld w 7 5)
  chk (c d (vreg w 12) (vreg w 17) (vmsk w 22))

def dVred (c : VReg → VMask → Instr) (w : Nat) : Option Instr := do
  let _ ← zero (fld w 7 5); let _ ← zero (fld w 17 5)
  chk (c (vreg w 12) (vmsk w 22))

def dVshort (c : VReg → VReg → Instr) (w : Nat) : Option Instr :=
  chk (c (vreg w 5) (vreg w 10))

def dVbc (c : VReg → Fin 8 → Instr) (w : Nat) : Option Instr := do
  let _ ← zero (fld w 13 2)
  chk (c (vreg w 5) (Fin.ofNat 8 (fld w 10 3)))

def dVld (c : VReg → Cap → Reg → VMask → Instr) (w : Nat) : Option Instr := do
  let k ← capf (fld w 12 6); let b ← adr (fld w 18 6)
  chk (c (vreg w 7) k b (vmsk w 24))

def dVldg (c : VReg → Cap → VMask → Instr) (w : Nat) : Option Instr := do
  let k ← capf (fld w 12 6); let _ ← zero (fld w 18 6)
  chk (c (vreg w 7) k (vmsk w 24))

def dVstg (c : VReg → Cap → VReg → VMask → Instr) (w : Nat) : Option Instr := do
  let k ← capf (fld w 12 6); let _ ← zero (fld w 23 1)
  chk (c (vreg w 7) k (vreg w 18) (vmsk w 24))

def dVbcast (c : VReg → Reg → VMask → Instr) (w : Nat) : Option Instr := do
  let a ← adr (fld w 12 6); let _ ← zero (fld w 18 6)
  chk (c (vreg w 7) a (vmsk w 24))

def dVmovs (c : VReg → Reg → Instr) (w : Nat) : Option Instr := do
  let b ← adr (fld w 18 6); let _ ← zero (fld w 12 6); let _ ← zero (fld w 24 3)
  chk (c (vreg w 7) b)

def dVins (c : VReg → Reg → Reg → Instr) (w : Nat) : Option Instr := do
  let a ← adr (fld w 12 6); let b ← adr (fld w 18 6); let _ ← zero (fld w 24 3)
  chk (c (vreg w 7) a b)

def dViota (c : VReg → VMask → Instr) (w : Nat) : Option Instr := do
  let _ ← zero (fld w 12 12)
  chk (c (vreg w 7) (vmsk w 24))

def dVm3 (c : VMask → VMask → VMask → Instr) (w : Nat) : Option Instr := do
  let d ← maskd (fld w 7 6); let a ← maskf (fld w 13 6); let b ← maskf (fld w 19 6)
  chk (c d a b)

def dVm2 (c : VMask → VMask → Instr) (w : Nat) : Option Instr := do
  let d ← maskd (fld w 7 6); let a ← maskf (fld w 13 6); let _ ← zero (fld w 19 6)
  chk (c d a)

def dVmpopc (c : Reg → VMask → Instr) (w : Nat) : Option Instr := do
  let d ← dst (fld w 7 6); let a ← maskf (fld w 13 6); let _ ← zero (fld w 19 6)
  chk (c d a)

/-- The rs1 field of CPQ and CPQT: 0, 4, ..., 28 (R56). -/
def quad (n : Nat) : Option (Fin 8) :=
  if n < 32 ∧ n % 4 = 0 then some (Fin.ofNat 8 (n / 4)) else none

def dCpq (c : Fin 8 → Instr) (w : Nat) : Option Instr := do
  let q ← quad (fld w 13 6); let _ ← zero (fld w 7 6); let _ ← zero (fld w 19 6)
  chk (c q)

def dCpqt (c : Reg → Fin 8 → Instr) (w : Nat) : Option Instr := do
  let d ← dst (fld w 7 6); let q ← quad (fld w 13 6); let _ ← zero (fld w 19 6)
  chk (c d q)

def dDist (c : Reg → Reg → BitVec 13 → Instr) (w : Nat) : Option Instr := do
  let d ← dst (fld w 7 6); let a ← src (fld w 13 6)
  chk (c d a (BitVec.ofNat 13 (fld w 19 13)))

def dSrd (c : Reg → SysReg → Instr) (w : Nat) : Option Instr := do
  let d ← dst (fld w 7 6); let r ← SysReg.ofCode (fld w 19 11); let _ ← zero (fld w 13 6)
  chk (c d r)

def dSwr (c : Reg → SysReg → Reg → Instr) (w : Nat) : Option Instr := do
  let d ← dst (fld w 7 6); let r ← SysReg.ofCode (fld w 19 11); let a ← src (fld w 13 6)
  chk (c d r a)

def dTrap (c : BitVec 6 → Instr) (w : Nat) : Option Instr := do
  let _ ← zero (fld w 7 12)
  chk (c (BitVec.ofNat 6 (fld w 19 6)))

/-- Major 0x01 (R37-R59). -/
def decodeAlu (w : Nat) : Option Instr :=
  match fld w 25 7 with
  | 0 => dR3 .add w
  | 1 => dR3 .sub w
  | 2 => dR3 .and w
  | 3 => dR3 .or w
  | 4 => dR3 .xor w
  | 5 => dR3 .andn w
  | 6 => dR3 .orn w
  | 7 => dR3 .xnor w
  | 8 => dR3 .sll w
  | 9 => dR3 .srl w
  | 10 => dR3 .sra w
  | 11 => dR3 .rol w
  | 12 => dR3 .ror w
  | 13 => dR3 .slt w
  | 14 => dR3 .sltu w
  | 16 => dR3 .min w
  | 17 => dR3 .max w
  | 18 => dR3 .minu w
  | 19 => dR3 .maxu w
  | 20 => dR3 .mul w
  | 21 => dR3 .mulh w
  | 22 => dR3 .mulhu w
  | 23 => dR3 .mulhsu w
  | 24 => dR3 .sh1add w
  | 25 => dR3 .sh2add w
  | 26 => dR3 .sh3add w
  | 27 => dR3 .czero w
  | 28 => dR3 .addw w
  | 29 => dR3 .subw w
  | 30 => dR3 .sllw w
  | 31 => dR3 .srlw w
  | 32 => dR3 .sraw w
  | 33 => dR3 .mulw w
  | 40 => dR2 .clz w
  | 41 => dR2 .ctz w
  | 42 => dR2 .popc w
  | 43 => dR2 .brev w
  | 44 => dR2 .bswap w
  | 45 => dR2 .sextb w
  | 46 => dR2 .sexth w
  | 47 => dR2 .sextw w
  | 48 => dR2 .zextb w
  | 49 => dR2 .zexth w
  | 50 => dR2 .zextw w
  | _ => none

/-- Major 0x09 (R37-R59). -/
def decodeShi (w : Nat) : Option Instr :=
  match fld w 25 7 with
  | 0 => dSh6 .slli w
  | 1 => dSh6 .srli w
  | 2 => dSh6 .srai w
  | 3 => dSh6 .rori w
  | 4 => dSh5 .slliw w
  | 5 => dSh5 .srliw w
  | 6 => dSh5 .sraiw w
  | _ => none

/-- Major 0x0C (R37-R59). -/
def decodeCoord (w : Nat) : Option Instr :=
  match fld w 25 7 with
  | 0 => dRd .crdself w
  | 1 => dR3 .crdmk w
  | 4 => dR3 .crdadd w
  | c => if c % 8 = 2 then dCrdget .crdget w else if c % 8 = 3 then dCrdset .crdset w else none

/-- Major 0x0D (R37-R59). -/
def decodeDivrem (w : Nat) : Option Instr :=
  match fld w 25 3 with
  | 0 => dRl3 .div w
  | 1 => dRl3 .divu w
  | 2 => dRl3 .rem w
  | 3 => dRl3 .remu w
  | 4 => dRl3 .divw w
  | 5 => dRl3 .remw w
  | 6 => dRl3 .fdiv w
  | 7 => dRl2 .fsqrt w
  | _ => none

/-- Major 0x0E (R37-R59). -/
def decodeBr (w : Nat) : Option Instr :=
  match fld w 19 3 with
  | 0 => dBr .beq w
  | 1 => dBr .bne w
  | 2 => dBr .blt w
  | 3 => dBr .bge w
  | 4 => dBr .bltu w
  | 5 => dBr .bgeu w
  | _ => none

/-- Major 0x0F (R37-R59). -/
def decodeBz (w : Nat) : Option Instr :=
  match fld w 13 3 with
  | 0 => dBz .beqz w
  | 1 => dBz .bnez w
  | 2 => dBz .bltz w
  | 3 => dBz .bgez w
  | 4 => dBz .bgtz w
  | 5 => dBz .blez w
  | _ => none

/-- Major 0x12 (R37-R59). -/
def decodeLd (w : Nat) : Option Instr :=
  match fld w 19 3 with
  | 0 => dLd .ldB w
  | 1 => dLd .ldBu w
  | 2 => dLd .ldH w
  | 3 => dLd .ldHu w
  | 4 => dLd .ldW w
  | 5 => dLd .ldWu w
  | 6 => dLd .ldD w
  | _ => none

/-- Major 0x13 (R37-R59). -/
def decodeLdx (w : Nat) : Option Instr :=
  match fld w 25 3 with
  | 0 => dLdx .ldxB w
  | 1 => dLdx .ldxBu w
  | 2 => dLdx .ldxH w
  | 3 => dLdx .ldxHu w
  | 4 => dLdx .ldxW w
  | 5 => dLdx .ldxWu w
  | 6 => dLdx .ldxD w
  | _ => none

/-- Major 0x14 (R37-R59). -/
def decodeLdaq (w : Nat) : Option Instr :=
  match fld w 19 3 with
  | 0 => dLdaq .ldaqB w
  | 1 => dLdaq .ldaqBu w
  | 2 => dLdaq .ldaqH w
  | 3 => dLdaq .ldaqHu w
  | 4 => dLdaq .ldaqW w
  | 5 => dLdaq .ldaqWu w
  | 6 => dLdaq .ldaqD w
  | _ => none

/-- Major 0x15 (R37-R59). -/
def decodeSt (w : Nat) : Option Instr :=
  match fld w 19 3 with
  | 0 => dSt .stB w
  | 2 => dSt .stH w
  | 4 => dSt .stW w
  | 6 => dSt .stD w
  | _ => none

/-- Major 0x16 (R37-R59). -/
def decodeLogst (w : Nat) : Option Instr :=
  match fld w 19 3 with
  | 0 => dSt .logstB w
  | 2 => dSt .logstH w
  | _ => none

/-- Major 0x17 (R37-R59). -/
def decodeAmo (w : Nat) : Option Instr :=
  match fld w 25 4 with
  | 0 => dAmo .amoadd w
  | 1 => dAmo .amoand w
  | 2 => dAmo .amoor w
  | 3 => dAmo .amoxor w
  | 4 => dAmo .amomin w
  | 5 => dAmo .amomax w
  | 6 => dAmo .amominu w
  | 7 => dAmo .amomaxu w
  | 8 => dAmo .amoswap w
  | 9 => dAmocas .amocas w
  | _ => none

/-- Major 0x19 (R37-R59). -/
def decodeCap (w : Nat) : Option Instr :=
  match fld w 25 7 with
  | 0 => dCbnd .cbnd w
  | 8 => dCbnd .cperm w
  | 16 => dCget .cgetb w
  | 24 => dCget .cgetl w
  | 32 => dCget .cgetp w
  | 40 => dCget .cgett w
  | 48 => dCmov .cmov w
  | 56 => dCclr .cclr w
  | _ => none

/-- Major 0x1A (R37-R59). -/
def decodeLcaps (w : Nat) : Option Instr :=
  match fld w 19 3 with
  | 0 => dLcap .lcap w
  | 1 => dScap .scap w
  | _ => none

/-- Major 0x1B (R37-R59). -/
def decodeFp (w : Nat) : Option Instr :=
  match fld w 25 7 with
  | 0 => dR3 .fadd w
  | 1 => dR3 .fsub w
  | 2 => dR3 .fmul w
  | 3 => dR3 .fmin w
  | 4 => dR3 .fmax w
  | 5 => dR3 .feq w
  | 6 => dR3 .flt w
  | 7 => dR3 .fle w
  | 8 => dR3 .fsgnj w
  | 9 => dR3 .fsgnjn w
  | 10 => dR3 .fsgnjx w
  | 11 => dR2 .fclass w
  | 12 => dR2 .fcvtWS w
  | 13 => dR2 .fcvtWuS w
  | 14 => dR2 .fcvtSW w
  | 15 => dR2 .fcvtSWu w
  | 16 => dR2 .fcvtSH w
  | 17 => dR2 .fcvtHS w
  | 18 => dR2 .fcvtSBf w
  | 19 => dR2 .fcvtBfS w
  | 20 => dR2 .fcvtLS w
  | 21 => dR2 .fcvtSL w
  | _ => none

/-- Major 0x1C (R37-R59). -/
def decodeFma (w : Nat) : Option Instr :=
  match fld w 31 1 with
  | 0 => dFm .fmadd w
  | 1 => dFm .fnmadd w
  | _ => none

/-- Major 0x1D (R37-R59). -/
def decodeLns (w : Nat) : Option Instr :=
  match fld w 25 7 with
  | 0 => dR2 .lnscvtB w
  | 1 => dR2 .lnscvtH w
  | 2 => dR2 .lincvtB w
  | 3 => dR2 .lincvtH w
  | 4 => dR3 .lmulB w
  | 5 => dR3 .lmulH w
  | _ => none

/-- Major 0x1E (R37-R59). -/
def decodeVr (w : Nat) : Option Instr :=
  match fld w 25 7 with
  | 0 => dV3 .vaddW w
  | 1 => dV3 .vsubW w
  | 2 => dV3 .vmulW w
  | 3 => dV3 .vmulhW w
  | 4 => dV3 .vminW w
  | 5 => dV3 .vmaxW w
  | 6 => dV3 .vminuW w
  | 7 => dV3 .vmaxuW w
  | 8 => dV3 .vand w
  | 9 => dV3 .vor w
  | 10 => dV3 .vxor w
  | 11 => dV3 .vsll w
  | 12 => dV3 .vsrl w
  | 13 => dV3 .vsra w
  | 14 => dV3 .vdot4 w
  | 15 => dV3 .vdot4u w
  | 16 => dV3 .vfadd w
  | 17 => dV3 .vfsub w
  | 18 => dV3 .vfmul w
  | 19 => dV3 .vfma w
  | 20 => dV3 .vfmin w
  | 21 => dV3 .vfmax w
  | 22 => dV2 .vfrcp w
  | 23 => dV2 .vfrsq w
  | 24 => dV2 .vexp2 w
  | 25 => dV2 .vlog2 w
  | 26 => dV2 .vfabs w
  | 27 => dV2 .vfneg w
  | 28 => dVc .vceqW w
  | 29 => dVc .vcltW w
  | 30 => dVc .vcltuW w
  | 31 => dVc .vfceq w
  | 32 => dVc .vfclt w
  | 33 => dVc .vfcle w
  | 34 => dVsel .vsel w
  | 35 => dV2 .vmov w
  | 36 => dV3 .vperm w
  | 38 => dV2 .vcvtSW w
  | 39 => dV2 .vcvtWS w
  | 40 => dV2 .vcvtSH w
  | 41 => dV2 .vcvtHS w
  | 42 => dV2 .vcvtSBf w
  | 43 => dV2 .vcvtBfS w
  | 44 => dV3 .vlmulH w
  | 45 => dV2 .vlinH w
  | 46 => dV2 .vlogH w
  | 47 => dV2 .vlinB w
  | 48 => dV2 .vlogB w
  | 49 => dVred .vredsumW w
  | 50 => dVred .vredsumS w
  | 51 => dVred .vredmaxS w
  | 52 => dVred .vredminS w
  | 53 => dVred .vredmaxW w
  | _ => none

/-- Major 0x1F (R37-R59). -/
noncomputable def decodeVm (w : Nat) : Option Instr :=
  match fld w 27 5 with
  | 0 => dVld .vld w
  | 1 => dVld .vst w
  | 2 => dVld .vlds w
  | 3 => dVld .vsts w
  | 4 => dVldg .vldg w
  | 5 => dVstg .vstg w
  | 6 => dVbcast .vbcast w
  | 7 => dVmovs .vmovs w
  | 8 => dVins .vins w
  | 9 => dViota .viota w
  | 10 => dViota .vrand w
  | _ => none

/-- Major 0x20 (R37-R59). -/
noncomputable def decodeVctl (w : Nat) : Option Instr :=
  match fld w 25 7 with
  | 0 => dRs1 .gang w
  | 1 => dNone .ungang w
  | 2 => dNone .vfence w
  | 3 => dRs1 .vsetw w
  | 4 => dVm3 .vmand w
  | 5 => dVm3 .vmor w
  | 6 => dVm2 .vmnot w
  | 7 => dVmpopc .vmpopc w
  | _ => none

/-- Major 0x21 (R37-R59). -/
noncomputable def decodeMx (w : Nat) : Option Instr :=
  match fld w 25 7 with
  | 0 => dRd .mclaim w
  | 8 => dNone .mfree w
  | 16 => dRs1 .mldw w
  | 24 => dNone .mswap w
  | 32 => dMstream .mstream w
  | 40 => dRs12 .mzero w
  | 48 => dRs12 .mstore w
  | 56 => dNone .mwait w
  | 64 => dRs1 .mmode w
  | 72 => dRs12 .mscale w
  | 80 => dRd .mstat w
  | _ => none

/-- Major 0x22 (R37-R59). -/
noncomputable def decodeCpq (w : Nat) : Option Instr :=
  match fld w 25 7 with
  | 0 => dCpq .cpq w
  | 1 => dCpqt .cpqt w
  | _ => none

/-- Major 0x23 (R37-R59). -/
noncomputable def decodeRing (w : Nat) : Option Instr :=
  match fld w 25 7 with
  | 0 => dRs1 .rinit w
  | 1 => dR2 .rawait w
  | 2 => dRs1 .rrel w
  | 3 => dR2 .rpeek w
  | _ => none

/-- Major 0x24 (R37-R59). -/
noncomputable def decodeBar (w : Nat) : Option Instr :=
  match fld w 25 7 with
  | 0 => dRs12 .binit w
  | 1 => dR2 .barv w
  | 2 => dRs12 .bexp w
  | 3 => dR3 .bwait w
  | 4 => dR3 .btest w
  | _ => none

/-- Major 0x25 (R37-R59). -/
noncomputable def decodeGrp (w : Nat) : Option Instr :=
  match fld w 25 7 with
  | 0 => dR2 .grank w
  | 1 => dR2 .gsize w
  | 2 => dR2 .garv w
  | 3 => dRs12 .gwait w
  | _ => none

/-- Major 0x26 (R37-R59). -/
noncomputable def decodeEv (w : Nat) : Option Instr :=
  match fld w 25 7 with
  | 0 => dRs12 .evsig w
  | 1 => dRs1 .evwait w
  | 2 => dR2 .evtry w
  | 3 => dRs1 .evset w
  | 4 => dRs1 .evclr w
  | _ => none

/-- Major 0x27 (R37-R59). -/
noncomputable def decodeTask (w : Nat) : Option Instr :=
  match fld w 25 7 with
  | 0 => dR2 .spawn w
  | 1 => dNone .suspend w
  | 2 => dNone .yield w
  | 3 => dNone .exit w
  | 4 => dRs1 .resume w
  | _ => none

/-- Major 0x29 (R37-R59). -/
noncomputable def decodeSys (w : Nat) : Option Instr :=
  match fld w 30 2 with
  | 0 => dSrd .srd w
  | 1 => dSwr .swr w
  | 2 => dSwr .sset w
  | 3 => dSwr .sclr w
  | _ => none

/-- Major 0x2A (R37-R59). -/
noncomputable def decodeTrapop (w : Nat) : Option Instr :=
  match fld w 25 7 with
  | 0 => dTrap .trap w
  | 8 => dNone .uret w
  | 16 => dNone .uiret w
  | 24 => dNone .sret w
  | 32 => dNone .brk w
  | 40 => dNone .wfi w
  | 48 => dRs1 .uien w
  | _ => none

/-- Major 0x2B (R37-R59). -/
noncomputable def decodeMemop (w : Nat) : Option Instr :=
  match fld w 25 7 with
  | 0 => dAddr1 .pref w
  | 1 => dAddr1 .invl w
  | 2 => dAddr1 .hmbump w
  | 3 => dAddr1 .relack w
  | 4 => dAddr1 .flushl w
  | _ => none

/-- Major 0x2C (R37-R59). -/
noncomputable def decodeVfcall (w : Nat) : Option Instr :=
  match fld w 25 7 with
  | 0 => dR2 .vfcall w
  | _ => none

/-- A 32-bit instruction, by its major opcode (R29, R37); a dash of the map is reserved. -/
noncomputable def decodeLong (w : Nat) : Option Instr :=
  match fld w 1 6 with
  | 0x01 => decodeAlu w
  | 0x02 => dI13 .addi w
  | 0x03 => dI13 .andi w
  | 0x04 => dI13 .ori w
  | 0x05 => dI13 .xori w
  | 0x06 => dI13 .slti w
  | 0x07 => dI13 .sltiu w
  | 0x08 => dI13 .addiw w
  | 0x09 => decodeShi w
  | 0x0A => dU19 .lui w
  | 0x0B => dU19 .auipc w
  | 0x0C => decodeCoord w
  | 0x0D => decodeDivrem w
  | 0x0E => decodeBr w
  | 0x0F => decodeBz w
  | 0x10 => dJal .jal w
  | 0x11 => dI13 .jalr w
  | 0x12 => decodeLd w
  | 0x13 => decodeLdx w
  | 0x14 => decodeLdaq w
  | 0x15 => decodeSt w
  | 0x16 => decodeLogst w
  | 0x17 => decodeAmo w
  | 0x18 => decodeFence w
  | 0x19 => decodeCap w
  | 0x1A => decodeLcaps w
  | 0x1B => decodeFp w
  | 0x1C => decodeFma w
  | 0x1D => decodeLns w
  | 0x1E => decodeVr w
  | 0x1F => decodeVm w
  | 0x20 => decodeVctl w
  | 0x21 => decodeMx w
  | 0x22 => decodeCpq w
  | 0x23 => decodeRing w
  | 0x24 => decodeBar w
  | 0x25 => decodeGrp w
  | 0x26 => decodeEv w
  | 0x27 => decodeTask w
  | 0x28 => dDist .dist w
  | 0x29 => decodeSys w
  | 0x2A => decodeTrapop w
  | 0x2B => decodeMemop w
  | 0x2C => decodeVfcall w
  | _ => none

/-- A 16-bit short lane form (R27, R28). -/
noncomputable def decodeShort (w : Nat) : Option Instr :=
  if w = 0 then none
  else if fld w 15 1 = 0 then
    match fld w 1 4 with
    | 0 => dVshort .vaddWShort w
    | 1 => dVshort .vsubWShort w
    | 2 => dVshort .vmulWShort w
    | 3 => dVshort .vandShort w
    | 4 => dVshort .vorShort w
    | 5 => dVshort .vxorShort w
    | 6 => dVshort .vminWShort w
    | 7 => dVshort .vmaxWShort w
    | 8 => dVshort .vfaddShort w
    | 9 => dVshort .vfsubShort w
    | 10 => dVshort .vfmulShort w
    | 11 => dVshort .vfminShort w
    | 12 => dVshort .vfmaxShort w
    | 13 => dVshort .vmovShort w
    | 14 => dVshort .vlmulHShort w
    | 15 => dVshort .vsllShort w
    | _ => none
  else
    match fld w 1 4 with
    | 0 => dVbc .vaddWBcast w
    | 1 => dVbc .vsubWBcast w
    | 2 => dVbc .vmulWBcast w
    | 3 => dVbc .vandBcast w
    | 4 => dVbc .vorBcast w
    | 5 => dVbc .vxorBcast w
    | 6 => dVbc .vminWBcast w
    | 7 => dVbc .vmaxWBcast w
    | 8 => dVbc .vfaddBcast w
    | 9 => dVbc .vfsubBcast w
    | 10 => dVbc .vfmulBcast w
    | 11 => dVbc .vfminBcast w
    | 12 => dVbc .vfmaxBcast w
    | 13 => dVbc .vmovBcast w
    | 14 => dVbc .vlmulHBcast w
    | 15 => dVbc .vsllBcast w
    | _ => none

/-- Why the decoder refuses. -/
inductive DecodeError where
  /-- fewer bytes than the instruction's length needs -/
  | truncated
  /-- a reserved encoding (R61), with its length in bits and the bits: executing it raises ILL (R22) -/
  | reservedWord (len w : Nat)
deriving DecidableEq, Repr

/-- The instruction a whole word holds: a parcel with bit 0 clear is 16 bits long (R21). -/
noncomputable def decodeWord (w : Nat) : Option Instr :=
  if w % 2 = 0 then decodeShort (w % 65536) else decodeLong (w % 4294967296)

/-- Decode the first instruction of a list of bytes, little-endian (R21), with the bytes after it. -/
noncomputable def decodeBytes : List Byte → Except DecodeError (Instr × List Byte)
  | b0 :: b1 :: rest =>
    let p := b0.toNat + 256 * b1.toNat
    if p % 2 = 0 then
      match decodeShort p with
      | some i => .ok (i, rest)
      | none => .error (.reservedWord 16 p)
    else match rest with
      | b2 :: b3 :: rest' =>
        let w := p + 65536 * b2.toNat + 16777216 * b3.toNat
        match decodeLong w with
        | some i => .ok (i, rest')
        | none => .error (.reservedWord 32 w)
      | _ => .error .truncated
  | _ => .error .truncated

/-- The `n` bytes of a number, least significant first (R2). -/
def bytesOf : Nat → Nat → List Byte
  | 0, _ => []
  | n + 1, v => BitVec.ofNat 8 (v % 256) :: bytesOf n (v / 256)

/-- The number a list of bytes stands for, least significant first (R2). -/
def ofBytes : List Byte → Nat
  | [] => 0
  | b :: bs => b.toNat + 256 * ofBytes bs

/-- The instruction the decoder reads from a word whose bits are numbered as the opcode table numbers them;
bits above `nbits` are zero, up to the longest instruction of 32 bits. -/
noncomputable def decodeTableWord (nbits w : Nat) : Option Instr :=
  match decodeBytes (bytesOf 4 (w % 2 ^ nbits)) with
  | .ok (i, _) => some i
  | .error _ => none

/-- An encoded instruction: its length in bits, 16 or 32, and its bits. -/
structure Enc where
  len : Nat
  bits : Nat
deriving DecidableEq, Repr

/-- The words of a well-formed instruction, written from the tables of R27-R59; an event row has none. -/
def encode : Instr → Option Enc
  | .add d a b => some ⟨32, 0x3 + d.code * 128 + a.code * 8192 + b.code * 524288⟩
  | .sub d a b => some ⟨32, 0x2000003 + d.code * 128 + a.code * 8192 + b.code * 524288⟩
  | .and d a b => some ⟨32, 0x4000003 + d.code * 128 + a.code * 8192 + b.code * 524288⟩
  | .or d a b => some ⟨32, 0x6000003 + d.code * 128 + a.code * 8192 + b.code * 524288⟩
  | .xor d a b => some ⟨32, 0x8000003 + d.code * 128 + a.code * 8192 + b.code * 524288⟩
  | .andn d a b => some ⟨32, 0xA000003 + d.code * 128 + a.code * 8192 + b.code * 524288⟩
  | .orn d a b => some ⟨32, 0xC000003 + d.code * 128 + a.code * 8192 + b.code * 524288⟩
  | .xnor d a b => some ⟨32, 0xE000003 + d.code * 128 + a.code * 8192 + b.code * 524288⟩
  | .sll d a b => some ⟨32, 0x10000003 + d.code * 128 + a.code * 8192 + b.code * 524288⟩
  | .srl d a b => some ⟨32, 0x12000003 + d.code * 128 + a.code * 8192 + b.code * 524288⟩
  | .sra d a b => some ⟨32, 0x14000003 + d.code * 128 + a.code * 8192 + b.code * 524288⟩
  | .rol d a b => some ⟨32, 0x16000003 + d.code * 128 + a.code * 8192 + b.code * 524288⟩
  | .ror d a b => some ⟨32, 0x18000003 + d.code * 128 + a.code * 8192 + b.code * 524288⟩
  | .slt d a b => some ⟨32, 0x1A000003 + d.code * 128 + a.code * 8192 + b.code * 524288⟩
  | .sltu d a b => some ⟨32, 0x1C000003 + d.code * 128 + a.code * 8192 + b.code * 524288⟩
  | .min d a b => some ⟨32, 0x20000003 + d.code * 128 + a.code * 8192 + b.code * 524288⟩
  | .max d a b => some ⟨32, 0x22000003 + d.code * 128 + a.code * 8192 + b.code * 524288⟩
  | .minu d a b => some ⟨32, 0x24000003 + d.code * 128 + a.code * 8192 + b.code * 524288⟩
  | .maxu d a b => some ⟨32, 0x26000003 + d.code * 128 + a.code * 8192 + b.code * 524288⟩
  | .mul d a b => some ⟨32, 0x28000003 + d.code * 128 + a.code * 8192 + b.code * 524288⟩
  | .mulh d a b => some ⟨32, 0x2A000003 + d.code * 128 + a.code * 8192 + b.code * 524288⟩
  | .mulhu d a b => some ⟨32, 0x2C000003 + d.code * 128 + a.code * 8192 + b.code * 524288⟩
  | .mulhsu d a b => some ⟨32, 0x2E000003 + d.code * 128 + a.code * 8192 + b.code * 524288⟩
  | .sh1add d a b => some ⟨32, 0x30000003 + d.code * 128 + a.code * 8192 + b.code * 524288⟩
  | .sh2add d a b => some ⟨32, 0x32000003 + d.code * 128 + a.code * 8192 + b.code * 524288⟩
  | .sh3add d a b => some ⟨32, 0x34000003 + d.code * 128 + a.code * 8192 + b.code * 524288⟩
  | .czero d a b => some ⟨32, 0x36000003 + d.code * 128 + a.code * 8192 + b.code * 524288⟩
  | .addw d a b => some ⟨32, 0x38000003 + d.code * 128 + a.code * 8192 + b.code * 524288⟩
  | .subw d a b => some ⟨32, 0x3A000003 + d.code * 128 + a.code * 8192 + b.code * 524288⟩
  | .sllw d a b => some ⟨32, 0x3C000003 + d.code * 128 + a.code * 8192 + b.code * 524288⟩
  | .srlw d a b => some ⟨32, 0x3E000003 + d.code * 128 + a.code * 8192 + b.code * 524288⟩
  | .sraw d a b => some ⟨32, 0x40000003 + d.code * 128 + a.code * 8192 + b.code * 524288⟩
  | .mulw d a b => some ⟨32, 0x42000003 + d.code * 128 + a.code * 8192 + b.code * 524288⟩
  | .clz d a => some ⟨32, 0x50000003 + d.code * 128 + a.code * 8192⟩
  | .ctz d a => some ⟨32, 0x52000003 + d.code * 128 + a.code * 8192⟩
  | .popc d a => some ⟨32, 0x54000003 + d.code * 128 + a.code * 8192⟩
  | .brev d a => some ⟨32, 0x56000003 + d.code * 128 + a.code * 8192⟩
  | .bswap d a => some ⟨32, 0x58000003 + d.code * 128 + a.code * 8192⟩
  | .sextb d a => some ⟨32, 0x5A000003 + d.code * 128 + a.code * 8192⟩
  | .sexth d a => some ⟨32, 0x5C000003 + d.code * 128 + a.code * 8192⟩
  | .sextw d a => some ⟨32, 0x5E000003 + d.code * 128 + a.code * 8192⟩
  | .zextb d a => some ⟨32, 0x60000003 + d.code * 128 + a.code * 8192⟩
  | .zexth d a => some ⟨32, 0x62000003 + d.code * 128 + a.code * 8192⟩
  | .zextw d a => some ⟨32, 0x64000003 + d.code * 128 + a.code * 8192⟩
  | .addi d a i => some ⟨32, 0x5 + d.code * 128 + a.code * 8192 + i.toNat * 524288⟩
  | .andi d a i => some ⟨32, 0x7 + d.code * 128 + a.code * 8192 + i.toNat * 524288⟩
  | .ori d a i => some ⟨32, 0x9 + d.code * 128 + a.code * 8192 + i.toNat * 524288⟩
  | .xori d a i => some ⟨32, 0xB + d.code * 128 + a.code * 8192 + i.toNat * 524288⟩
  | .slti d a i => some ⟨32, 0xD + d.code * 128 + a.code * 8192 + i.toNat * 524288⟩
  | .sltiu d a i => some ⟨32, 0xF + d.code * 128 + a.code * 8192 + i.toNat * 524288⟩
  | .addiw d a i => some ⟨32, 0x11 + d.code * 128 + a.code * 8192 + i.toNat * 524288⟩
  | .slli d a s => some ⟨32, 0x13 + d.code * 128 + a.code * 8192 + s.toNat * 524288⟩
  | .srli d a s => some ⟨32, 0x2000013 + d.code * 128 + a.code * 8192 + s.toNat * 524288⟩
  | .srai d a s => some ⟨32, 0x4000013 + d.code * 128 + a.code * 8192 + s.toNat * 524288⟩
  | .rori d a s => some ⟨32, 0x6000013 + d.code * 128 + a.code * 8192 + s.toNat * 524288⟩
  | .slliw d a s => some ⟨32, 0x8000013 + d.code * 128 + a.code * 8192 + s.toNat * 524288⟩
  | .srliw d a s => some ⟨32, 0xA000013 + d.code * 128 + a.code * 8192 + s.toNat * 524288⟩
  | .sraiw d a s => some ⟨32, 0xC000013 + d.code * 128 + a.code * 8192 + s.toNat * 524288⟩
  | .lui d i => some ⟨32, 0x15 + d.code * 128 + i.toNat * 8192⟩
  | .auipc d i => some ⟨32, 0x17 + d.code * 128 + i.toNat * 8192⟩
  | .crdself d => some ⟨32, 0x19 + d.code * 128⟩
  | .crdmk d a b => some ⟨32, 0x2000019 + d.code * 128 + a.code * 8192 + b.code * 524288⟩
  | .crdget d a f => some ⟨32, 0x4000019 + d.code * 128 + a.code * 8192 + f.code * 268435456⟩
  | .crdset d a b f => some ⟨32, 0x6000019 + d.code * 128 + a.code * 8192 + b.code * 524288 + f.code * 268435456⟩
  | .crdadd d a b => some ⟨32, 0x8000019 + d.code * 128 + a.code * 8192 + b.code * 524288⟩
  | .div la d a b => some ⟨32, 0x1B + d.code * 128 + a.code * 8192 + b.code * 524288 + la.toNat * 268435456⟩
  | .divu la d a b => some ⟨32, 0x200001B + d.code * 128 + a.code * 8192 + b.code * 524288 + la.toNat * 268435456⟩
  | .rem la d a b => some ⟨32, 0x400001B + d.code * 128 + a.code * 8192 + b.code * 524288 + la.toNat * 268435456⟩
  | .remu la d a b => some ⟨32, 0x600001B + d.code * 128 + a.code * 8192 + b.code * 524288 + la.toNat * 268435456⟩
  | .divw la d a b => some ⟨32, 0x800001B + d.code * 128 + a.code * 8192 + b.code * 524288 + la.toNat * 268435456⟩
  | .remw la d a b => some ⟨32, 0xA00001B + d.code * 128 + a.code * 8192 + b.code * 524288 + la.toNat * 268435456⟩
  | .fdiv la d a b => some ⟨32, 0xC00001B + d.code * 128 + a.code * 8192 + b.code * 524288 + la.toNat * 268435456⟩
  | .fsqrt la d a => some ⟨32, 0xE00001B + d.code * 128 + a.code * 8192 + la.toNat * 268435456⟩
  | .beq a b o => some ⟨32, 0x1D + a.code * 128 + b.code * 8192 + o.toNat * 4194304⟩
  | .bne a b o => some ⟨32, 0x8001D + a.code * 128 + b.code * 8192 + o.toNat * 4194304⟩
  | .blt a b o => some ⟨32, 0x10001D + a.code * 128 + b.code * 8192 + o.toNat * 4194304⟩
  | .bge a b o => some ⟨32, 0x18001D + a.code * 128 + b.code * 8192 + o.toNat * 4194304⟩
  | .bltu a b o => some ⟨32, 0x20001D + a.code * 128 + b.code * 8192 + o.toNat * 4194304⟩
  | .bgeu a b o => some ⟨32, 0x28001D + a.code * 128 + b.code * 8192 + o.toNat * 4194304⟩
  | .beqz a o => some ⟨32, 0x1F + a.code * 128 + o.toNat * 65536⟩
  | .bnez a o => some ⟨32, 0x201F + a.code * 128 + o.toNat * 65536⟩
  | .bltz a o => some ⟨32, 0x401F + a.code * 128 + o.toNat * 65536⟩
  | .bgez a o => some ⟨32, 0x601F + a.code * 128 + o.toNat * 65536⟩
  | .bgtz a o => some ⟨32, 0x801F + a.code * 128 + o.toNat * 65536⟩
  | .blez a o => some ⟨32, 0xA01F + a.code * 128 + o.toNat * 65536⟩
  | .jal d o => some ⟨32, 0x21 + d.code * 128 + o.toNat * 8192⟩
  | .jalr d a i => some ⟨32, 0x23 + d.code * 128 + a.code * 8192 + i.toNat * 524288⟩
  | .ldB la d a o => some ⟨32, 0x25 + d.code * 128 + a.code * 8192 + o.toNat * 4194304 + la.toNat * 268435456⟩
  | .ldBu la d a o => some ⟨32, 0x80025 + d.code * 128 + a.code * 8192 + o.toNat * 4194304 + la.toNat * 268435456⟩
  | .ldH la d a o => some ⟨32, 0x100025 + d.code * 128 + a.code * 8192 + o.toNat * 4194304 + la.toNat * 268435456⟩
  | .ldHu la d a o => some ⟨32, 0x180025 + d.code * 128 + a.code * 8192 + o.toNat * 4194304 + la.toNat * 268435456⟩
  | .ldW la d a o => some ⟨32, 0x200025 + d.code * 128 + a.code * 8192 + o.toNat * 4194304 + la.toNat * 268435456⟩
  | .ldWu la d a o => some ⟨32, 0x280025 + d.code * 128 + a.code * 8192 + o.toNat * 4194304 + la.toNat * 268435456⟩
  | .ldD la d a o => some ⟨32, 0x300025 + d.code * 128 + a.code * 8192 + o.toNat * 4194304 + la.toNat * 268435456⟩
  | .ldxB la d a i => some ⟨32, 0x27 + d.code * 128 + a.code * 8192 + i.code * 524288 + la.toNat * 268435456⟩
  | .ldxBu la d a i => some ⟨32, 0x2000027 + d.code * 128 + a.code * 8192 + i.code * 524288 + la.toNat * 268435456⟩
  | .ldxH la d a i => some ⟨32, 0x4000027 + d.code * 128 + a.code * 8192 + i.code * 524288 + la.toNat * 268435456⟩
  | .ldxHu la d a i => some ⟨32, 0x6000027 + d.code * 128 + a.code * 8192 + i.code * 524288 + la.toNat * 268435456⟩
  | .ldxW la d a i => some ⟨32, 0x8000027 + d.code * 128 + a.code * 8192 + i.code * 524288 + la.toNat * 268435456⟩
  | .ldxWu la d a i => some ⟨32, 0xA000027 + d.code * 128 + a.code * 8192 + i.code * 524288 + la.toNat * 268435456⟩
  | .ldxD la d a i => some ⟨32, 0xC000027 + d.code * 128 + a.code * 8192 + i.code * 524288 + la.toNat * 268435456⟩
  | .ldaqB la sc d a => some ⟨32, 0x29 + d.code * 128 + a.code * 8192 + sc.code * 4194304 + la.toNat * 268435456⟩
  | .ldaqBu la sc d a => some ⟨32, 0x80029 + d.code * 128 + a.code * 8192 + sc.code * 4194304 + la.toNat * 268435456⟩
  | .ldaqH la sc d a => some ⟨32, 0x100029 + d.code * 128 + a.code * 8192 + sc.code * 4194304 + la.toNat * 268435456⟩
  | .ldaqHu la sc d a => some ⟨32, 0x180029 + d.code * 128 + a.code * 8192 + sc.code * 4194304 + la.toNat * 268435456⟩
  | .ldaqW la sc d a => some ⟨32, 0x200029 + d.code * 128 + a.code * 8192 + sc.code * 4194304 + la.toNat * 268435456⟩
  | .ldaqWu la sc d a => some ⟨32, 0x280029 + d.code * 128 + a.code * 8192 + sc.code * 4194304 + la.toNat * 268435456⟩
  | .ldaqD la sc d a => some ⟨32, 0x300029 + d.code * 128 + a.code * 8192 + sc.code * 4194304 + la.toNat * 268435456⟩
  | .stB r a o g sc => some ⟨32, 0x2B + r.code * 128 + a.code * 8192 + o.toNat * 4194304 + g.toNat * 268435456 + relCode sc * 536870912⟩
  | .stH r a o g sc => some ⟨32, 0x10002B + r.code * 128 + a.code * 8192 + o.toNat * 4194304 + g.toNat * 268435456 + relCode sc * 536870912⟩
  | .stW r a o g sc => some ⟨32, 0x20002B + r.code * 128 + a.code * 8192 + o.toNat * 4194304 + g.toNat * 268435456 + relCode sc * 536870912⟩
  | .stD r a o g sc => some ⟨32, 0x30002B + r.code * 128 + a.code * 8192 + o.toNat * 4194304 + g.toNat * 268435456 + relCode sc * 536870912⟩
  | .logstB r a o g sc => some ⟨32, 0x2D + r.code * 128 + a.code * 8192 + o.toNat * 4194304 + g.toNat * 268435456 + relCode sc * 536870912⟩
  | .logstH r a o g sc => some ⟨32, 0x10002D + r.code * 128 + a.code * 8192 + o.toNat * 4194304 + g.toNat * 268435456 + relCode sc * 536870912⟩
  | .amoadd dw sc d a b => some ⟨32, 0x2F + d.code * 128 + a.code * 8192 + b.code * 524288 + (sc.code - 1) * 536870912 + dw.toNat * 2147483648⟩
  | .amoand dw sc d a b => some ⟨32, 0x200002F + d.code * 128 + a.code * 8192 + b.code * 524288 + (sc.code - 1) * 536870912 + dw.toNat * 2147483648⟩
  | .amoor dw sc d a b => some ⟨32, 0x400002F + d.code * 128 + a.code * 8192 + b.code * 524288 + (sc.code - 1) * 536870912 + dw.toNat * 2147483648⟩
  | .amoxor dw sc d a b => some ⟨32, 0x600002F + d.code * 128 + a.code * 8192 + b.code * 524288 + (sc.code - 1) * 536870912 + dw.toNat * 2147483648⟩
  | .amomin dw sc d a b => some ⟨32, 0x800002F + d.code * 128 + a.code * 8192 + b.code * 524288 + (sc.code - 1) * 536870912 + dw.toNat * 2147483648⟩
  | .amomax dw sc d a b => some ⟨32, 0xA00002F + d.code * 128 + a.code * 8192 + b.code * 524288 + (sc.code - 1) * 536870912 + dw.toNat * 2147483648⟩
  | .amominu dw sc d a b => some ⟨32, 0xC00002F + d.code * 128 + a.code * 8192 + b.code * 524288 + (sc.code - 1) * 536870912 + dw.toNat * 2147483648⟩
  | .amomaxu dw sc d a b => some ⟨32, 0xE00002F + d.code * 128 + a.code * 8192 + b.code * 524288 + (sc.code - 1) * 536870912 + dw.toNat * 2147483648⟩
  | .amoswap dw sc d a b => some ⟨32, 0x1000002F + d.code * 128 + a.code * 8192 + b.code * 524288 + (sc.code - 1) * 536870912 + dw.toNat * 2147483648⟩
  | .amocas dw sc d a b => some ⟨32, 0x1200002F + d.code * 128 + a.code * 8192 + b.code * 524288 + (sc.code - 1) * 536870912 + dw.toNat * 2147483648⟩
  | .fence sc rr rw wr ww => some ⟨32, 0x31 + sc.code * 524288 + ww.toNat * 4194304 + wr.toNat * 8388608 + rw.toNat * 16777216 + rr.toNat * 33554432⟩
  | .fenceE sc => some ⟨32, 0x4000031 + sc.code * 524288⟩
  | .tdclr => some ⟨32, 0xBE00031⟩
  | .cbnd kd ks b => some ⟨32, 0x33 + kd.val * 256 + ks.val * 16384 + b.code * 524288⟩
  | .cperm kd ks b => some ⟨32, 0x10000033 + kd.val * 256 + ks.val * 16384 + b.code * 524288⟩
  | .cgetb d ks => some ⟨32, 0x20000033 + d.code * 128 + ks.val * 16384⟩
  | .cgetl d ks => some ⟨32, 0x30000033 + d.code * 128 + ks.val * 16384⟩
  | .cgetp d ks => some ⟨32, 0x40000033 + d.code * 128 + ks.val * 16384⟩
  | .cgett d ks => some ⟨32, 0x50000033 + d.code * 128 + ks.val * 16384⟩
  | .cmov kd ks => some ⟨32, 0x60000033 + kd.val * 256 + ks.val * 16384⟩
  | .cclr kd => some ⟨32, 0x70000033 + kd.val * 256⟩
  | .lcap la kd a o => some ⟨32, 0x35 + kd.val * 256 + a.code * 8192 + o.toNat * 4194304 + la.toNat * 268435456⟩
  | .scap ks a o => some ⟨32, 0x80035 + ks.val * 256 + a.code * 8192 + o.toNat * 4194304⟩
  | .fadd d a b => some ⟨32, 0x37 + d.code * 128 + a.code * 8192 + b.code * 524288⟩
  | .fsub d a b => some ⟨32, 0x2000037 + d.code * 128 + a.code * 8192 + b.code * 524288⟩
  | .fmul d a b => some ⟨32, 0x4000037 + d.code * 128 + a.code * 8192 + b.code * 524288⟩
  | .fmin d a b => some ⟨32, 0x6000037 + d.code * 128 + a.code * 8192 + b.code * 524288⟩
  | .fmax d a b => some ⟨32, 0x8000037 + d.code * 128 + a.code * 8192 + b.code * 524288⟩
  | .feq d a b => some ⟨32, 0xA000037 + d.code * 128 + a.code * 8192 + b.code * 524288⟩
  | .flt d a b => some ⟨32, 0xC000037 + d.code * 128 + a.code * 8192 + b.code * 524288⟩
  | .fle d a b => some ⟨32, 0xE000037 + d.code * 128 + a.code * 8192 + b.code * 524288⟩
  | .fsgnj d a b => some ⟨32, 0x10000037 + d.code * 128 + a.code * 8192 + b.code * 524288⟩
  | .fsgnjn d a b => some ⟨32, 0x12000037 + d.code * 128 + a.code * 8192 + b.code * 524288⟩
  | .fsgnjx d a b => some ⟨32, 0x14000037 + d.code * 128 + a.code * 8192 + b.code * 524288⟩
  | .fclass d a => some ⟨32, 0x16000037 + d.code * 128 + a.code * 8192⟩
  | .fcvtWS d a => some ⟨32, 0x18000037 + d.code * 128 + a.code * 8192⟩
  | .fcvtWuS d a => some ⟨32, 0x1A000037 + d.code * 128 + a.code * 8192⟩
  | .fcvtSW d a => some ⟨32, 0x1C000037 + d.code * 128 + a.code * 8192⟩
  | .fcvtSWu d a => some ⟨32, 0x1E000037 + d.code * 128 + a.code * 8192⟩
  | .fcvtSH d a => some ⟨32, 0x20000037 + d.code * 128 + a.code * 8192⟩
  | .fcvtHS d a => some ⟨32, 0x22000037 + d.code * 128 + a.code * 8192⟩
  | .fcvtSBf d a => some ⟨32, 0x24000037 + d.code * 128 + a.code * 8192⟩
  | .fcvtBfS d a => some ⟨32, 0x26000037 + d.code * 128 + a.code * 8192⟩
  | .fcvtLS d a => some ⟨32, 0x28000037 + d.code * 128 + a.code * 8192⟩
  | .fcvtSL d a => some ⟨32, 0x2A000037 + d.code * 128 + a.code * 8192⟩
  | .fmadd d a b c => some ⟨32, 0x39 + d.code * 128 + a.code * 8192 + b.code * 524288 + c.code * 33554432⟩
  | .fnmadd d a b c => some ⟨32, 0x80000039 + d.code * 128 + a.code * 8192 + b.code * 524288 + c.code * 33554432⟩
  | .lnscvtB d a => some ⟨32, 0x3B + d.code * 128 + a.code * 8192⟩
  | .lnscvtH d a => some ⟨32, 0x200003B + d.code * 128 + a.code * 8192⟩
  | .lincvtB d a => some ⟨32, 0x400003B + d.code * 128 + a.code * 8192⟩
  | .lincvtH d a => some ⟨32, 0x600003B + d.code * 128 + a.code * 8192⟩
  | .lmulB d a b => some ⟨32, 0x800003B + d.code * 128 + a.code * 8192 + b.code * 524288⟩
  | .lmulH d a b => some ⟨32, 0xA00003B + d.code * 128 + a.code * 8192 + b.code * 524288⟩
  | .vaddW d a b vm => some ⟨32, 0x3D + d.val * 128 + a.val * 4096 + b.val * 131072 + vm.val * 4194304⟩
  | .vsubW d a b vm => some ⟨32, 0x200003D + d.val * 128 + a.val * 4096 + b.val * 131072 + vm.val * 4194304⟩
  | .vmulW d a b vm => some ⟨32, 0x400003D + d.val * 128 + a.val * 4096 + b.val * 131072 + vm.val * 4194304⟩
  | .vmulhW d a b vm => some ⟨32, 0x600003D + d.val * 128 + a.val * 4096 + b.val * 131072 + vm.val * 4194304⟩
  | .vminW d a b vm => some ⟨32, 0x800003D + d.val * 128 + a.val * 4096 + b.val * 131072 + vm.val * 4194304⟩
  | .vmaxW d a b vm => some ⟨32, 0xA00003D + d.val * 128 + a.val * 4096 + b.val * 131072 + vm.val * 4194304⟩
  | .vminuW d a b vm => some ⟨32, 0xC00003D + d.val * 128 + a.val * 4096 + b.val * 131072 + vm.val * 4194304⟩
  | .vmaxuW d a b vm => some ⟨32, 0xE00003D + d.val * 128 + a.val * 4096 + b.val * 131072 + vm.val * 4194304⟩
  | .vand d a b vm => some ⟨32, 0x1000003D + d.val * 128 + a.val * 4096 + b.val * 131072 + vm.val * 4194304⟩
  | .vor d a b vm => some ⟨32, 0x1200003D + d.val * 128 + a.val * 4096 + b.val * 131072 + vm.val * 4194304⟩
  | .vxor d a b vm => some ⟨32, 0x1400003D + d.val * 128 + a.val * 4096 + b.val * 131072 + vm.val * 4194304⟩
  | .vsll d a b vm => some ⟨32, 0x1600003D + d.val * 128 + a.val * 4096 + b.val * 131072 + vm.val * 4194304⟩
  | .vsrl d a b vm => some ⟨32, 0x1800003D + d.val * 128 + a.val * 4096 + b.val * 131072 + vm.val * 4194304⟩
  | .vsra d a b vm => some ⟨32, 0x1A00003D + d.val * 128 + a.val * 4096 + b.val * 131072 + vm.val * 4194304⟩
  | .vdot4 d a b vm => some ⟨32, 0x1C00003D + d.val * 128 + a.val * 4096 + b.val * 131072 + vm.val * 4194304⟩
  | .vdot4u d a b vm => some ⟨32, 0x1E00003D + d.val * 128 + a.val * 4096 + b.val * 131072 + vm.val * 4194304⟩
  | .vfadd d a b vm => some ⟨32, 0x2000003D + d.val * 128 + a.val * 4096 + b.val * 131072 + vm.val * 4194304⟩
  | .vfsub d a b vm => some ⟨32, 0x2200003D + d.val * 128 + a.val * 4096 + b.val * 131072 + vm.val * 4194304⟩
  | .vfmul d a b vm => some ⟨32, 0x2400003D + d.val * 128 + a.val * 4096 + b.val * 131072 + vm.val * 4194304⟩
  | .vfma d a b vm => some ⟨32, 0x2600003D + d.val * 128 + a.val * 4096 + b.val * 131072 + vm.val * 4194304⟩
  | .vfmin d a b vm => some ⟨32, 0x2800003D + d.val * 128 + a.val * 4096 + b.val * 131072 + vm.val * 4194304⟩
  | .vfmax d a b vm => some ⟨32, 0x2A00003D + d.val * 128 + a.val * 4096 + b.val * 131072 + vm.val * 4194304⟩
  | .vfrcp d a vm => some ⟨32, 0x2C00003D + d.val * 128 + a.val * 4096 + vm.val * 4194304⟩
  | .vfrsq d a vm => some ⟨32, 0x2E00003D + d.val * 128 + a.val * 4096 + vm.val * 4194304⟩
  | .vexp2 d a vm => some ⟨32, 0x3000003D + d.val * 128 + a.val * 4096 + vm.val * 4194304⟩
  | .vlog2 d a vm => some ⟨32, 0x3200003D + d.val * 128 + a.val * 4096 + vm.val * 4194304⟩
  | .vfabs d a vm => some ⟨32, 0x3400003D + d.val * 128 + a.val * 4096 + vm.val * 4194304⟩
  | .vfneg d a vm => some ⟨32, 0x3600003D + d.val * 128 + a.val * 4096 + vm.val * 4194304⟩
  | .vceqW d a b vm => some ⟨32, 0x3800003D + d.val * 128 + a.val * 4096 + b.val * 131072 + vm.val * 4194304⟩
  | .vcltW d a b vm => some ⟨32, 0x3A00003D + d.val * 128 + a.val * 4096 + b.val * 131072 + vm.val * 4194304⟩
  | .vcltuW d a b vm => some ⟨32, 0x3C00003D + d.val * 128 + a.val * 4096 + b.val * 131072 + vm.val * 4194304⟩
  | .vfceq d a b vm => some ⟨32, 0x3E00003D + d.val * 128 + a.val * 4096 + b.val * 131072 + vm.val * 4194304⟩
  | .vfclt d a b vm => some ⟨32, 0x4000003D + d.val * 128 + a.val * 4096 + b.val * 131072 + vm.val * 4194304⟩
  | .vfcle d a b vm => some ⟨32, 0x4200003D + d.val * 128 + a.val * 4096 + b.val * 131072 + vm.val * 4194304⟩
  | .vsel d a b vm => some ⟨32, 0x4400003D + d.val * 128 + a.val * 4096 + b.val * 131072 + vm.val * 4194304⟩
  | .vmov d a vm => some ⟨32, 0x4600003D + d.val * 128 + a.val * 4096 + vm.val * 4194304⟩
  | .vperm d a b vm => some ⟨32, 0x4800003D + d.val * 128 + a.val * 4096 + b.val * 131072 + vm.val * 4194304⟩
  | .vcvtSW d a vm => some ⟨32, 0x4C00003D + d.val * 128 + a.val * 4096 + vm.val * 4194304⟩
  | .vcvtWS d a vm => some ⟨32, 0x4E00003D + d.val * 128 + a.val * 4096 + vm.val * 4194304⟩
  | .vcvtSH d a vm => some ⟨32, 0x5000003D + d.val * 128 + a.val * 4096 + vm.val * 4194304⟩
  | .vcvtHS d a vm => some ⟨32, 0x5200003D + d.val * 128 + a.val * 4096 + vm.val * 4194304⟩
  | .vcvtSBf d a vm => some ⟨32, 0x5400003D + d.val * 128 + a.val * 4096 + vm.val * 4194304⟩
  | .vcvtBfS d a vm => some ⟨32, 0x5600003D + d.val * 128 + a.val * 4096 + vm.val * 4194304⟩
  | .vlmulH d a b vm => some ⟨32, 0x5800003D + d.val * 128 + a.val * 4096 + b.val * 131072 + vm.val * 4194304⟩
  | .vlinH d a vm => some ⟨32, 0x5A00003D + d.val * 128 + a.val * 4096 + vm.val * 4194304⟩
  | .vlogH d a vm => some ⟨32, 0x5C00003D + d.val * 128 + a.val * 4096 + vm.val * 4194304⟩
  | .vlinB d a vm => some ⟨32, 0x5E00003D + d.val * 128 + a.val * 4096 + vm.val * 4194304⟩
  | .vlogB d a vm => some ⟨32, 0x6000003D + d.val * 128 + a.val * 4096 + vm.val * 4194304⟩
  | .vredsumW a vm => some ⟨32, 0x6200003D + a.val * 4096 + vm.val * 4194304⟩
  | .vredsumS a vm => some ⟨32, 0x6400003D + a.val * 4096 + vm.val * 4194304⟩
  | .vredmaxS a vm => some ⟨32, 0x6600003D + a.val * 4096 + vm.val * 4194304⟩
  | .vredminS a vm => some ⟨32, 0x6800003D + a.val * 4096 + vm.val * 4194304⟩
  | .vredmaxW a vm => some ⟨32, 0x6A00003D + a.val * 4096 + vm.val * 4194304⟩
  | .vaddWShort d a => some ⟨16, 0x0 + d.val * 32 + a.val * 1024⟩
  | .vsubWShort d a => some ⟨16, 0x2 + d.val * 32 + a.val * 1024⟩
  | .vmulWShort d a => some ⟨16, 0x4 + d.val * 32 + a.val * 1024⟩
  | .vandShort d a => some ⟨16, 0x6 + d.val * 32 + a.val * 1024⟩
  | .vorShort d a => some ⟨16, 0x8 + d.val * 32 + a.val * 1024⟩
  | .vxorShort d a => some ⟨16, 0xA + d.val * 32 + a.val * 1024⟩
  | .vminWShort d a => some ⟨16, 0xC + d.val * 32 + a.val * 1024⟩
  | .vmaxWShort d a => some ⟨16, 0xE + d.val * 32 + a.val * 1024⟩
  | .vfaddShort d a => some ⟨16, 0x10 + d.val * 32 + a.val * 1024⟩
  | .vfsubShort d a => some ⟨16, 0x12 + d.val * 32 + a.val * 1024⟩
  | .vfmulShort d a => some ⟨16, 0x14 + d.val * 32 + a.val * 1024⟩
  | .vfminShort d a => some ⟨16, 0x16 + d.val * 32 + a.val * 1024⟩
  | .vfmaxShort d a => some ⟨16, 0x18 + d.val * 32 + a.val * 1024⟩
  | .vmovShort d a => some ⟨16, 0x1A + d.val * 32 + a.val * 1024⟩
  | .vlmulHShort d a => some ⟨16, 0x1C + d.val * 32 + a.val * 1024⟩
  | .vsllShort d a => some ⟨16, 0x1E + d.val * 32 + a.val * 1024⟩
  | .vaddWBcast d o => some ⟨16, 0x8000 + d.val * 32 + o.val * 1024⟩
  | .vsubWBcast d o => some ⟨16, 0x8002 + d.val * 32 + o.val * 1024⟩
  | .vmulWBcast d o => some ⟨16, 0x8004 + d.val * 32 + o.val * 1024⟩
  | .vandBcast d o => some ⟨16, 0x8006 + d.val * 32 + o.val * 1024⟩
  | .vorBcast d o => some ⟨16, 0x8008 + d.val * 32 + o.val * 1024⟩
  | .vxorBcast d o => some ⟨16, 0x800A + d.val * 32 + o.val * 1024⟩
  | .vminWBcast d o => some ⟨16, 0x800C + d.val * 32 + o.val * 1024⟩
  | .vmaxWBcast d o => some ⟨16, 0x800E + d.val * 32 + o.val * 1024⟩
  | .vfaddBcast d o => some ⟨16, 0x8010 + d.val * 32 + o.val * 1024⟩
  | .vfsubBcast d o => some ⟨16, 0x8012 + d.val * 32 + o.val * 1024⟩
  | .vfmulBcast d o => some ⟨16, 0x8014 + d.val * 32 + o.val * 1024⟩
  | .vfminBcast d o => some ⟨16, 0x8016 + d.val * 32 + o.val * 1024⟩
  | .vfmaxBcast d o => some ⟨16, 0x8018 + d.val * 32 + o.val * 1024⟩
  | .vmovBcast d o => some ⟨16, 0x801A + d.val * 32 + o.val * 1024⟩
  | .vlmulHBcast d o => some ⟨16, 0x801C + d.val * 32 + o.val * 1024⟩
  | .vsllBcast d o => some ⟨16, 0x801E + d.val * 32 + o.val * 1024⟩
  | .vld d k b vm => some ⟨32, 0x3F + d.val * 128 + k.val * 8192 + b.code * 262144 + vm.val * 16777216⟩
  | .vst d k b vm => some ⟨32, 0x800003F + d.val * 128 + k.val * 8192 + b.code * 262144 + vm.val * 16777216⟩
  | .vlds d k b vm => some ⟨32, 0x1000003F + d.val * 128 + k.val * 8192 + b.code * 262144 + vm.val * 16777216⟩
  | .vsts d k b vm => some ⟨32, 0x1800003F + d.val * 128 + k.val * 8192 + b.code * 262144 + vm.val * 16777216⟩
  | .vldg d k vm => some ⟨32, 0x2000003F + d.val * 128 + k.val * 8192 + vm.val * 16777216⟩
  | .vstg d k n vm => some ⟨32, 0x2800003F + d.val * 128 + k.val * 8192 + n.val * 262144 + vm.val * 16777216⟩
  | .vbcast d a vm => some ⟨32, 0x3000003F + d.val * 128 + a.code * 4096 + vm.val * 16777216⟩
  | .vmovs d b => some ⟨32, 0x3800003F + d.val * 128 + b.code * 262144⟩
  | .vins d a b => some ⟨32, 0x4000003F + d.val * 128 + a.code * 4096 + b.code * 262144⟩
  | .viota d vm => some ⟨32, 0x4800003F + d.val * 128 + vm.val * 16777216⟩
  | .vrand d vm => some ⟨32, 0x5000003F + d.val * 128 + vm.val * 16777216⟩
  | .gang a => some ⟨32, 0x41 + a.code * 8192⟩
  | .ungang => some ⟨32, 0x2000041⟩
  | .vfence => some ⟨32, 0x4000041⟩
  | .vsetw a => some ⟨32, 0x6000041 + a.code * 8192⟩
  | .vmand d a b => some ⟨32, 0x8000041 + d.val * 128 + a.val * 8192 + b.val * 524288⟩
  | .vmor d a b => some ⟨32, 0xA000041 + d.val * 128 + a.val * 8192 + b.val * 524288⟩
  | .vmnot d a => some ⟨32, 0xC000041 + d.val * 128 + a.val * 8192⟩
  | .vmpopc d a => some ⟨32, 0xE000041 + d.code * 128 + a.val * 8192⟩
  | .mclaim d => some ⟨32, 0x43 + d.code * 128⟩
  | .mfree => some ⟨32, 0x10000043⟩
  | .mldw a => some ⟨32, 0x20000043 + a.code * 8192⟩
  | .mswap => some ⟨32, 0x30000043⟩
  | .mstream a b => some ⟨32, 0x40000043 + a.code * 8192 + b.code * 524288⟩
  | .mzero a b => some ⟨32, 0x50000043 + a.code * 8192 + b.code * 524288⟩
  | .mstore a b => some ⟨32, 0x60000043 + a.code * 8192 + b.code * 524288⟩
  | .mwait => some ⟨32, 0x70000043⟩
  | .mmode a => some ⟨32, 0x80000043 + a.code * 8192⟩
  | .mscale a b => some ⟨32, 0x90000043 + a.code * 8192 + b.code * 524288⟩
  | .mstat d => some ⟨32, 0xA0000043 + d.code * 128⟩
  | .cpq q => some ⟨32, 0x45 + q.val * 32768⟩
  | .cpqt d q => some ⟨32, 0x2000045 + d.code * 128 + q.val * 32768⟩
  | .rinit a => some ⟨32, 0x47 + a.code * 8192⟩
  | .rawait d a => some ⟨32, 0x2000047 + d.code * 128 + a.code * 8192⟩
  | .rrel a => some ⟨32, 0x4000047 + a.code * 8192⟩
  | .rpeek d a => some ⟨32, 0x6000047 + d.code * 128 + a.code * 8192⟩
  | .binit a b => some ⟨32, 0x49 + a.code * 8192 + b.code * 524288⟩
  | .barv d a => some ⟨32, 0x2000049 + d.code * 128 + a.code * 8192⟩
  | .bexp a b => some ⟨32, 0x4000049 + a.code * 8192 + b.code * 524288⟩
  | .bwait d a b => some ⟨32, 0x6000049 + d.code * 128 + a.code * 8192 + b.code * 524288⟩
  | .btest d a b => some ⟨32, 0x8000049 + d.code * 128 + a.code * 8192 + b.code * 524288⟩
  | .grank d a => some ⟨32, 0x4B + d.code * 128 + a.code * 8192⟩
  | .gsize d a => some ⟨32, 0x200004B + d.code * 128 + a.code * 8192⟩
  | .garv d a => some ⟨32, 0x400004B + d.code * 128 + a.code * 8192⟩
  | .gwait a b => some ⟨32, 0x600004B + a.code * 8192 + b.code * 524288⟩
  | .evsig a b => some ⟨32, 0x4D + a.code * 8192 + b.code * 524288⟩
  | .evwait a => some ⟨32, 0x200004D + a.code * 8192⟩
  | .evtry d a => some ⟨32, 0x400004D + d.code * 128 + a.code * 8192⟩
  | .evset a => some ⟨32, 0x600004D + a.code * 8192⟩
  | .evclr a => some ⟨32, 0x800004D + a.code * 8192⟩
  | .spawn d a => some ⟨32, 0x4F + d.code * 128 + a.code * 8192⟩
  | .suspend => some ⟨32, 0x200004F⟩
  | .yield => some ⟨32, 0x400004F⟩
  | .exit => some ⟨32, 0x600004F⟩
  | .resume a => some ⟨32, 0x800004F + a.code * 8192⟩
  | .dist d a n => some ⟨32, 0x51 + d.code * 128 + a.code * 8192 + n.toNat * 524288⟩
  | .srd d r => some ⟨32, 0x53 + d.code * 128 + r.code * 524288⟩
  | .swr d r a => some ⟨32, 0x40000053 + d.code * 128 + r.code * 524288 + a.code * 8192⟩
  | .sset d r a => some ⟨32, 0x80000053 + d.code * 128 + r.code * 524288 + a.code * 8192⟩
  | .sclr d r a => some ⟨32, 0xC0000053 + d.code * 128 + r.code * 524288 + a.code * 8192⟩
  | .trap c => some ⟨32, 0x55 + c.toNat * 524288⟩
  | .uret => some ⟨32, 0x10000055⟩
  | .uiret => some ⟨32, 0x20000055⟩
  | .sret => some ⟨32, 0x30000055⟩
  | .brk => some ⟨32, 0x40000055⟩
  | .wfi => some ⟨32, 0x50000055⟩
  | .uien a => some ⟨32, 0x60000055 + a.code * 8192⟩
  | .pref a => some ⟨32, 0x57 + a.code * 8192⟩
  | .invl a => some ⟨32, 0x2000057 + a.code * 8192⟩
  | .hmbump a => some ⟨32, 0x4000057 + a.code * 8192⟩
  | .relack a => some ⟨32, 0x6000057 + a.code * 8192⟩
  | .flushl a => some ⟨32, 0x8000057 + a.code * 8192⟩
  | .vfcall d a => some ⟨32, 0x59 + d.code * 128 + a.code * 8192⟩
  | .qrnPop => none
  | .qcsPop => none
  | .qntPop => none
  | .qvsPop => none
  | .qmoPop => none
  | .qmiPush _ => none
  | .qsaPush _ => none
  | .qsoPop => none
  | .lookaheadResult _ => none
  | .storeOrdered _ => none
  | .acknowledgement _ => none
  | .amoResult => none
  | .allowanceEnd _ => none
  | .userInterrupt => none
  | .asynchronousTrap => none
  | .vectorGrant _ => none
  | .vectorComplete => none
  | .copyChunkStart _ => none
  | .copyChunkDone _ => none
  | .copyCompletion _ => none
  | .periodRefill _ => none
  | .planeLoad _ => none
  | .rowInjection _ => none
  | .rowComplete _ => none
  | .pageRelocation => none
  | .cellRetirement _ => none
  | .scrub _ _ => none
  | .softErrorHalving => none
  | .stage2Load _ => none
  | .pageWalk _ => none
  | .hostWrite _ _ => none
  | .hostRead _ _ => none
  | .launchCommit _ _ => none
  | .launchCompletion _ => none
  | .dispatch => none
  | .sliceEnding _ => none
  | .sliceEnd _ => none
  | .coreHalt => none
  | .flushComplete _ => none
  | .sliceStart _ => none
  | .actionRecord => none
  | .setmin => none
  | .setwd => none
  | .setimg => none
  | .actionDelivery _ => none
  | .post _ => none
  | .wait _ => none
  | .controlBlockWrite _ _ _ => none
  | .episodeZeroed _ => none
  | .watchdogExpiry _ => none
  | .cappingDecision _ _ => none
  | .cadenceApply _ => none
  | .tokenGrant _ => none
  | .tokenTrade _ _ => none
  | .fallbackGrant => none
  | .estimatorRefit _ _ _ => none
  | .telemetryRead _ => none
  | .energyRefresh _ _ => none
  | .stallrUpdate _ _ => none
  | .setv _ _ => none
  | .setfb _ _ _ => none
  | .voltageStepSettled _ => none
  | .biasSettled _ => none
  | .thermalSample _ _ => none
  | .coolantFlowLow _ => none
  | .ackTimeout _ => none
  | .hivePortFailure _ => none
  | .peerChunkArrival _ _ _ _ _ _ _ => none
  | .chipLinkFailure _ => none
  | .powerOnReset => none
  | .enterReduced => none
  | .enterFull => none
  | .assignvf _ _ _ _ => none
  | .sets2 _ _ _ => none
  | .setslice _ _ _ _ _ => none
  | .setcoll _ _ => none
  | .setway _ _ _ => none
  | .setscope _ _ => none
  | .setmbox _ _ => none
  | .setbudget _ _ _ _ => none
  | .resetdie _ => none
  | .saveregion _ _ => none
  | .attest _ => none
  | .s2reply _ _ _ => none
  | .setroot _ => none
  | .reserve _ => none
  | .relocate _ => none
  | .setq _ => none
  | .s2req _ => none
  | .publish _ => none
  | .unpublish _ => none
  | .pwrread _ => none
  | .reservedEncoding _ => none
  | .fetchFault => none
  | .environmentCoreInstruction _ => none
  | .hiveDieFault => none
  | .matrixInstructionComplete _ => none

end Sys2Proof
end

