-- ==== Sys2Proof/Machine/State.lean ====
section
/-!
DEFINITION. The state of the K9 as plain data: every piece of state the spec names, and the model's own turn list and
counters (log 1, log 10). INVENTORY.md lists each field with its rule and reset value.
-/

namespace Sys2Proof.Machine

/-- The identity of a continuation: its VF and the virtual address of its record (R321). -/
structure Key where
  vf : Nat
  rva : Nat
deriving DecidableEq, Repr, Inhabited

/-! ### The continuation -/

/-- An operand file o0-o7 and a last-result file l0-l3 (R95). -/
structure OlSet where
  o : Vector W64 8
  l : Vector W64 4
deriving DecidableEq, Repr

/-- Which of the three sets is active (R97). -/
inductive RegSet where
  | prog | user | sup
deriving DecidableEq, Repr

/-- Main registers, capability tags and the three operand and last-result sets (R95, R97, R98). -/
structure Gpr where
  m : Vector W64 32
  tags : Vector Bool 16
  prog : OlSet
  user : OlSet
  sup : OlSet
  active : RegSet
deriving DecidableEq, Repr

/-- The STATUS bits held as such (R103); VBUSY and GANG are read from the queue and the gang. -/
structure Status where
  mclaimed : Bool
  pin : Bool
  uien : Bool
  vkeep : Bool
  spp : Bool
  mode : Bool
  uh : Bool
  sd : Bool
deriving DecidableEq, Repr

/-- An open supervisor trap, with the UH value, the handler origin and the set it displaced (R348, R355). -/
structure OpenSup where
  uh : Bool
  uhInt : Bool
  set : RegSet
deriving DecidableEq, Repr

/-- A fault-upcall interrupted by a stop before its write-back finished (R366). -/
structure PendFault where
  cause : W64
  tval : W64
deriving DecidableEq, Repr

/-- Trap registers (R348, R102) and pending asynchronous traps (R348, R358). -/
structure TrapRegs where
  cause : W64
  epc : W64
  tval : W64
  upvec : W64
  uivec : W64
  fbvec : W64
  sepc : W64
  scause : W64
  stval : W64
  /-- the open user handler was entered by a user interrupt (R134) -/
  uhInt : Bool
  openSup : Option OpenSup
  pendDie : BitVec 13
  pendAck : Option (W64 × BitVec 13)
  /-- the number of the store that `pendAck` names -/
  pendAckId : Nat
  /-- the lost acknowledgement is entered at the next boundary, and not only before an instruction that waits (R364) -/
  ackDue : Bool
  /-- the addresses of vector loads that met poisoned data, oldest first (R159) -/
  pendEcc : List W64
  pendFault : Option PendFault
  /-- the code of the last trap or fault-upcall, as the record's CAUSE holds it (R321) -/
  last : BitVec 8
deriving DecidableEq, Repr

/-- The kept system registers (R102). -/
structure SysRegs where
  gthread : BitVec 24
  grpmap : BitVec 33
  vfid : Nat
  home : BitVec 37
  ax : BitVec 9
  fillv : W32
  spillsz : BitVec 17
  ovfptr : W64
  tdmask : BitVec 13
  lflags : BitVec 5
  fstat : BitVec 5
  wdesc5 : BitVec 40
  wdesc6 : BitVec 40
  meter : W64
  mlimit : W64
  evsel : Vector (BitVec 16) 16
  evc : Vector W64 16
deriving DecidableEq, Repr

/-- Where one element lies: its first storage byte, the format of its window (0 raw), which nibble, the storage address
of its group descriptor (windows 5 and 6), and the pointer that names it (R168). -/
structure Place where
  addr : Nat
  win : Nat
  hi : Bool
  desc : Nat
  ptr : W64
deriving DecidableEq, Repr

/-- Lane operations of two operands (R150). -/
inductive VBin where
  | addW | subW | mulW | mulhW | minW | maxW | minuW | maxuW | and | or | xor | sll | srl | sra | dot4 | dot4u
  | fadd | fsub | fmul | fma | fmin | fmax | lmulH | mov
deriving DecidableEq, Repr

/-- Lane operations of one operand (R150). -/
inductive VUn where
  | frcp | frsq | exp2 | log2 | fabs | fneg | mov | cvtSW | cvtWS | cvtSH | cvtHS | cvtSBf | cvtBfS
  | linH | logH | linB | logB
deriving DecidableEq, Repr

/-- Lane comparisons (R150). -/
inductive VCmp where
  | eqW | ltW | ltuW | feq | flt | fle
deriving DecidableEq, Repr

/-- Reductions (R151). -/
inductive VRed where
  | sumW | sumS | maxS | minS | maxW
deriving DecidableEq, Repr

/-- The second operand of a lane operation: a register, or the scalar kept at issue (R28). -/
inductive VSrc where
  | reg (r : VReg)
  | scalar
deriving DecidableEq, Repr

/-- What a queued vector instruction does (R141, R149-R157). -/
inductive VOp where
  | bin (f : VBin) (vd vs1 : VReg) (src : VSrc) (vm : VMask)
  | un (f : VUn) (vd vs1 : VReg) (vm : VMask)
  | cmp (f : VCmp) (vmd : VMask) (vs1 vs2 : VReg) (vm : VMask)
  | sel (vd vs1 vs2 : VReg) (vm : VMask)
  | perm (vd vs1 vs2 : VReg) (vm : VMask)
  | red (f : VRed) (vs1 : VReg) (vm : VMask)
  | load (vd : VReg) (vm : VMask)
  | store (vd : VReg)
  | bcast (vd : VReg) (vm : VMask)
  | movs (vd : VReg)
  | ins (vd : VReg)
  | iota (vd : VReg) (vm : VMask)
  | rand (vd : VReg) (vm : VMask)
  | mand (vmd a b : VMask)
  | mor (vmd a b : VMask)
  | mnot (vmd a : VMask)
  | popc (a : VMask)
  | setw
  /-- an UNGANG without a gang, which has no effect -/
  | ungang
deriving DecidableEq, Repr

/-- One entry of a vector command queue, with the values kept at issue (R141): the operation, the width, two scalar
operands, the in-bounds elements by lane, FILLV, the words VRAND drew, and the number memory's next write had then, by which
the thread's earlier accesses are told from its later ones (R160). -/
structure VTask where
  op : VOp
  width : Nat
  x : W64
  y : W64
  elems : List (Nat × Place)
  fillv : W32
  rnd : List W64
  /-- the event selectors at issue (R241) -/
  sel : Vector (BitVec 16) 16
  stamp : Nat
  started : Bool
deriving DecidableEq, Repr

/-- Vector registers, masks, width, gang and queues of the vector unit that belong to the continuation (R140). -/
structure VecRegs where
  v : Vector (Vector W32 128) 32
  vm : Vector (BitVec 128) 8
  width : Nat
  /-- the gang size, 1 when there is no gang (R144) -/
  gang : Nat
  q : List VTask
  qvs : List W64
  /-- a VMPOPC has issued and the core waits for it: its count, once there is one (R149) -/
  popc : Option (Option W64)
deriving DecidableEq, Repr

/-- Queues of the continuation (R247, R300). -/
structure Queues where
  qcs : List W64
  /-- the scope of the command of each record in qcs (R228) -/
  qcsScope : List Scope
  outstanding : Nat
  qnt : List W64
  pendUi : List W64
  /-- the scope of the command of each pending user interrupt (R228) -/
  pendUiScope : List Scope
  qsa : List W64
  /-- a whole qsa record on its way to the apiary (R306) -/
  sent : Option (List W64)
  qso : List W64
  /-- the observation being popped: its mailbox and the words of it left in qso (R308) -/
  qsoRec : Option (Nat × Nat)
  owed : Nat
deriving DecidableEq, Repr

/-- A FENCE that has issued and is not yet complete (R212): its scope, the kinds of later access it holds, the kinds of
earlier access it waits for, and the number the thread's next write had at its issue. -/
structure FencePend where
  scope : Scope
  holdR : Bool
  holdW : Bool
  drains : Bool
  waitW : Bool
  upto : Nat
deriving DecidableEq, Repr

/-- The read of a leading load whose value may still be fixed later than the loads of its window (R226); `stamp` is the number
memory's next write had at its issue. -/
structure LaRead where
  place : Place
  size : Nat
  signed : Bool
  cap : Bool
  stamp : Nat
deriving DecidableEq, Repr

/-- An outstanding lookahead result (R33-R36): the leading instruction's address, its destinations with the values, the
flags it sets when written, and the instructions left in its window. -/
structure LaEnt where
  pc : BitVec 72
  dests : List (Reg × W64)
  tag : Option Bool
  fstat : BitVec 5
  lflags : BitVec 5
  left : Nat
  /-- the result has been written; the window goes on (R34) -/
  done : Bool
  /-- the load's read, while its value may still be fixed anew (R226) -/
  read : Option LaRead
deriving DecidableEq, Repr

/-- The ten operations of the A format (R207). -/
inductive AmoOp where
  | add | and | or | xor | min | max | minu | maxu | swap | cas
deriving DecidableEq, Repr

/-- An AMO with destination z that has issued and is not yet performed (R209). -/
structure AmoPend where
  id : Nat
  op : AmoOp
  dword : Bool
  scope : Scope
  place : Place
  b : W64
  expect : W64
  /-- the event selectors at issue (R241) -/
  sel : Vector (BitVec 16) 16
deriving DecidableEq, Repr

/-- An acknowledgement owed (R205, R364): the store's address, its issue time, the dies that hold a copy, whether the
core itself waits for it (a package or system release), whether its loss is entered at the next boundary (R364), and the
number of its store. -/
structure AckEnt where
  ea : W64
  issued : Nat
  dies : BitVec 13
  rel : Bool
  due : Bool
  id : Nat
deriving DecidableEq, Repr

/-- A plane or operand format of the matrix engine (R268, R275). -/
inductive MxFmt where
  | none | lns8 | lns16 | int8g | int4g
deriving DecidableEq, Repr

/-- One queued matrix instruction with its operands as read at issue (R272). Storage is named by a core and a first
stored byte; `next` is the next row of a stream to be injected, `sel` the event selectors at issue (R241); an MSTORE holds the
group descriptors of its range as read at issue: zero point, scale, poison (R290). -/
inductive MxTask where
  | mldw (core byte : Nat) (fmt : MxFmt) (begun : Bool)
  | mswap
  | mstream (core : Option Nat) (byte stride n a0 : Nat) (z p : Bool) (next : Nat) (sel : Vector (BitVec 16) 16)
  | mzero (first count : Nat)
  | mstore (core off win first count descCode : Nat) (descs : List (Nat × Nat × Bool))
  | mmode (q : Bool)
  | mscale (wt act code : Nat)
deriving DecidableEq, Repr

/-- A row in flight: injected, its accumulator update not yet complete (R278, R281). -/
structure MxRow where
  acc : Nat
  plane : Bool
  fmt : MxFmt
  bytes : List Byte
  poison : List Bool
  deliver : Bool
  q : Bool
  /-- the cluster's clock at its injection, in eighths of a cycle (R293) -/
  cyc : Nat
deriving DecidableEq, Repr

/-- The open group of one accumulator row (R284): position, index, the sum of activation codes, and per column the sums
of products and of weight codes, and whether it met a poisoned byte. -/
structure MxGroup where
  gp : Nat
  gi : Nat
  sa : Int
  s : List Int
  sw : List Int
  poison : List Bool
deriving DecidableEq, Repr

/-- What a claimed matrix engine holds (R268); an engine without an owner holds nothing visible. -/
structure MxState where
  plane0 : List Byte
  plane1 : List Byte
  poison0 : List Bool
  poison1 : List Bool
  fmt0 : MxFmt
  fmt1 : MxFmt
  active : Bool
  /-- 64 rows of 64 columns -/
  acc : Vector (Vector W32 64) 64
  groups : Vector MxGroup 64
  q : Bool
  tables : Option (Nat × Nat × Nat)
  flags : BitVec 6
  queue : List MxTask
  rows : List MxRow
  qmi : List W64
  qmo : List W64
  /-- an MFREE or EXIT waits: how many of the queued instructions come before it; their streams from qmi take only the words
  pushed before it, and their P rows need no room (R270) -/
  cut : Nat
  /-- the words of qmi pushed before that MFREE or EXIT -/
  cutWords : Nat
  /-- the cluster's clock at the last injection, in eighths of a cycle (R293) -/
  lastInj : Option Nat
  /-- which claim of which cell this is, and how many rows it has completed: the number of a row's order of sums (R91, log 11) -/
  claim : Nat × Nat
  rowNo : Nat
  /-- an MSTORE to another die has issued since the owner last acquired the engine's stores (R228) -/
  far : Bool
deriving DecidableEq, Repr

/-- The part of a continuation's context that names its record (R321): the key, the save and counter areas, the queue,
the launch, and for a service run the faulting continuation (R353). -/
structure RecInfo where
  key : Option Key
  saveptr : W64
  ctrptr : W64
  prio : Nat
  launch : Nat
  seed : W128
  service : Option Key
deriving DecidableEq, Repr

/-- A continuation: everything that follows it from core to core, and what it holds on its core. -/
structure Ctx where
  g : Gpr
  st : Status
  tr : TrapRegs
  sys : SysRegs
  vec : VecRegs
  qs : Queues
  pc : BitVec 72
  /-- the last transfer went to a 64-bit value with bit 63 set, which names no instruction (R401) -/
  pcBad : Bool
  rng : W128
  la : List LaEnt
  amo : Option AmoPend
  acks : List AckEnt
  /-- fences not yet complete, oldest first (R212) -/
  fences : List FencePend
  /-- the widest scope of a copy command whose completion FENCE.E has not observed (R228) -/
  cmdScope : Option Scope
  engine : Option MxState
  info : RecInfo
  /-- the core waits on an empty pop queue or a full push queue (R240, code 0x0D) -/
  waitQ : Bool
  /-- a WFI has issued and waits (R136) -/
  wfi : Bool
  /-- the core has halted at a synchronised stop and waits for its save (R342) -/
  halted : Bool
deriving DecidableEq, Repr

/-! ### Memory -/

/-- What a store in the queue writes besides plain bytes (R169, R173). -/
inductive StKind where
  | plain
  | nibble (hi : Bool)
  | cap (tag : Bool)
  | tagBits
deriving DecidableEq, Repr

/-- An issued store that has not yet taken its place in coherence order (R200). -/
structure StoreEnt where
  core : Nat
  addr : Nat
  bytes : List Byte
  kind : StKind
  g : Bool
  rel : Option Scope
  ea : W64
  issued : Nat
  /-- its number among the writes of memory -/
  id : Nat
  /-- the number of the point at which the agents of its own die began to see it (R224), before its place in coherence order -/
  shown : Option Nat
  /-- the continuations of its die whose releases cover it (R227) -/
  covers : List Key
  /-- the stopped VF whose save buffers hold it (R343) -/
  held : Option Nat
  /-- the continuation that issued it -/
  owner : Key
deriving DecidableEq, Repr

/-- A byte of a write: its address, the value it replaced in coherence order, and the agents' dies that have read the write
there or must (the host reads as die 13). -/
structure MsgCell where
  addr : Nat
  old : Byte
  seen : List Nat
deriving DecidableEq, Repr

/-- A write to global lines that some die may not yet see (R224): its bytes, the tags it replaced by granule, and the
continuations of its die whose releases cover it, as writer, as reader or by an acquire (R227). A write that every agent saw at
once has such an entry too while an older one of its granules has: whoever reads it reads that one (R223). -/
structure WriteMsg where
  id : Nat
  core : Nat
  die : Nat
  cells : List MsgCell
  tags : List (Nat × Bool)
  performedAt : Option Nat
  covers : List Key
  /-- the continuation that made it, and the pointer that names it (R194, R212) -/
  owner : Option Key
  ea : W64
  /-- a copy engine made it for that continuation -/
  copy : Bool
deriving DecidableEq, Repr

/-- Memory: bytes in one canonical form, tags by 16-byte granule, poison by line (global) or word (scratchpad), stored
check values that differ from the CRC of their line (R163, R173, R180), and the writes on their way (R200, R224). -/
structure Memory where
  cells : List Host.Cell
  /-- ranges the save engine wrote (address, length, number of the write) whose bytes the spec does not lay out: until
  written again they read as the free bytes of that number (log 6) -/
  veil : List (Nat × Nat × Nat)
  tags : List Nat
  poison : List Nat
  checks : List (Nat × W32)
  stores : List StoreEnt
  msgs : List WriteMsg
  nextMsg : Nat
deriving DecidableEq, Repr

/-- A line of a cache slice or of an instruction cache (R178, R192): tags and hallmark; data is coherent with memory. -/
structure CLine where
  unit : Nat
  way : Nat
  vf : Nat
  va : Nat
  pa : Nat
  gen : Nat
  r : Bool
  w : Bool
  x : Bool
  dirty : Bool
  used : Nat
  /-- the context the line was filled for, credited with event 0x06 (R240) -/
  owner : Option Key
deriving DecidableEq, Repr

/-- A tombstone (R175): the old page and the new one, each a core and a page number. -/
structure Tomb where
  core : Nat
  page : Nat
  newCore : Nat
  newPage : Nat
deriving DecidableEq, Repr

/-- A page slot of a frame's relocation reserve (R175), earliest first. -/
structure ReserveSlot where
  vf : Nat
  core : Nat
  page : Nat
deriving DecidableEq, Repr

/-- On-die structures other than the bytes of memory (R163, R175, R178, R182). -/
structure Fabric where
  slices : List CLine
  icache : List CLine
  useClock : Nat
  tombs : List Tomb
  reserve : List ReserveSlot
  /-- relocations requested by supervisors and not yet made: VF, core, page -/
  relocQ : List (Nat × Nat × Nat)
  /-- page ownership on nodes with several VFs: core, page, VF (R164) -/
  pageOwner : List (Nat × Nat × Nat)
  lostPages : List (Nat × Nat)
  /-- WAYMASK by VF and cell, where it is not 0xFFFF (R179) -/
  waymask : List (Nat × Nat × BitVec 16)
  /-- remap lists: die, physical x, physical y, spare column (R174) -/
  remap : List (Nat × Nat × Nat × Nat)
  softErr : List (Nat × Nat)
  retired : List Nat
  /-- cells whose retirement waits for a synchronised stop (R182) -/
  retiring : List Nat
  vshare : List (Nat × W32)
  credits : List (Nat × Int)
  /-- the leader that has won the grant of a cell and waits for lane groups: cell, core (R143) -/
  winners : List (Nat × Nat)
  /-- dies declared lost, in TDMASK order (R360) -/
  lost : BitVec 13
  lastScrub : Nat
deriving DecidableEq, Repr

/-! ### Virtual functions and translation -/

/-- A register of the compatibility mode (R196). -/
structure CRange where
  base : Nat
  limit : Nat
  inter : Nat
  r : Bool
  w : Bool
  x : Bool
deriving DecidableEq, Repr

/-- Translation state and settings of one VF (R183, R102, R337-R339, R389-R392). -/
structure Vf where
  id : Nat
  node : Nat
  compat : Bool
  share : Nat
  root : Nat
  s2 : Vector (BitVec 128) 48
  /-- slot generations that are not 0 (R192) -/
  gens : List (Nat × Nat)
  ranges : List CRange
  hostRanges : List (Nat × Nat)
  svec : W64
  scopecap : Scope
  queues : Vector (BitVec 16) 16
  queueCredit : Vector Int 16
  launchBase : Nat
deriving DecidableEq, Repr

/-- Budget, energy and mailbox state of one VF (R243, R252, R242, R266, R376, R263). -/
structure VfAcct where
  id : Nat
  budget : Nat
  /-- what the host has assigned: BUDGET at the next period's start -/
  alloc : Nat
  /-- the allocation of the period under way -/
  granted : Nat
  period : Nat
  periodStart : Nat
  lowPosted : Bool
  weight : Nat
  energy : W64
  /-- energy below one µJ, in pJ -/
  energyPj : Nat
  seq : Nat
  /-- the unanswered request, with its sequence number and its issuer -/
  mbox : Option (Nat × Key)
  s2wait : Bool
  request : List Byte
  overflow : List (Key × W64)
  pwr : List W64
  notices : Nat
deriving DecidableEq, Repr

/-- An entry of a die's translation cache (R191). -/
structure TEnt where
  die : Nat
  vf : Nat
  va : Nat
  size : Nat
  pa : Nat
  r : Bool
  w : Bool
  x : Bool
  u : Bool
  gen : Nat
  /-- the address that names its slot: the VA, in compatibility mode the intermediate address it was made for (R196) -/
  tag : Nat
deriving DecidableEq, Repr

/-- An upper-level entry of a die's walk cache (R191): the table address a VA prefix leads to. -/
structure WEnt where
  die : Nat
  vf : Nat
  level : Nat
  va : Nat
  pte : Nat
  gen : Nat
deriving DecidableEq, Repr

/-- A cell that waits for a page (R191, R216): the line it wants, its privilege, the WAYMASK when the miss was taken (R179),
and the continuation the fill is for, with its event selectors then (R240, R241). -/
structure MissWait where
  cell : Nat
  va : Nat
  user : Bool
  mask : BitVec 16
  key : Key
  sel : Vector (BitVec 16) 16
  /-- the counter area of the record that asked, once it has exited: late credits are added there (R241) -/
  area : Option Nat
deriving DecidableEq, Repr

/-- A pending page miss of a die (R191): VF, page of 64 KiB, and the waiting cells, which join it. -/
structure Miss where
  die : Nat
  vf : Nat
  page : Nat
  waits : List MissWait
deriving DecidableEq, Repr

/-- Translation services (R190, R191). -/
structure Trans where
  vfs : List Vf
  acct : List VfAcct
  resident : List Nat
  tcache : List TEnt
  wcache : List WEnt
  misses : List Miss
  /-- the VF a die's walkers served last (R191) -/
  served : List (Nat × Nat)
deriving DecidableEq, Repr

/-! ### Copy engines -/

/-- One side of a copy command as resolved at push (R248-R250): a coordinate side names a core, a window and the window
offset of command byte 0; a global side the virtual address of command byte 0, which a plain pointer wraps modulo 2^63.
Command bytes from `lo` up to `hi` lie in bounds. -/
structure CopySide where
  coord : Bool
  plain : Bool
  core : Nat
  win : Nat
  base : Int
  lo : Int
  hi : Int
  /-- the pointer of command byte 0, as faults report it -/
  ptr : W64
deriving DecidableEq, Repr

/-- Where a copy command is (R247, R256): in its core's FIFO, in the hold list, running (taken from the hold list or not),
or ended with a slot that is not yet filled. -/
inductive CopyPlace where
  | fifo
  | hold
  | running (held : Bool)
  | done
deriving DecidableEq, Repr

/-- A translation made at the push of a copy command (R195): pages of 64 KiB, virtual and physical, the page its slot is named by
(R196), and the slot's generation. -/
structure Xlat where
  va : Nat
  pa : Nat
  tag : Nat
  gen : Nat
deriving DecidableEq, Repr

/-- One byte on its way through a copy engine: the value, poison, and at the start of a whole in-bounds source granule its
tag (R173, R181). -/
structure MoveByte where
  b : Byte
  bad : Bool
  gran : Option Bool
deriving DecidableEq, Repr

/-- A copy command (R248) with what was read at push (R105) and its progress (R251-R256). -/
structure CopyCmd where
  id : Nat
  core : Nat
  owner : Key
  /-- pushed by a service run of the owner (R353) -/
  svc : Bool
  user : Bool
  w2 : W64
  w3 : W64
  scope : Scope
  src : CopySide
  dst : CopySide
  /-- the landing ring of a PEER command: link and ring number -/
  peer : Option (Nat × Nat)
  /-- the storage address of the barrier object or ring header -/
  target : Nat
  sys : SysRegs
  /-- translations made at push (R195) -/
  xlats : List Xlat
  place : CopyPlace
  chunk : Nat
  /-- the chunk in progress, as read; none between chunks -/
  moving : Option (List MoveByte)
  /-- the ring slot claimed -/
  slot : Option Nat
  status : Nat
  badChunk : Nat
  carryTags : Bool
  /-- the byte counts of chunks moved and not yet credited to the barrier of a KIND 1 command, oldest first: earlier commands credit it
  first (R256) -/
  credit : List Nat
  /-- the counter area of the pusher's record, once the pusher has exited: late credits are added there (R241) -/
  area : Option Nat
deriving DecidableEq, Repr

/-- The copy engines (R252) and the landing rings published to peers (R392, R393). -/
structure Copies where
  cmds : List CopyCmd
  nextId : Nat
  /-- position of each engine's round robin: engine, queue last served, chunks left of its quantum -/
  drr : List (Nat × Nat × Nat)
  /-- filled slots not yet taken: header address, slot, scope of the command (R228, R259) -/
  filled : List (Nat × Nat × Scope)
  /-- ring number, VF, storage address of the header, link, allowed VFID -/
  rings : List (Nat × Nat × Nat × Nat × Nat)
  /-- slot a peer command has claimed: link, ring, sender VF, its command number, slot -/
  peerSlots : List (Nat × Nat × Nat × Nat × Nat)
deriving DecidableEq, Repr

/-- The matrix engine of a cell while it is owned (R268). -/
structure Engine where
  cell : Nat
  owner : Key
  core : Nat
  mx : MxState
deriving DecidableEq, Repr

/-! ### The apiary -/

/-- Control block of an episode's turn (R311). -/
structure CtlBlock where
  hdr : W64
  acts : Vector W64 6
  obsn : Nat
  reward : W32
  status : Nat
  obs : Vector W64 14
deriving DecidableEq, Repr

/-- The hart state of an episode (R300). -/
structure Hart where
  x : Vector W64 32
  f : Vector W64 32
  fcsr : BitVec 8
  pc : W64
  /-- the reservation of LR: the user address and the access size -/
  resv : Option (Nat × Nat)
  instret : W64
  cb : CtlBlock
  /-- the load of WAIT that returns at the next delivery: its destination -/
  waitRd : Option (Fin 32)
deriving DecidableEq, Repr

/-- The mailbox states of R309. -/
inductive MbState where
  | idle | starting | live | running
deriving DecidableEq, Repr

/-- An accepted or owed action: its pusher and its words (R304). -/
structure MbAction where
  owner : Key
  hdr : W64
  payload : List W64
deriving DecidableEq, Repr

/-- One step mailbox with its region's episode (R300, R303, R309, R404). -/
structure Mailbox where
  n : Nat
  vf : Option Nat
  state : MbState
  /-- the pusher of the action whose observation is owed, with the observation words left to pop once posted -/
  owed : Option Key
  /-- the action accepted and not yet delivered -/
  waiting : Option MbAction
  /-- the action of the turn in progress -/
  current : Option MbAction
  posted : Bool
  pendingEnd : Option Nat
  /-- the ending to post once the region is zeroed; the episode has ended -/
  zeroing : Option Nat
  minver : W32
  wdstep : BitVec 16
  wdtotal : BitVec 16
  image : Option (Nat × Nat × Nat)
  /-- WDSTEP and WDTOTAL as they stood at the delivery of the turn in progress (R305) -/
  limStep : BitVec 16
  limTotal : BitVec 16
  step : Nat
  turnStart : Nat
  used : Nat
  hart : Option Hart
deriving DecidableEq, Repr

/-- The apiary (R299-R316): mailboxes, and the episode each of the 64 cores runs. -/
structure Apiary where
  mboxes : List Mailbox
  cores : List (Nat × Nat)
  /-- deliveries waiting for a core, oldest first (R312) -/
  queue : List Nat
  lastVf : Nat
deriving DecidableEq, Repr

/-! ### Tables and scheduling -/

/-- A saved context (R320): the register save area at SAVEPTR of a VF, and the record it belongs to. -/
structure Image where
  vf : Nat
  saveptr : W64
  rva : Nat
  ctx : Ctx
deriving DecidableEq, Repr

/-- A group of a launch (R328): the copied bitmap, the count and the barrier pointer. -/
structure Group where
  bitmap : Nat
  count : Nat
  barrier : W64
deriving DecidableEq, Repr

/-- A live launch (R320, R325-R328). -/
structure Launch where
  id : Nat
  vf : Nat
  slot : Nat
  copy : List Byte
  groups : List Group
  /-- records of the launch not yet in STATE 6 -/
  live : Nat
deriving DecidableEq, Repr

/-- An event (R330). -/
structure EvEnt where
  vf : Nat
  name : Nat
  count : Nat
  latch : Bool
  waiters : List Nat
deriving DecidableEq, Repr

/-- A runnable record in a run queue (R338): VF, record, queue, whether it is carried (R340), and the GCYCLE value at which it
became runnable. -/
structure RqEnt where
  vf : Nat
  rva : Nat
  queue : Nat
  carried : Bool
  since : Nat
deriving DecidableEq, Repr

/-- Where a node stands in its rotation of slices (R337, R342). -/
inductive NodePhase where
  | idle
  /-- the VF's slice runs to this GCYCLE -/
  | slice (vf endAt : Nat)
  /-- stopping: T_stop -/
  | stopping (vf tstop : Nat)
  /-- flushed and saved; the next slice may start -/
  | stopped
deriving DecidableEq, Repr

/-- An active node of the buddy tree (R16, R337). -/
structure Node where
  num : Nat
  /-- slice-table entries: VF, length in units, valid -/
  slices : List (Nat × Nat × Bool)
  pos : Nat
  phase : NodePhase
  noticed : Bool
deriving DecidableEq, Repr

/-- Tables and scheduling (R320). -/
structure Sched where
  images : List Image
  launches : List Launch
  /-- launches are numbered from 1; 0 is that of a record of no launch -/
  nextLaunch : Nat
  events : List EvEnt
  runq : List RqEnt
  nodes : List Node
  /-- the core each pre-empted record left (R12) -/
  recCore : List (Key × Nat)
  /-- records that have never been dispatched (R341) -/
  fresh : List Key
deriving DecidableEq, Repr

/-! ### Power, host and boot -/

/-- A collective (R374): its number, member nodes, cadence, a pending change with its apply cycle, the chip links it
spans, and whether a sensor or the coolant forces it slower. -/
structure Coll where
  id : Nat
  nodes : List Nat
  cadence : Nat
  pending : Option (Nat × Nat)
  links : List Nat
deriving DecidableEq, Repr

/-- A cluster's clock and body bias (R380, R381); clocks as indices 0-4 of R11, bias in mV. -/
structure Cluster where
  id : Nat
  freq : Nat
  bias : Int
  stallr : BitVec 16
  /-- target frequency and bias of a change that is settling -/
  settling : Option (Nat × Int)
  /-- its clock, in eighths of a cycle, at the GCYCLE value `since`, from which it has run at `freq` -/
  cyc : Nat
  since : Nat
deriving DecidableEq, Repr

/-- A comb die's supply in mV and the voltage it is stepping to (R380, R381). -/
structure Supply where
  die : Nat
  mv : Nat
  target : Nat
deriving DecidableEq, Repr

/-- Power, current and thermal control (R372-R385). -/
structure Power where
  colls : List Coll
  clusters : List Cluster
  supplies : List Supply
  grant : Nat
  /-- the 1 ms interval in which a grant last arrived -/
  grantAt : Nat
  /-- trades: the interval from which each holds, whether inward, mJ -/
  trades : List (Nat × Bool × Nat)
  /-- the estimator's weights in pJ, by event code from 1 on, and their covariance; empty: the factory's (R377) -/
  weights : List Rat
  cov : List (List Rat)
  badFits : Nat
  goodFits : Nat
  measured : Nat
  /-- the last reading of each junction sensor, in °C (R383) -/
  temps : List (Nat × Nat)
  /-- nodes whose hottest junction reached 100 °C and has not fallen below 97 °C (R383) -/
  hot : List Nat
  /-- refresh step of each stack: 1 (double), 2 (quadruple), 3 (half bandwidth) (R385) -/
  refresh : List (Nat × Nat)
  saveRegion : Option (Nat × Nat)
  /-- contexts the emergency save has dealt with (R384) -/
  saved : Nat
  /-- the sensor calibrations that firmware has loaded (R397) -/
  calib : List Byte
  /-- the dies are off until the host restarts the package (R383, R384) -/
  off : Bool
deriving DecidableEq, Repr

/-- What board flash holds and the part's own tests answer at boot (R395-R397): input data (log 15). The image comes with
Lumyth's public key and its signature, the configuration record with firmware's key and its signature. -/
structure Flash where
  imagePresent : Bool
  image : List Byte
  key : List Byte
  imageSig : List Byte
  config : List Byte
  fwKey : List Byte
  configSig : List Byte
  /-- the helper data with which the PUF's key is reconstructed (R396) -/
  pufHelper : List Byte
  pufOk : Bool
  hbmOk : Bool
  remap : List (Nat × Nat × Nat × Nat)
  threshold : Nat
  fallback : Nat
  calib : List Byte
deriving DecidableEq, Repr

/-- The command area, status word and report of one endpoint's PF (R387, R390, R396). -/
structure PfArea where
  cmd : List Byte
  cmdStatus : W64
  report : List Byte
deriving DecidableEq, Repr

/-- PFSTAT and the command status word (R390), chip links (R394), board flash; `cmd`, `cmdStatus` and `report` are those of the PF
of endpoint 0, or of the endpoint whose command runs, `second` those of the other. -/
structure PfState where
  phase : Nat
  fail : Nat
  flow : Bool
  est : Bool
  save : Bool
  eff : Nat
  cmd : List Byte
  cmdStatus : W64
  linksDown : List Nat
  flash : Flash
  report : List Byte
  second : PfArea
deriving DecidableEq, Repr

/-- The state of the machine. `cur` is the core whose context stands in `ctx` while it acts; `live` says whether that
core runs a continuation; the contexts of the other running cores are in `parked`. -/
structure State where
  cur : Nat
  live : Bool
  ctx : Ctx
  parked : List (Nat × Ctx)
  mem : Memory
  fab : Fabric
  trans : Trans
  cp : Copies
  engines : List Engine
  /-- how often each cell's engine has been claimed -/
  claims : List (Nat × Nat)
  api : Apiary
  sch : Sched
  pow : Power
  pf : PfState
  gcycle : W64
  /-- the instruction being executed, zero-extended (R22); the model's own -/
  insn : W64
  /-- what the last pop row returned -/
  latch : W64
  /-- what the last host read returned -/
  hostLatch : List Byte
  schedule : List Turn
  turnNo : Nat
  freeNo : Nat
deriving DecidableEq, Repr

/-- Why the machine stops. -/
inductive Fault where
  /-- An access reached a physical address that R388 calls reserved. Raised by the memory operations of Ops; safe: no
  firmware-made translation reaches one. -/
  | reservedAddress (pa : Nat)
deriving DecidableEq, Repr

/-- Why an instruction has no meaning. -/
inductive Refusal where
  /-- The instruction is not modelled yet. Raised by an arm of `exec`; safe. -/
  | notModelled (mnemonic : String)
deriving DecidableEq, Repr

/-! ### Reset -/

def OlSet.zero : OlSet := ⟨Vector.replicate 8 0, Vector.replicate 4 0⟩

/-- The context of a core that runs nothing: registers at their thread-start values where the spec gives them (R95, R102),
zero elsewhere (log 3). -/
def Ctx.blank : Ctx where
  g := ⟨Vector.replicate 32 0, Vector.replicate 16 false, OlSet.zero, OlSet.zero, OlSet.zero, .prog⟩
  st := ⟨false, false, false, false, false, false, false, false⟩
  tr := ⟨0, 0, 0, 0, 0, 0, 0, 0, 0, false, none, 0, none, 0, false, [], none, 0⟩
  sys := ⟨0, 0xFFFFFFFF, 0, 0, 0, 0, 0, 0, 0, 0, 0, 0, 0, 0, 0, Vector.replicate 16 0, Vector.replicate 16 0⟩
  vec := ⟨Vector.replicate 32 (Vector.replicate 128 0), Vector.replicate 8 0, 16, 1, [], [], none⟩
  qs := ⟨[], [], 0, [], [], [], [], none, [], none, 0⟩
  pc := 0
  pcBad := false
  rng := 1
  la := []
  amo := none
  acks := []
  fences := []
  cmdScope := none
  engine := none
  info := ⟨none, 0, 0, 0, 0, 1, none⟩
  waitQ := false
  wfi := false
  halted := false

/-- The machine right after reset (R398: PHASE is 0 and nothing runs). -/
def State.reset : State where
  cur := 0
  live := false
  ctx := Ctx.blank
  parked := []
  mem := ⟨[], [], [], [], [], [], [], 0⟩
  fab := ⟨[], [], 0, [], [], [], [], [], [], [], [], [], [], [], [], [], 0, 0⟩
  trans := ⟨[], [], [], [], [], [], []⟩
  cp := ⟨[], 0, [], [], [], []⟩
  engines := []
  claims := []
  api := ⟨[], [], [], 0⟩
  sch := ⟨[], [], 1, [], [], [], [], []⟩
  pow := ⟨[], [], [], 0, 0, [], [], [], 0, 0, 0, [], [], [], none, 0, [], false⟩
  pf := ⟨0, 0, false, false, false, 0, [], 0, [], ⟨true, [], [], [], [], [], [], [], true, true, [], 32, 2800, []⟩, [],
    ⟨[], 0, []⟩⟩
  gcycle := 0
  insn := 0
  latch := 0
  hostLatch := []
  schedule := []
  turnNo := 0
  freeNo := 0

end Sys2Proof.Machine
end

