-- ==== Sys2Proof/Machine/Bytes.lean ====
section
/-!
DEFINITION. Memory as a canonical list of bytes, with tags, poison and check values (R2, R163, R173, R180), and the reads
and writes of R223, R224. One space of storage addresses holds physical addresses below 2^48, the scratchpads from 2^48
(256 KiB apart, one per core) and the episode regions from 2^52.
-/

namespace Sys2Proof.Machine

/-- First storage address of the scratchpads. -/
def scratchBase : Nat := 281474976710656

/-- First storage address of the episode regions. -/
def episodeBase : Nat := 4503599627370496

/-- The storage address of byte `b` of a core's scratchpad. -/
def scratchAddr (core b : Nat) : Nat := scratchBase + core * 262144 + b

/-- The core whose scratchpad holds a storage address. -/
def scratchCore (a : Nat) : Nat := (a - scratchBase) / 262144

/-- The byte within its scratchpad of a storage address. -/
def scratchByte (a : Nat) : Nat := (a - scratchBase) % 262144

/-- Replace `n` bits from bit `lo` of a number. -/
def setFld (w lo n v : Nat) : Nat := w - fld w lo n * 2 ^ lo + v % 2 ^ n * 2 ^ lo

def isGlobal (a : Nat) : Bool := decide (a < scratchBase)

/-- The byte at `a`; an unlisted address reads 0 (log 2). -/
def cellGet : List Host.Cell → Nat → Byte
  | [], _ => 0
  | (k, b) :: t, a => if a = k then b else if a < k then 0 else cellGet t a

/-- Set the byte at `a`, keeping addresses rising and no entry equal to 0. -/
def cellSet : List Host.Cell → Nat → Byte → List Host.Cell
  | [], a, b => if b = 0 then [] else [(a, b)]
  | (k, c) :: t, a, b =>
    if a = k then (if b = 0 then t else (a, b) :: t)
    else if a < k then (if b = 0 then (k, c) :: t else (a, b) :: (k, c) :: t)
    else (k, c) :: cellSet t a b

/-- The canonical form: addresses strictly rising above `lo`, no entry 0. -/
def cellsWfFrom : Nat → List Host.Cell → Bool
  | _, [] => true
  | lo, (k, b) :: t => decide (lo ≤ k) && decide (b ≠ 0) && cellsWfFrom (k + 1) t

/-- The canonical form of memory. -/
def Memory.wf (m : Memory) : Bool := cellsWfFrom 0 m.cells

/-- Set the bytes from `a` on. -/
def cellsSet : List Host.Cell → Nat → List Byte → List Host.Cell
  | m, _, [] => m
  | m, a, b :: bs => cellsSet (cellSet m a b) (a + 1) bs

/-- The free byte at `a`, when a range of the save engine covers it (log 6). -/
def veilByte : List (Nat × Nat × Nat) → Nat → Option Byte
  | [], _ => none
  | (b, n, k) :: t, a => if b ≤ a ∧ a < b + n then some (Config.saveByte k a) else veilByte t a

/-- Ranges with `n` bytes from `a` taken out. -/
def veilCut : List (Nat × Nat × Nat) → Nat → Nat → List (Nat × Nat × Nat)
  | [], _, _ => []
  | (b, m, k) :: t, a, n =>
    let rest := veilCut t a n
    if b + m ≤ a ∨ a + n ≤ b ∨ n = 0 then (b, m, k) :: rest
    else
      let front := if b < a then [(b, a - b, k)] else []
      let back := if a + n < b + m then [(a + n, b + m - (a + n), k)] else []
      front ++ back ++ rest

/-- The byte of memory at `a`. -/
def Memory.byte (m : Memory) (a : Nat) : Byte :=
  match veilByte m.veil a with
  | some b => b
  | none => cellGet m.cells a

/-- The bytes of `n` addresses from `a`. -/
def Memory.bytes (m : Memory) (a : Nat) : Nat → List Byte
  | 0 => []
  | n + 1 => m.byte a :: m.bytes (a + 1) n

/-- Insert into a rising list without repeats. -/
def setIns : List Nat → Nat → List Nat
  | [], a => [a]
  | k :: t, a => if a = k then k :: t else if a < k then a :: k :: t else k :: setIns t a

/-- Remove from a list. -/
def setDel (l : List Nat) (a : Nat) : List Nat := l.filter fun k => k != a

/-! ### Check values (R180): CRC-32C, reflected -/

/-- One bit of the reflected CRC. -/
def crcBit (c : W32) : W32 := if c.getLsbD 0 then (c >>> 1) ^^^ 0x82F63B78 else c >>> 1

def crcByte (c : W32) (b : Byte) : W32 :=
  let x := c ^^^ b.setWidth 32
  crcBit (crcBit (crcBit (crcBit (crcBit (crcBit (crcBit (crcBit x)))))))

/-- CRC-32C of a list of bytes. -/
def crc32c (bs : List Byte) : W32 := (bs.foldl crcByte 0xFFFFFFFF) ^^^ 0xFFFFFFFF

/-- The unit a byte's poison bit covers: a 64-byte line of global memory, an 8-byte word of a scratchpad (R180). -/
def poisonUnit (a : Nat) : Nat := if isGlobal a then a / 64 * 64 else a / 8 * 8

def poisonSize (a : Nat) : Nat := if isGlobal a then 64 else 8

/-- The stored check value of a line differs from the CRC of its bytes. -/
def Memory.lineBad (m : Memory) (line : Nat) : Bool :=
  match m.checks.find? (fun c => c.1 == line) with
  | some (_, v) => v != crc32c (m.bytes line 64)
  | none => false

/-- A byte is poisoned: its unit's poison bit is set, or its line fails its check (R180). -/
def Memory.poisoned (m : Memory) (a : Nat) : Bool :=
  m.poison.contains (poisonUnit a) || (isGlobal a && m.lineBad (a / 64 * 64))

/-- Any of `n` bytes is poisoned. -/
def Memory.anyPoison (m : Memory) (a n : Nat) : Bool := (List.range n).any fun i => m.poisoned (a + i)

/-- Set the poison bit of a byte's unit. -/
def Memory.setPoison (m : Memory) (a : Nat) : Memory := { m with poison := setIns m.poison (poisonUnit a) }

/-- The poison bits after a write of `n` bytes at `a`: a write of a whole unit clears its bit; a partial write into a unit
that fails its check sets it (R180). `k` units are looked at from unit `u`. -/
def poisonAfter (m : Memory) (a n : Nat) : Nat → Nat → List Nat → List Nat
  | 0, _, p => p
  | k + 1, u, p =>
    let whole := decide (a ≤ u ∧ u + poisonSize a ≤ a + n)
    let p' := if whole then setDel p u
      else if isGlobal a && m.lineBad u then setIns p u else p
    poisonAfter m a n k (u + poisonSize a) p'

/-- Clear the tags of the granules that `n` bytes at `a` touch (R173). -/
def tagsCleared (tags : List Nat) (a n : Nat) : List Nat :=
  if n = 0 then tags else tags.filter fun g => decide (g < a / 16) || decide ((a + n - 1) / 16 < g)

/-- Write bytes: tags of the granules cleared, check values made afresh, poison by R180. -/
def Memory.write (m : Memory) (a : Nat) (bs : List Byte) : Memory :=
  let n := bs.length
  let u := poisonUnit a
  let k := if n = 0 then 0 else (a + n - 1 - u) / poisonSize a + 1
  { m with
    cells := cellsSet m.cells a bs
    veil := veilCut m.veil a n
    tags := tagsCleared m.tags a n
    poison := poisonAfter m a n k u m.poison
    checks := m.checks.filter fun c => decide (c.1 + 64 ≤ a) || decide (a + n ≤ c.1) }

/-- The half bytes that one element write of a window touches: its first, and how many; a nibble touches one (R168). -/
def halvesOf (w : Nat) (hi : Bool) (a n : Nat) : Nat × Nat :=
  if w = 6 ∨ w = 8 then (2 * a + hi.toNat, 1) else (2 * a, 2 * n)

/-- Half-byte ranges that together cover the poison unit `u`. -/
def coversUnit (ws : List (Nat × Nat)) (u : Nat) : Bool :=
  (List.range (2 * poisonSize u)).all fun i => ws.any fun w => decide (w.1 ≤ 2 * u + i) && decide (2 * u + i < w.1 + w.2)

/-- One chunk of a copy writes many bytes: a unit that together they write whole is poisoned no more. The elements of a
vector store or an MSTORE are single writes (R158, R290), each of part of its unit (R180, log 29). -/
def Memory.cleanCovered (m : Memory) (ws : List (Nat × Nat)) : Memory :=
  if m.poison.isEmpty then m else { m with poison := m.poison.filter fun u => !coversUnit ws u }

/-- The tag of the granule that holds a storage byte. -/
def Memory.tag (m : Memory) (a : Nat) : Bool := m.tags.contains (a / 16)

/-- Set or clear the tag of a granule. -/
def Memory.setTag (m : Memory) (g : Nat) (b : Bool) : Memory :=
  { m with tags := if b then setIns m.tags g else setDel m.tags g }

/-- A checked read that meets a line whose check fails sets the line's poison bit (R180). -/
def Memory.noted (m : Memory) (a n : Nat) : Memory :=
  if m.checks.isEmpty then m
  else (List.range n).foldl (fun m i =>
    if isGlobal (a + i) && m.lineBad ((a + i) / 64 * 64) then m.setPoison (a + i) else m) m

/-! ### Which value a read returns (R223, R224) -/

/-- The die number under which the host reads. -/
def hostDie : Nat := 13

/-- The write has a byte among `n` from `a`. -/
def WriteMsg.touches (w : WriteMsg) (a n : Nat) : Bool := w.cells.any fun c => decide (a ≤ c.addr ∧ c.addr < a + n)

/-- The write has a byte in a line of `n` bytes from `a`. -/
def WriteMsg.onLines (w : WriteMsg) (a n : Nat) : Bool :=
  w.cells.any fun c => decide (a / 64 ≤ c.addr / 64 ∧ c.addr / 64 ≤ (a + n - 1) / 64)

/-- The agents of a die hold the write's value of a line: it is their die's, or they have read it there. -/
def WriteMsg.freshOn (w : WriteMsg) (die line : Nat) : Bool :=
  w.die == die || w.cells.any fun c => c.addr / 64 == line && c.seen.contains die

/-- The agents of a die have read the write, or a later one, at one of `n` bytes from `a`. -/
def WriteMsg.seenBy (w : WriteMsg) (die a n : Nat) : Bool :=
  w.cells.any fun c => decide (a ≤ c.addr ∧ c.addr < a + n) && c.seen.contains die

/-- The die is marked at the bytes read. -/
def WriteMsg.mark (w : WriteMsg) (die a n : Nat) : WriteMsg :=
  { w with cells := w.cells.map fun c => if a ≤ c.addr ∧ c.addr < a + n then { c with seen := setIns c.seen die } else c }

/-- The continuation's later releases cover a write of its die that is not yet performed at package scope (R227). -/
def WriteMsg.cover (w : WriteMsg) (die : Nat) (k : Option Key) : WriteMsg :=
  match k with
  | some k => if w.die == die && w.performedAt.isNone && !w.covers.contains k then { w with covers := k :: w.covers } else w
  | none => w

/-- Read number `r` by an agent of `die` at time `now` returns the write at `n` bytes from `a`: it is its own die's, or
was read before, or is performed and not under the allowance; the host has no allowance, and may read a write before it is
performed (R224, R229). -/
def WriteMsg.shows (w : WriteMsg) (die now r a n : Nat) : Bool :=
  w.die == die || w.seenBy die a n ||
    (match w.performedAt with
     | some t => die == hostDie || decide (t + 1250 ≤ now) || !Config.stale r w.id
     | none => die == hostDie && !Config.stale r w.id)

/-- A byte as it stood before some writes, given newest first. -/
def byteUnder (ws : List WriteMsg) (x : Nat) (v : Byte) : Byte :=
  ws.foldl (fun v w => match w.cells.find? (fun c => c.addr == x) with
    | some c => c.old
    | none => v) v

/-- A granule's tag as it stood before some writes. -/
def tagUnder (ws : List WriteMsg) (g : Nat) (t : Bool) : Bool :=
  ws.foldl (fun t w => match w.tags.find? (fun c => c.1 == g) with
    | some c => c.2
    | none => t) t

/-- One single-copy atomic read of at most 16 bytes (R200, R223): its place in coherence order is right after the newest
write to its bytes that it returns, so that it returns every older one too. The bytes, and the tag of their granule. -/
def Memory.readAtom (m : Memory) (die now r : Nat) (k : Option Key) (a n : Nat) : List Byte × Bool × Memory :=
  let sp := m.msgs.span fun w => !(w.touches a n && w.shows die now r a n)
  let newer := sp.1.filter fun w => w.touches a n
  ((List.range n).map fun i => byteUnder newer (a + i) (m.byte (a + i)), tagUnder newer (a / 16) (m.tag a),
    { m with msgs := sp.1 ++ sp.2.map fun w => if w.touches a n then (w.mark die a n).cover die k else w })

/-- The pieces of a range that lie in one granule each. -/
def granules (a n : Nat) : List (Nat × Nat) :=
  (List.range (n / 16 + 2)).filterMap fun i =>
    let lo := Nat.max a ((a / 16 + i) * 16)
    let hi := Nat.min (a + n) ((a / 16 + i + 1) * 16)
    if lo < hi then some (lo, hi - lo) else none

/-- The bytes an agent of comb die `die` reads (R224), one atomic read for each granule. -/
def Memory.readVis (m : Memory) (die now r : Nat) (k : Option Key) (a n : Nat) : List Byte × Memory :=
  if m.msgs.isEmpty then (m.bytes a n, m)
  else (granules a n).foldl (fun acc p =>
    let x := acc.2.readAtom die now r k p.1 p.2
    (acc.1 ++ x.1, x.2.2)) ([], m)

/-- Bytes leave the writes on their way: no older value of them can be read any more. -/
def msgsCut (ms : List WriteMsg) (a n : Nat) : List WriteMsg :=
  (ms.map fun w => { w with
    cells := w.cells.filter fun c => decide (c.addr < a) || decide (a + n ≤ c.addr)
    tags := w.tags.filter fun c => decide (c.1 * 16 + 16 ≤ a) || decide (a + n ≤ c.1 * 16) }).filter
      fun w => !w.cells.isEmpty

/-- Writes on the lines of `n` bytes from `a` are performed at package scope when an agent for which they were not yet
visible takes one of the lines (R224, log 10). -/
def Memory.performLines (m : Memory) (p : WriteMsg → Bool) (now a n : Nat) : Memory :=
  { m with msgs := m.msgs.map fun w =>
      if w.performedAt.isNone && p w && w.onLines a n then { w with performedAt := some now } else w }

/-- A write becomes performed at package scope at a time, and with it the earlier writes on its lines. -/
def performId (id now : Nat) : List WriteMsg → List WriteMsg
  | [] => []
  | w :: ws =>
    if w.id = id then
      let on := fun (x : WriteMsg) => w.cells.any fun c => x.onLines c.addr 1
      (w :: ws).map fun x => if x.performedAt.isNone && (x.id == id || on x) then { x with performedAt := some now } else x
    else w :: performId id now ws

def Memory.perform (m : Memory) (id now : Nat) : Memory := { m with msgs := performId id now m.msgs }

/-- A write of whole granules, or to storage that no write is on its way to (a scratchpad): no older value of its bytes can be
read afterwards. -/
def Memory.writeAll (m : Memory) (a : Nat) (bs : List Byte) : Memory :=
  { m.write a bs with msgs := msgsCut m.msgs a bs.length }

/-- Who makes a write: its number, its core and die, the continuation, the one whose releases cover it, the pointer that names the
bytes, and whether a copy engine makes it. -/
structure Writer where
  id : Nat
  core : Nat
  die : Nat
  owner : Option Key
  cover : Option Key
  ea : W64
  copy : Bool
deriving DecidableEq, Repr

/-- The entry of a write of `n` bytes at `a`, which the agents of some dies see. -/
def Memory.entry (m : Memory) (w : Writer) (seen : List Nat) (performed : Option Nat) (a n : Nat) : WriteMsg :=
  let old := (List.range n).map fun i => (⟨a + i, m.byte (a + i), seen⟩ : MsgCell)
  let tags := if n = 0 then [] else (List.range ((a + n - 1) / 16 - a / 16 + 1)).map fun i => (a / 16 + i, m.tag (a + 16 * i))
  ⟨w.id, w.core, w.die, old, tags, performed, w.cover.toList, w.owner, w.ea, w.copy⟩

/-- A G = 0 write of a core of die `die` to global memory: visible on its die at once, elsewhere by R224. -/
def Memory.writeFwd (m : Memory) (w : Writer) (a : Nat) (bs : List Byte) : Memory :=
  { m.write a bs with msgs := m.entry w [] none a bs.length :: m.msgs }

/-- A write that every agent sees at once (a G = 1 write, an engine of the hive die). An atomic read that returns it comes after
every older write of the bytes it reads (R223): where one of its granules has an older write that some die may not see, it
keeps an entry that every die has seen. -/
def Memory.writeSeen (m : Memory) (now : Nat) (w : Writer) (a : Nat) (bs : List Byte) : Memory :=
  let n := bs.length
  let near := m.msgs.any fun x => x.cells.any fun c => decide (a / 16 ≤ c.addr / 16 ∧ c.addr / 16 ≤ (a + n - 1) / 16)
  { m.write a bs with
    msgs := if near then m.entry w (List.range 14) (some now) a n :: m.msgs else m.msgs }

/-- A write with the visibility its G field and place give it. Before it takes its place, earlier writes on its lines are
performed: all of them for a G = 1 write, those of other dies for a G = 0 write. -/
def Memory.writeBy (m : Memory) (now : Nat) (w : Writer) (g : Bool) (a : Nat) (bs : List Byte) : Memory :=
  if !isGlobal a then m.writeAll a bs
  else if g then (m.performLines (fun _ => true) now a bs.length).writeSeen now w a bs
  else (m.performLines (fun x => x.die != w.die) now a bs.length).writeFwd w a bs

/-- After a drain of an agent of `die`, it reads no value older than a write performed at package scope (R225). -/
def Memory.drain (m : Memory) (die : Nat) : Memory :=
  { m with msgs := m.msgs.map fun w =>
      if w.performedAt.isSome then { w with cells := w.cells.map fun c => { c with seen := setIns c.seen die } } else w }

/-- What a continuation has acquired, its later releases cover (R227): every write of its die so far (log 9). -/
def Memory.coverAll (m : Memory) (die : Nat) (k : Option Key) : Memory :=
  { m with msgs := m.msgs.map fun w => w.cover die k }

/-- Bit `j` of window-14 byte values: write the tags of the granules of `bs` from tag index `g` on (R168, R173). -/
def tagBitsSet (m : Memory) (g : Nat) : List Byte → Memory
  | [] => m
  | b :: bs =>
    let m' := (List.range 8).foldl (fun m j => m.setTag (g + j) (b.getLsbD j)) m
    tagBitsSet m' (g + 8) bs

/-- The window-14 byte of the eight granules from `g` on. -/
def tagByte (m : Memory) (g : Nat) : Byte :=
  (List.range 8).foldl (fun v j => if m.tags.contains (g + j) then v ||| (1 <<< j) else v) 0

end Sys2Proof.Machine
end

