-- ==== Sys2Proof/Machine/Geometry.lean ====
section
/-!
DEFINITION. Partitions, frames, remap, homes and distances (R16, R18, R166-R168, R174, R199, R232-R234).
A core is numbered cell * 4 + rank, a cell die * 256 + y * 16 + x, with y and x physical before remap.
Distances are in units of 0.25 mm, so a byte's charge over a path of q units is 8 * q qbmm.
-/

namespace Sys2Proof.Machine

/-- The corner and shape of a node of the buddy tree: die, dies, x, y, width, height (R16). -/
structure Frame where
  die : Nat
  dies : Nat
  x : Nat
  y : Nat
  w : Nat
  h : Nat
deriving DecidableEq, Repr

/-- Halve a rectangle of one die, `k` times, by the bits of `i` from bit `k - 1` down, in y first when `inY`. -/
def halve : Nat → Bool → Nat → Frame → Frame
  | 0, _, _, f => f
  | k + 1, inY, i, f =>
    let up := bitAt i k
    let f' := if inY then { f with h := f.h / 2, y := if up then f.y + f.h / 2 else f.y }
      else { f with w := f.w / 2, x := if up then f.x + f.w / 2 else f.x }
    halve k (!inY) i f'

/-- The frame of a node. Nodes are numbered level by level from the root, 0, lower halves first (log 17). -/
def nodeFrame (num : Nat) : Frame :=
  let depth := (num + 1).log2
  let i := num + 1 - 2 ^ depth
  if depth ≤ 3 then ⟨i * 2 ^ (3 - depth), 2 ^ (3 - depth), 0, 0, 16, 16⟩
  else halve (depth - 3) true (i % 2 ^ (depth - 3)) ⟨i / 2 ^ (depth - 3), 1, 0, 0, 16, 16⟩

/-- Logical coordinates inside a frame (R18). -/
def Frame.holds (f : Frame) (d y x : Nat) : Bool :=
  decide (d < f.dies) && decide (y < f.h) && decide (x < f.w)

/-- The cell of logical coordinates (R167 step 1). -/
def Frame.cell (f : Frame) (d y x : Nat) : Nat := (f.die + d) * 256 + (f.y + y) * 16 + (f.x + x)

/-- Whether a cell lies in a frame. -/
def Frame.hasCell (f : Frame) (c : Nat) : Bool :=
  let d := c / 256
  let y := c / 16 % 16
  let x := c % 16
  decide (f.die ≤ d ∧ d < f.die + f.dies ∧ f.y ≤ y ∧ y < f.y + f.h ∧ f.x ≤ x ∧ x < f.x + f.w)

/-- The cells of a frame, in ascending order. -/
def Frame.cells (f : Frame) : List Nat := (List.range 2048).filter f.hasCell

def cellOf (core : Nat) : Nat := core / 4
def rankOf (core : Nat) : Nat := core % 4
def dieOf (core : Nat) : Nat := core / 1024
def clusterOf (cell : Nat) : Nat := cell / 256 * 16 + cell / 64 % 4 * 4 + cell % 16 / 4

/-- The logical coordinates of a cell in a frame: die, y, x (R18). -/
def Frame.coords (f : Frame) (c : Nat) : Nat × Nat × Nat := (c / 256 - f.die, c / 16 % 16 - f.y, c % 16 - f.x)

/-- Bits 36:24 of a coordinate pointer: die, y, x, rank (R113). -/
def coordBits (d y x r : Nat) : Nat := d * 1024 + y * 64 + x * 4 + r

/-- The physical position of a cell after the remap list (R167 step 2): x, y. -/
def physPos (s : State) (c : Nat) : Nat × Nat :=
  match s.fab.remap.find? (fun e => e.1 == c / 256 && e.2.1 == c % 16 && e.2.2.1 == c / 16 % 16) with
  | some (_, _, _, sx) => (sx, 16)
  | none => (c % 16, c / 16 % 16)

/-- The home of a byte (R232). -/
inductive Home where
  | core (c : Nat)
  | stack (k : Nat)
  | hive
deriving DecidableEq, Repr

/-- The home of a storage address: the owning core, the stack PA[14:12], or the hive die for host memory and the
episode regions (R165, R198, R388). -/
def homeOf (a : Nat) : Home :=
  if isGlobal a then (if a < 140737488355328 then .stack (a / 4096 % 8) else .hive)
  else if a < episodeBase then .core (scratchCore a) else .hive

/-- A physical address R388 calls reserved. -/
def reservedPa (a : Nat) : Bool := decide (512000000000 ≤ a ∧ a < 140737488355328)

def absDiff (a b : Nat) : Nat := if a ≤ b then b - a else a - b

/-- The leg of a home toward the hive die (R233). -/
def leg (s : State) : Home → Nat
  | .core c => let p := physPos s (cellOf c); absDiff (2 * p.1) 15 * 3 + (p.2 + 1) * 5
  | .stack k => if k % 2 = 0 then 8 else 24
  | .hive => 0

/-- The die of a home in TDMASK order: comb dies 0-7, store dies 8-11, the hive die 12 (R199). -/
def Home.die : Home → Nat
  | .core c => dieOf c
  | .stack k => 8 + k / 2
  | .hive => 12

/-- The path length between two homes (R233): the first row that applies. -/
def pathLen (s : State) (a b : Home) : Nat :=
  if a = b then 0
  else match a, b with
    | .hive, _ => leg s b + 32
    | _, .hive => leg s a + 32
    | .core c, .core d =>
      if cellOf c = cellOf d then 2
      else if dieOf c = dieOf d then
        let p := physPos s (cellOf c)
        let q := physPos s (cellOf d)
        absDiff p.1 q.1 * 6 + absDiff p.2 q.2 * 5
      else leg s a + 64 + leg s b
    | .stack j, .stack k => if j / 2 = k / 2 then 16 else leg s a + 64 + leg s b
    | _, _ => leg s a + 64 + leg s b

/-- The charge of `n` bytes over the path between two homes (R234). -/
def chargeOf (s : State) (a b : Home) (n : Nat) : Nat := n * 8 * pathLen s a b

/-- The flits of `n` bytes between two homes, by the route taken (R240, log 18); nothing travels where the path is 0. -/
def flits (s : State) (a b : Home) (n : Nat) : Nat :=
  let l := pathLen s a b
  if l = 0 then 0 else Config.flitBits n * (l + Config.detour l s.turnNo)

/-- The dies whose loss could lose an access to home `h` by a core of comb die `d` (R199). -/
def diesOf (d : Nat) (h : Home) : BitVec 13 :=
  let b : BitVec 13 := BitVec.ofNat 13 (2 ^ h.die)
  if h.die = d then b else b ||| 0x1000

/-! ### Virtual functions -/

def Trans.vf? (t : Trans) (v : Nat) : Option Vf := t.vfs.find? fun f => f.id == v
def Trans.acct? (t : Trans) (v : Nat) : Option VfAcct := t.acct.find? fun f => f.id == v

def setVf (s : State) (v : Nat) (f : Vf → Vf) : State :=
  { s with trans := { s.trans with vfs := s.trans.vfs.map fun x => if x.id == v then f x else x } }

def setAcct (s : State) (v : Nat) (f : VfAcct → VfAcct) : State :=
  { s with trans := { s.trans with acct := s.trans.acct.map fun x => if x.id == v then f x else x } }

/-- The frame a VF runs in; a VF that does not exist has an empty one. -/
def vfFrame (s : State) (v : Nat) : Frame :=
  match s.trans.vf? v with
  | some f => nodeFrame f.node
  | none => ⟨0, 0, 0, 0, 0, 0⟩

/-- Whether a scratchpad page belongs to a VF (R164): on a node with one VF, every page does. -/
def ownsPage (s : State) (v core page : Nat) : Bool :=
  match s.trans.vf? v with
  | none => false
  | some f =>
    if (s.trans.vfs.filter fun x => x.node == f.node).length ≤ 1 then true
    else s.fab.pageOwner.any fun e => e.1 == core && e.2.1 == page && e.2.2 == v

def tombOf (s : State) (core page : Nat) : Option Tomb :=
  s.fab.tombs.find? fun t => t.core == core && t.page == page

def pageLost (s : State) (core page : Nat) : Bool := s.fab.lostPages.contains (core, page)

def dieLost (s : State) (d : Nat) : Bool := s.fab.lost.getLsbD d

/-- Where a storage byte of a scratchpad is now: forwarded to the new place when its page was relocated (R176). -/
def forward (s : State) (a : Nat) : Nat :=
  if isGlobal a || decide (episodeBase ≤ a) then a
  else
    let c := scratchCore a
    let b := scratchByte a
    match tombOf s c (b / 4096) with
    | some t => scratchAddr t.newCore (t.newPage * 4096 + b % 4096)
    | none => a

/-- The VF of the acting continuation. -/
def State.vfid (s : State) : Nat := s.ctx.sys.vfid

/-- The current SCOPECAP of the acting VF (R102). -/
def State.scopecap (s : State) : Scope :=
  match s.trans.vf? s.vfid with
  | some f => f.scopecap
  | none => .sys

/-- The frame coordinates of the acting core. -/
def selfCoords (s : State) : Nat × Nat × Nat := (vfFrame s s.vfid).coords (cellOf s.cur)

/-- GCYCLE as a number. -/
def State.now (s : State) : Nat := s.gcycle.toNat

end Sys2Proof.Machine
end

