-- ==== Sys2Proof/Machine/SoftFloat.lean ====
section
/-!
DEFINITION. IEEE 754 arithmetic on exact numbers (R74-R77, R119, R122-R125): every operation forms the exact
value as a sign, a natural number and a power of two, and rounds once.
-/

namespace Sys2Proof.Machine

/-- A binary floating-point format: exponent bits and fraction bits (R69). -/
structure Fmt where
  eb : Nat
  mb : Nat
deriving DecidableEq, Repr

def fp32 : Fmt := ⟨8, 23⟩
def fp16 : Fmt := ⟨5, 10⟩
def bf16 : Fmt := ⟨8, 7⟩
/-- binary64, used by the environment cores only (R299). -/
def fp64 : Fmt := ⟨11, 52⟩

def Fmt.bias (f : Fmt) : Int := 2 ^ (f.eb - 1) - 1
/-- The exponent of the smallest normal number. -/
def Fmt.emin (f : Fmt) : Int := 1 - f.bias
def Fmt.signBit (f : Fmt) : Nat := 2 ^ (f.eb + f.mb)
def Fmt.infBits (f : Fmt) : Nat := (2 ^ f.eb - 1) * 2 ^ f.mb
/-- The canonical NaN (R74). -/
def Fmt.qnan (f : Fmt) : Nat := f.infBits + 2 ^ (f.mb - 1)
def Fmt.maxBits (f : Fmt) : Nat := f.infBits - 1

/-- The sticky flags, in the bit order of FSTAT (R78): NV 16, DZ 8, OF 4, UF 2, NX 1. -/
abbrev FFlags := BitVec 5
def fNV : FFlags := 16
def fDZ : FFlags := 8
def fOF : FFlags := 4
def fUF : FFlags := 2
def fNX : FFlags := 1

/-- A floating-point value: a NaN, an infinity, or exactly (-1)^s * m * 2^e. -/
inductive Fp where
  | nan (signalling : Bool)
  | inf (s : Bool)
  | num (s : Bool) (m : Nat) (e : Int)
deriving DecidableEq, Repr

/-- The value of a pattern in format `f`. -/
def unpack (f : Fmt) (n : Nat) : Fp :=
  let s := bitAt n (f.eb + f.mb)
  let e := fld n f.mb f.eb
  let m := fld n 0 f.mb
  if e = 2 ^ f.eb - 1 then
    if m = 0 then .inf s else .nan (!bitAt m (f.mb - 1))
  else if e = 0 then .num s m (f.emin - f.mb)
  else .num s (2 ^ f.mb + m) ((e : Int) - f.bias - f.mb)

/-- The value of a pattern whose subnormals are flushed to zero of the same sign (R77). -/
def unpackFlush (f : Fmt) (n : Nat) : Fp :=
  if fld n f.mb f.eb = 0 then .num (bitAt n (f.eb + f.mb)) 0 (f.emin - f.mb) else unpack f n

/-- A result with a subnormal pattern flushed to zero of the same sign (R77). -/
def flushBits (f : Fmt) (n : Nat) : Nat :=
  if fld n f.mb f.eb = 0 then (if bitAt n (f.eb + f.mb) then f.signBit else 0) else n

/-- Rounding modes; the K9's own instructions use nearest-even only (R75), the environment cores all five. -/
inductive RMode where
  | rne | rtz | rdn | rup | rmm
deriving DecidableEq, Repr

/-- Whether the discarded part makes the magnitude `q` round up: `r` of `2^k`, then `sticky`. -/
def roundUp (rm : RMode) (s : Bool) (q r k : Nat) (sticky : Bool) : Bool :=
  let half := 2 ^ k
  let inexact := r != 0 || sticky
  match rm with
  | .rne => decide (half < 2 * r) || (decide (half = 2 * r) && (sticky || q % 2 == 1))
  | .rtz => false
  | .rdn => s && inexact
  | .rup => !s && inexact
  | .rmm => decide (half ≤ 2 * r)

/-- `m * 2^e` (plus a positive amount below `2^e` when `sticky`) rounded to a multiple of `2^q`:
the multiple and whether it differs. `m` is long enough that `q > e` when `sticky` is set. -/
def roundAt (rm : RMode) (s : Bool) (m : Nat) (e : Int) (sticky : Bool) (q : Int) : Nat × Bool :=
  if q ≤ e then (m * 2 ^ (e - q).toNat, sticky)
  else
    let k := (q - e).toNat
    let hi := m / 2 ^ k
    let lo := m % 2 ^ k
    (if roundUp rm s hi lo k sticky then hi + 1 else hi, lo != 0 || sticky)

/-- The result of an overflow: infinity, or the largest finite number in the directed modes. -/
def overflowBits (f : Fmt) (rm : RMode) (s : Bool) : Nat :=
  let toInf := match rm with
    | .rne => true | .rmm => true | .rtz => false | .rdn => s | .rup => !s
  (if s then f.signBit else 0) + (if toInf then f.infBits else f.maxBits)

/-- Round an exact non-negative magnitude into format `f` (R75): the pattern and the flags. -/
def roundPack (f : Fmt) (rm : RMode) (s : Bool) (m : Nat) (e : Int) (sticky : Bool) : Nat × FFlags :=
  let sb := if s then f.signBit else 0
  if m = 0 then (sb, if sticky then fUF ||| fNX else 0)
  else
    let top : Int := (m.log2 : Int) + e
    let qn := top - f.mb
    let q := max qn (f.emin - f.mb)
    let (v, nx) := roundAt rm s m e sticky q
    -- v * 2^q is the delivered magnitude; its exponent field grows with a carry out of the fraction
    let bits := if q = f.emin - f.mb then v else (q + f.bias + f.mb - 1).toNat * 2 ^ f.mb + v
    if f.infBits ≤ bits then (overflowBits f rm s, fOF ||| fNX)
    else
      let (u, _) := roundAt rm s m e sticky qn
      let tiny := if qn < f.emin - f.mb then
          decide (u < 2 ^ ((f.emin - qn).toNat)) else false
      (sb + bits, if nx then (if tiny then fUF ||| fNX else fNX) else 0)

def fpIsSnan : Fp → Bool
  | .nan s => s
  | _ => false

def nvIf (b : Bool) : FFlags := if b then fNV else 0

/-- A value packed into format `f`. -/
def packFp (f : Fmt) (rm : RMode) : Fp → Nat × FFlags
  | .nan sig => (f.qnan, nvIf sig)
  | .inf s => ((if s then f.signBit else 0) + f.infBits, 0)
  | .num s m e => roundPack f rm s m e false

/-- The signed integer multiple of `2^q` a number stands for, for `q` at most its exponent. -/
def scaled (s : Bool) (m : Nat) (e q : Int) : Int :=
  let v : Int := m * 2 ^ (e - q).toNat
  if s then -v else v

/-- The exact sum of two numbers; an exact zero is +0 unless both are -0 (or rounding is downward). -/
def addNum (rm : RMode) (sa : Bool) (ma : Nat) (ea : Int) (sb : Bool) (mb : Nat) (eb : Int) : Fp :=
  let q := min ea eb
  let v := scaled sa ma ea q + scaled sb mb eb q
  if v = 0 then
    .num (if sa == sb && ma == 0 && mb == 0 then sa else decide (rm = .rdn)) 0 q
  else .num (decide (v < 0)) v.natAbs q

/-- Addition on values, with the invalid-operation flag. -/
def addFp (rm : RMode) (a b : Fp) : Fp × FFlags :=
  match a, b with
  | .nan x, y => (.nan false, nvIf (x || fpIsSnan y))
  | x, .nan y => (.nan false, nvIf (y || fpIsSnan x))
  | .inf s, .inf t => if s == t then (.inf s, 0) else (.nan false, fNV)
  | .inf s, .num _ _ _ => (.inf s, 0)
  | .num _ _ _, .inf s => (.inf s, 0)
  | .num sa ma ea, .num sb mb eb => (addNum rm sa ma ea sb mb eb, 0)

def negFp : Fp → Fp
  | .nan s => .nan s
  | .inf s => .inf (!s)
  | .num s m e => .num (!s) m e

/-- Multiplication on values: exact. -/
def mulFp (a b : Fp) : Fp × FFlags :=
  match a, b with
  | .nan x, y => (.nan false, nvIf (x || fpIsSnan y))
  | x, .nan y => (.nan false, nvIf (y || fpIsSnan x))
  | .inf s, .inf t => (.inf (s != t), 0)
  | .inf s, .num t m _ => if m = 0 then (.nan false, fNV) else (.inf (s != t), 0)
  | .num t m _, .inf s => if m = 0 then (.nan false, fNV) else (.inf (s != t), 0)
  | .num sa ma ea, .num sb mb eb => (.num (sa != sb) (ma * mb) (ea + eb), 0)

/-- a * b + c on values (R125): infinity times zero is invalid whatever c holds. -/
def fmaFp (rm : RMode) (a b c : Fp) : Fp × FFlags :=
  let infZero := match a, b with
    | .inf _, .num _ m _ => m == 0
    | .num _ m _, .inf _ => m == 0
    | _, _ => false
  if infZero then (.nan false, fNV)
  else
    let nv := fpIsSnan a || fpIsSnan b || fpIsSnan c
    let anyNan := match a, b, c with
      | .nan _, _, _ => true
      | _, .nan _, _ => true
      | _, _, .nan _ => true
      | _, _, _ => false
    if anyNan then (.nan false, nvIf nv)
    else addFp rm (mulFp a b).1 c

/-- Pack a value together with flags raised before rounding. -/
def finishFp (f : Fmt) (rm : RMode) (r : Fp × FFlags) : Nat × FFlags :=
  let (v, fl) := packFp f rm r.1
  (v, fl ||| r.2)

/-- Division (R119): finite non-zero by zero is infinity with DZ; 0/0 and infinity/infinity are invalid. -/
def divBits (f : Fmt) (rm : RMode) (a b : Fp) : Nat × FFlags :=
  match a, b with
  | .nan x, y => (f.qnan, nvIf (x || fpIsSnan y))
  | x, .nan y => (f.qnan, nvIf (y || fpIsSnan x))
  | .inf _, .inf _ => (f.qnan, fNV)
  | .inf s, .num t _ _ => packFp f rm (.inf (s != t))
  | .num s _ _, .inf t => packFp f rm (.num (s != t) 0 0)
  | .num s ma ea, .num t mb eb =>
    if mb = 0 then
      if ma = 0 then (f.qnan, fNV)
      else ((packFp f rm (.inf (s != t))).1, fDZ)
    else
      let k := mb.log2 + f.mb + 4
      let n := ma * 2 ^ k
      if ma = 0 then packFp f rm (.num (s != t) 0 0)
      else roundPack f rm (s != t) (n / mb) (ea - eb - k) (n % mb != 0)

/-- The integer square root, one binary digit a step: `r` is the root found so far of the digits above. -/
def isqrtLoop : Nat → Nat → Nat → Nat
  | 0, _, r => r
  | k + 1, n, r =>
    let c := 2 * r + 1
    isqrtLoop k n (if c * c ≤ n / 4 ^ k then c else 2 * r)

/-- The integer square root of `n`. -/
def isqrt (n : Nat) : Nat := isqrtLoop (n.log2 / 2 + 1) n 0

/-- Square root (R119). -/
def sqrtBits (f : Fmt) (rm : RMode) (a : Fp) : Nat × FFlags :=
  match a with
  | .nan x => (f.qnan, nvIf x)
  | .inf s => if s then (f.qnan, fNV) else (f.infBits, 0)
  | .num s m e =>
    if m = 0 then packFp f rm (.num s 0 0)
    else if s then (f.qnan, fNV)
    else
      -- make the exponent even and the radicand long enough
      let k := 2 * (f.mb + 4) + (if e % 2 = 0 then 0 else 1)
      let n := m * 2 ^ k
      let r := isqrt n
      roundPack f rm false r ((e - k) / 2) (r * r != n)

/-- How two values compare: none when either is a NaN. -/
def cmpFp (a b : Fp) : Option Ordering :=
  match a, b with
  | .nan _, _ => none
  | _, .nan _ => none
  | .inf s, .inf t => some (if s == t then .eq else if s then .lt else .gt)
  | .inf s, .num _ _ _ => some (if s then .lt else .gt)
  | .num _ _ _, .inf t => some (if t then .gt else .lt)
  | .num sa ma ea, .num sb mb eb =>
    let q := min ea eb
    some (compare (scaled sa ma ea q) (scaled sb mb eb q))

/-- Sign of a value, false for a NaN. -/
def signFp : Fp → Bool
  | .nan _ => false
  | .inf s => s
  | .num s _ _ => s

/-- Whether a value counts as smaller for FMIN and FMAX: -0 is less than +0 (R123). -/
def lessFp (a b : Fp) : Bool :=
  match cmpFp a b with
  | some .lt => true
  | some .eq => signFp a && !signFp b
  | _ => false

/-- FMIN (or FMAX) of two patterns of format `f` (R123). -/
def minMaxBits (f : Fmt) (isMax : Bool) (a b : Nat) (ua ub : Fp) : Nat × FFlags :=
  let nv := nvIf (fpIsSnan ua || fpIsSnan ub)
  match ua, ub with
  | .nan _, .nan _ => (f.qnan, nv)
  | .nan _, _ => (b, nv)
  | _, .nan _ => (a, nv)
  | _, _ => (if lessFp ua ub != isMax then a else b, nv)

/-- The integer part of a magnitude, rounded in mode `rm`, and whether anything was lost. -/
def toIntMag (rm : RMode) (s : Bool) (m : Nat) (e : Int) : Nat × Bool := roundAt rm s m e false 0

/-- Conversion to an integer of the range `lo..hi` (R76): NaN gives `nanV`, out of range saturates with NV. The rounded value decides
what is in range, so that a value in (-1, 0) that rounds to 0 is inexact (log 90). -/
def toIntFp (rm : RMode) (lo hi nanV : Int) (a : Fp) : Int × FFlags :=
  match a with
  | .nan _ => (nanV, fNV)
  | .inf s => (if s then lo else hi, fNV)
  | .num s m e =>
    let (v, nx) := toIntMag rm s m e
    let i : Int := if s then -(v : Int) else v
    if hi < i then (hi, fNV) else if i < lo then (lo, fNV) else (i, if nx then fNX else 0)

/-- The value of an integer. -/
def intFp (i : Int) : Fp := .num (decide (i < 0)) i.natAbs 0

/-- The class mask of a pattern (R124), in the bit order of FCLASS. -/
def classBits (f : Fmt) (n : Nat) : Nat :=
  let sub := decide (fld n f.mb f.eb = 0)
  match unpack f n with
  | .nan sig => if sig then 2 ^ 8 else 2 ^ 9
  | .inf s => if s then 1 else 2 ^ 7
  | .num s m _ =>
    if m = 0 then (if s then 2 ^ 3 else 2 ^ 4)
    else if sub then (if s then 2 ^ 2 else 2 ^ 5)
    else (if s then 2 else 2 ^ 6)

/-! ### The scalar operations on FP32 patterns (R122, R125): nearest-even, subnormals kept -/

def w32 (n : Nat) : W32 := BitVec.ofNat 32 n

def pack32 (r : Fp × FFlags) : W32 × FFlags :=
  let (v, fl) := finishFp fp32 .rne r
  (w32 v, fl)

def up (a : W32) : Fp := unpack fp32 a.toNat

def fadd32 (a b : W32) : W32 × FFlags := pack32 (addFp .rne (up a) (up b))
def fsub32 (a b : W32) : W32 × FFlags := pack32 (addFp .rne (up a) (negFp (up b)))
def fmul32 (a b : W32) : W32 × FFlags := pack32 (mulFp (up a) (up b))
def fdiv32 (a b : W32) : W32 × FFlags :=
  let (v, fl) := divBits fp32 .rne (up a) (up b)
  (w32 v, fl)
def fsqrt32 (a : W32) : W32 × FFlags :=
  let (v, fl) := sqrtBits fp32 .rne (up a)
  (w32 v, fl)
/-- FMADD: a * b + c, rounded once. -/
def fmadd32 (a b c : W32) : W32 × FFlags := pack32 (fmaFp .rne (up a) (up b) (up c))
/-- FNMADD: c - a * b, rounded once. -/
def fnmadd32 (a b c : W32) : W32 × FFlags := pack32 (fmaFp .rne (negFp (up a)) (up b) (up c))

def fmin32 (a b : W32) : W32 × FFlags :=
  let (v, fl) := minMaxBits fp32 false a.toNat b.toNat (up a) (up b)
  (w32 v, fl)
def fmax32 (a b : W32) : W32 × FFlags :=
  let (v, fl) := minMaxBits fp32 true a.toNat b.toNat (up a) (up b)
  (w32 v, fl)

/-- FEQ: quiet; NV on a signalling NaN (R122). -/
def feq32 (a b : W32) : Bool × FFlags :=
  (cmpFp (up a) (up b) == some .eq, nvIf (fpIsSnan (up a) || fpIsSnan (up b)))
/-- FLT: NV on any NaN. -/
def flt32 (a b : W32) : Bool × FFlags :=
  let c := cmpFp (up a) (up b)
  (c == some .lt, nvIf c.isNone)
def fle32 (a b : W32) : Bool × FFlags :=
  let c := cmpFp (up a) (up b)
  (c == some .lt || c == some .eq, nvIf c.isNone)

/-- FP32 to a narrower format, with the flags of FCVT.H.S and FCVT.BF.S (R76, R122). -/
def narrow32 (f : Fmt) (a : W32) : Nat × FFlags := packFp f .rne (up a)
/-- A narrower format to FP32: exact (R76). -/
def widen32 (f : Fmt) (n : Nat) : W32 × FFlags :=
  let (v, fl) := packFp fp32 .rne (unpack f n)
  (w32 v, fl)

def ofInt32 (i : Int) : W32 × FFlags := pack32 (intFp i, 0)
/-- FP32 to a signed integer of `n` bits (R76). -/
def toSigned (n : Nat) (a : W32) : Int × FFlags :=
  toIntFp .rtz (-(2 ^ (n - 1))) (2 ^ (n - 1) - 1) 0 (up a)
def toUnsigned (n : Nat) (a : W32) : Int × FFlags :=
  toIntFp .rtz 0 (2 ^ n - 1) 0 (up a)

/-! ### The vector operations (R77): inputs and results flushed, no flags -/

def upv (a : W32) : Fp := unpackFlush fp32 a.toNat
def packv (r : Fp × FFlags) : W32 := w32 (flushBits fp32 (finishFp fp32 .rne r).1)

def vfadd (a b : W32) : W32 := packv (addFp .rne (upv a) (upv b))
def vfsub (a b : W32) : W32 := packv (addFp .rne (upv a) (negFp (upv b)))
def vfmul (a b : W32) : W32 := packv (mulFp (upv a) (upv b))
def vffma (d a b : W32) : W32 := packv (fmaFp .rne (upv a) (upv b) (upv d))
def flush32 (a : W32) : W32 := w32 (flushBits fp32 a.toNat)
def vfmin (a b : W32) : W32 :=
  w32 (minMaxBits fp32 false (flush32 a).toNat (flush32 b).toNat (upv a) (upv b)).1
def vfmax (a b : W32) : W32 :=
  w32 (minMaxBits fp32 true (flush32 a).toNat (flush32 b).toNat (upv a) (upv b)).1
def vnarrow (f : Fmt) (a : W32) : Nat := flushBits f (packFp f .rne (upv a)).1
def vwiden (f : Fmt) (n : Nat) : W32 := w32 (flushBits fp32 (packFp fp32 .rne (unpackFlush f n)).1)

/-! ### Approximate functions (R90): the correctly rounded value with fraction bits 10:0 cleared -/

/-- Clear fraction bits 10:0 and flush a subnormal result. -/
def cut12 (n : Nat) : W32 := w32 (flushBits fp32 (n / 2 ^ 11 * 2 ^ 11))

/-- 1/x. -/
def frcp (a : W32) : W32 :=
  match upv a with
  | .nan _ => w32 fp32.qnan
  | .inf s => w32 (if s then fp32.signBit else 0)
  | .num s m e =>
    if m = 0 then w32 ((if s then fp32.signBit else 0) + fp32.infBits)
    else cut12 (divBits fp32 .rne (.num false 1 0) (.num s m e)).1

/-- 1/sqrt x: the root of 2^k / m, never a tie. -/
def frsq (a : W32) : W32 :=
  match upv a with
  | .nan _ => w32 fp32.qnan
  | .inf s => if s then w32 fp32.qnan else 0
  | .num s m e =>
    if m = 0 then w32 ((if s then fp32.signBit else 0) + fp32.infBits)
    else if s then w32 fp32.qnan
    else
      let k : Nat := 112 + (if e % 2 = 0 then 0 else 1)
      let n := 2 ^ k / m
      let r := isqrt n
      cut12 (roundPack fp32 .rne false r (-((e + k) / 2)) (r * r * m != 2 ^ k)).1

/-- Working precision of the two transcendental functions, in fraction bits. -/
def apBits : Nat := 192
/-- floor(ln 2 * 2^192). -/
def ln2Fix : Nat := 4350955369971217654477563090224794165364344896676135745069

/-- exp y in fixed point, as the Taylor series: `t` is the current term, `k` its index. -/
def expSeries : Nat → Nat → Nat → Nat → Nat → Nat
  | 0, _, _, _, acc => acc
  | fuel + 1, y, t, k, acc =>
    let t' := t * y / 2 ^ apBits / k
    expSeries fuel y t' (k + 1) (acc + t')

/-- 2^x. -/
def fexp2 (a : W32) : W32 :=
  match upv a with
  | .nan _ => w32 fp32.qnan
  | .inf s => if s then 0 else w32 fp32.infBits
  | .num s m e =>
    if m = 0 then 0x3F800000
    else if 16 ≤ (m.log2 : Int) + e then if s then 0 else w32 fp32.infBits
    else
      -- x as a fixed-point integer, rounded down; bits below 2^-192 cannot change the result
      let fx : Int := if s then -(m : Int) else m
      let x : Int := if 0 ≤ e + apBits then fx * 2 ^ (e + apBits).toNat else fx / 2 ^ (-(e + apBits)).toNat
      let n := x / 2 ^ apBits
      let f := (x % 2 ^ apBits).toNat
      if f = 0 then cut12 (roundPack fp32 .rne false 1 n false).1
      else
        let y := f * ln2Fix / 2 ^ apBits
        let v := expSeries 60 y (2 ^ apBits) 1 (2 ^ apBits)
        cut12 (roundPack fp32 .rne false v (n - apBits) true).1

/-- atanh z in fixed point: `p` is the current odd power of z, `k` its exponent. -/
def atanhSeries : Nat → Nat → Nat → Nat → Nat → Nat
  | 0, _, _, _, acc => acc
  | fuel + 1, z2, p, k, acc =>
    atanhSeries fuel z2 (p * z2 / 2 ^ apBits) (k + 2) (acc + p / k)

/-- log2 x. -/
def flog2 (a : W32) : W32 :=
  match upv a with
  | .nan _ => w32 fp32.qnan
  | .inf s => if s then w32 fp32.qnan else w32 fp32.infBits
  | .num s m e =>
    if m = 0 then w32 (fp32.signBit + fp32.infBits)
    else if s then w32 fp32.qnan
    else
      let k := m.log2
      let n : Int := (k : Int) + e
      if m = 2 ^ k then (ofInt32 n).1 &&& 0xFFFFF800
      else
        -- m / 2^k in (1, 2): ln = 2 atanh((m - 2^k) / (m + 2^k))
        let z := (m - 2 ^ k) * 2 ^ apBits / (m + 2 ^ k)
        let l := 2 * atanhSeries 70 (z * z / 2 ^ apBits) z 1 0
        let v : Int := n * 2 ^ apBits + (l * 2 ^ apBits / ln2Fix : Nat)
        cut12 (roundPack fp32 .rne (decide (v < 0)) v.natAbs (-apBits) true).1

end Sys2Proof.Machine
end

