-- ==== Sys2Proof/Machine/Lns.lean ====
section
/-!
DEFINITION. Logarithmic and grouped-integer numbers (R70-R73, R79-R87, R94, R126) and the random generator (R99).
-/

namespace Sys2Proof.Machine

/-- The sticky flags of LFLAGS, in its bit order (R87): ISAT 16, LRANGE 8, LINV 4, LSATLO 2, LSATHI 1. -/
abbrev LFlags := BitVec 5
def lISAT : LFlags := 16
def lRANGE : LFlags := 8
def lINV : LFlags := 4
def lSATLO : LFlags := 2
def lSATHI : LFlags := 1

/-- T8 (R82). -/
def t8 : List Nat := [32768, 35734, 38968, 42495, 46341, 50535, 55109, 60097]

/-- T16 (R83). -/
def t16 : List Nat :=
  [8388608, 8479954, 8572295, 8665641, 8760003, 8855394, 8951823, 9049301] ++
  [9147842, 9247455, 9348154, 9449948, 9552851, 9656875, 9762032, 9868333] ++
  [9975792, 10084422, 10194234, 10305242, 10417458, 10530897, 10645571, 10761494] ++
  [10878679, 10997140, 11116891, 11237946, 11360319, 11484025, 11609078, 11735492] ++
  [11863283, 11992466, 12123055, 12255067, 12388516, 12523418, 12659789, 12797645] ++
  [12937002, 13077877, 13220286, 13364245, 13509772, 13656884, 13805598, 13955931] ++
  [14107901, 14261526, 14416824, 14573813, 14732511, 14892937, 15055111, 15219050] ++
  [15384775, 15552304, 15721658, 15892855, 16065917, 16240863, 16417715, 16596492]

/-- The significands of the thresholds of Log8, times 2^23: T16[8f + 4] (R85). -/
def theta8 : List Nat := (List.range 8).map fun f => t16.getD (8 * f + 4) 0

/-- The significands of the thresholds of Log16, times 2^23 (R86). -/
def theta16 : List Nat :=
  [8434157, 8525999, 8618841, 8712694, 8807569, 8903477, 9000430, 9098438] ++
  [9197514, 9297668, 9398913, 9501261, 9604722, 9709311, 9815039, 9921917] ++
  [10029960, 10139179, 10249587, 10361198, 10474024, 10588079, 10703375, 10819928] ++
  [10937749, 11056853, 11177254, 11298967, 11422004, 11546382, 11672114, 11799215] ++
  [11927700, 12057584, 12188882, 12321610, 12455784, 12591419, 12728530, 12867135] ++
  [13007249, 13148888, 13292070, 13436812, 13583129, 13731039, 13880561, 14031710] ++
  [14184505, 14338964, 14495106, 14652947, 14812507, 14973805, 15136859, 15301688] ++
  [15468313, 15636752, 15807025, 15979152, 16153153, 16329050, 16506861, 16686609]

/-- A decoded LNS code: zero, not a real, or a sign and a log field. -/
inductive Lns where
  | zero
  | nar
  | num (s : Bool) (l : Int)
deriving DecidableEq, Repr

/-- The reading of an LNS8 code (R79). -/
def lns8 (c : Nat) : Lns :=
  let l := sxInt c 7
  if l = -64 then (if bitAt c 7 then .nar else .zero) else .num (bitAt c 7) l

/-- The reading of an LNS16 code (R80). -/
def lns16 (c : Nat) : Lns :=
  let l := sxInt c 15
  if l = -16384 then (if bitAt c 15 then .nar else .zero) else .num (bitAt c 15) l

/-- The code of a sign and log field: `n` field bits (R79, R80). -/
def lnsCode (n : Nat) (s : Bool) (l : Int) : Nat :=
  (if s then 2 ^ n else 0) + (l % 2 ^ n).toNat

def lnsZero (n : Nat) : Nat := 2 ^ (n - 1)
def lnsNar (n : Nat) : Nat := 2 ^ n + 2 ^ (n - 1)
def lnsMax (n : Nat) : Int := 2 ^ (n - 1) - 1

/-- An LNS product as a code of `n` field bits, with its flags (R81). -/
def lnsMul (n : Nat) (a b : Lns) : Nat × LFlags :=
  match a, b with
  | .nar, _ => (lnsNar n, 0)
  | _, .nar => (lnsNar n, 0)
  | .zero, _ => (lnsZero n, 0)
  | _, .zero => (lnsZero n, 0)
  | .num sa la, .num sb lb =>
    let p := la + lb
    if lnsMax n < p then (lnsCode n (sa != sb) (lnsMax n), lSATHI)
    else if p < -(lnsMax n) then (lnsZero n, lSATLO)
    else (lnsCode n (sa != sb) p, 0)

/-- The linear value of an LNS8 log field (R82): exact. -/
def linVal8 (s : Bool) (p : Int) : Fp := .num s (t8.getD (p % 8).toNat 0) (p / 8 - 15)

/-- The linear value of an LNS16 log field, before its range is checked (R83). -/
def linVal16 (s : Bool) (p : Int) : Fp := .num s (t16.getD (p % 64).toNat 0) (p / 64 - 23)

/-- Lin8 as FP32 (R82). -/
def lin8 (c : Lns) : W32 :=
  match c with
  | .zero => 0
  | .nar => w32 fp32.qnan
  | .num s p => (pack32 (linVal8 s p, 0)).1

/-- Lin16 as FP32, with LRANGE (R83); below the normal range scalar code rounds, `flush` gives a signed zero. -/
def lin16 (flush : Bool) (c : Lns) : W32 × LFlags :=
  match c with
  | .zero => (0, 0)
  | .nar => (w32 fp32.qnan, 0)
  | .num s p =>
    let i := p / 64
    if 128 ≤ i then (w32 ((if s then fp32.signBit else 0) + fp32.infBits), lRANGE)
    else if i < -126 then
      if flush then (w32 (if s then fp32.signBit else 0), lRANGE)
      else
        let (v, fl) := pack32 (linVal16 s p, 0)
        (v, if fl &&& fNX = 0 then 0 else lRANGE)
    else ((pack32 (linVal16 s p, 0)).1, 0)

/-- Conversion of an FP32 value to an LNS code of `n` field bits with `u` units a binade (R84);
the vector unit flushes a subnormal first. -/
def logCode (n u : Nat) (theta : List Nat) (flush : Bool) (x : W32) : Nat × LFlags :=
  match (if flush then upv x else up x) with
  | .nan _ => (lnsNar n, lINV)
  | .inf _ => (lnsNar n, lINV)
  | .num s m e =>
    if m = 0 then (lnsZero n, 0)
    else
      let k := m.log2
      let sig := m * 2 ^ (23 - k)
      let g := (theta.filter fun t => t ≤ sig).length
      let l : Int := u * ((k : Int) + e) + g
      if lnsMax n < l then (lnsCode n s (lnsMax n), lSATHI)
      else if l < -(lnsMax n) then (lnsZero n, lSATLO)
      else (lnsCode n s l, 0)

def log8 (flush : Bool) (x : W32) : Nat × LFlags := logCode 7 8 theta8 flush x
def log16 (flush : Bool) (x : W32) : Nat × LFlags := logCode 15 64 theta16 flush x

/-! ### Grouped integers (R71, R73) -/

/-- (q - z) * s for an FP16 scale pattern (R71). -/
def groupDecode (q z scale : Nat) : W32 :=
  let d : Int := (q : Int) - z
  match unpack fp16 scale with
  | .nan _ => w32 fp32.qnan
  | .inf s =>
    if d = 0 then w32 fp32.qnan
    else w32 ((if s != decide (d < 0) then fp32.signBit else 0) + fp32.infBits)
  | .num s m e => (pack32 (.num (s != decide (d < 0)) (d.natAbs * m) e, 0)).1

/-- The code of a value stored through a grouped-integer window (R73); `qmax` is 255 or 15. -/
def groupEncode (qmax z scale : Nat) (x : W32) : Nat × LFlags :=
  match up x, unpack fp16 scale with
  | .num sx mx ex, .num ss ms es =>
    if ms = 0 then (z % (qmax + 1), lISAT)
    else
      -- x / s = (mx / ms) * 2^(ex - es), rounded to the nearest even integer
      let k : Int := ex - es
      let num := mx * 2 ^ k.toNat
      let den := ms * 2 ^ (-k).toNat
      let q := num / den
      let r := num % den
      let up := decide (den < 2 * r) || (decide (2 * r = den) && q % 2 == 1)
      let mag : Int := if up then q + 1 else q
      let t : Int := (if sx != ss then -mag else mag) + z
      if (qmax : Int) < t then (qmax, lISAT)
      else if t < 0 then (0, lISAT)
      else (t.toNat, 0)
  | .inf sx, .num ss ms _ =>
    if ms = 0 then (z % (qmax + 1), lISAT)
    else (if sx != ss then 0 else qmax, lISAT)
  | _, _ => (z % (qmax + 1), lISAT)

/-- An INT32 value saturated to `n` bits, with ISAT when it lies outside the range (R73). -/
def satInt (n : Nat) (x : W32) : Nat × LFlags :=
  let v := x.toInt
  let hi : Int := 2 ^ (n - 1) - 1
  let lo : Int := -(2 ^ (n - 1))
  if hi < v then (hi.toNat, lISAT)
  else if v < lo then (2 ^ (n - 1), lISAT)
  else ((v % 2 ^ n).toNat, 0)

/-- Byte `i` of a word. -/
def byteAt (w i : Nat) : Nat := fld w (8 * i) 8

/-- VDOT4 and VDOT4U of one lane (R94): the exact sum saturated once. -/
def dot4 (signed : Bool) (d a b : W32) : W32 × LFlags :=
  let rd (w : W32) (i : Nat) : Int :=
    if signed then sxInt (byteAt w.toNat i) 8 else byteAt w.toNat i
  let p := (List.range 4).map fun i => rd a i * rd b i
  let v := (if signed then d.toInt else (d.toNat : Int)) + p.sum
  let hi : Int := if signed then 2 ^ 31 - 1 else 2 ^ 32 - 1
  let lo : Int := if signed then -(2 ^ 31) else 0
  if hi < v then (BitVec.ofInt 32 hi, lISAT)
  else if v < lo then (BitVec.ofInt 32 lo, lISAT)
  else (BitVec.ofInt 32 v, 0)

/-! ### The random generator (R99): polynomials over GF(2) modulo x^128 + x^7 + x^2 + x + 1 -/

/-- One step: S times x mod P. -/
def rngStep (s : W128) : W128 :=
  let t := s <<< 1
  if s.msb then t ^^^ 0x87 else t

/-- `n` steps. -/
def rngSteps : Nat → W128 → W128
  | 0, s => s
  | n + 1, s => rngSteps n (rngStep s)

/-- A pop of qrn: 64 steps, then the low 64 bits. -/
def rngPop (s : W128) : W64 × W128 :=
  let t := rngSteps 64 s
  (t.setWidth 64, t)

/-- The product of two polynomials mod P, by the bits of `b` from bit `n - 1` down. -/
def gfMulLoop : Nat → W128 → W128 → W128 → W128
  | 0, _, _, acc => acc
  | n + 1, a, b, acc =>
    let acc' := rngStep acc
    gfMulLoop n a b (if b.getLsbD n then acc' ^^^ a else acc')

def gfMul (a b : W128) : W128 := gfMulLoop 128 a b 0

/-- `a` squared `n` times. -/
def gfSquares : Nat → W128 → W128
  | 0, a => a
  | n + 1, a => gfSquares n (gfMul a a)

/-- `a` to the power of the low `n` bits of `t`. -/
def gfPow : Nat → W128 → Nat → W128
  | 0, _, _ => 1
  | n + 1, a, t =>
    let r := gfPow n (gfMul a a) (t / 2)
    if t % 2 = 1 then gfMul r a else r

/-- The generator at thread start: S0 times x^(t * 2^64); a zero seed is replaced by 1. -/
def rngStart (seed : W128) (t : Nat) : W128 :=
  let s0 := if seed = 0 then 1 else seed
  gfMul s0 (gfPow 24 (gfSquares 64 2) t)

end Sys2Proof.Machine
end

