-- ==== Sys2Proof/Machine/Regs.lean ====
section
/-!
DEFINITION. How an instruction ends, and the registers: reading, writing, tags, the last-result file, the meter, event
counters and the queue registers (R24, R95-R98, R107, R235, R240, R264, R286, R287, R304-R308).
-/

namespace Sys2Proof.Machine

/-- Why an instruction does not complete: it waits and has not executed (`queue`: on an empty pop
queue or a full push queue, R240); it takes a trap (cause code of R349, DETAIL
of R350, TVAL) in the state before it, or in the state `keep` where a rule lets an effect stand; the same with nothing standing but
what the misses of its translations left in the translation services and caches (R190, R191, R198); the machine stops. -/
inductive Stop where
  | wait (queue : Bool)
  | trap (code : Nat) (detail : Nat) (tval : W64) (keep : Option State)
  | missed (code : Nat) (detail : Nat) (tval : W64) (walked : State)
  | fault (f : Fault)

/-- The result of an instruction or of a part of one. -/
abbrev Res (α : Type) := Except Stop α

def wait {α : Type} : Res α := .error (.wait false)

/-- Wait on a queue register (R107, R240). -/
def waitQ {α : Type} : Res α := .error (.wait true)

/-- Raise a trap whose DETAIL is 0; the instruction has no effect. -/
def raise {α : Type} (code : Nat) (tval : W64) : Res α := .error (.trap code 0 tval none)

/-- A trap that keeps nothing keeps what misses have left in state `t`. -/
def keepWalk {α : Type} (t : State) (r : Res α) : Res α :=
  match r with
  | .error (.trap code detail tval none) => .error (.missed code detail tval t)
  | r => r

/-- The state that an access which ends in `e` leaves in the translation services. -/
def Stop.left (e : Stop) (s : State) : State :=
  match e with
  | .missed _ _ _ t => t
  | _ => s

/-- The state in which an instruction of `s` takes its trap when its misses have led to `t`: nothing of its own effect stands, a demotion
with its notice included (R198); event counters count what was looked up and filled. -/
def State.afterMiss (s t : State) : State :=
  { t with
    ctx := { s.ctx with sys := { s.ctx.sys with evc := t.ctx.sys.evc } }
    trans := { t.trans with acct := s.trans.acct } }

/-! The cause codes of R349. -/
def cILL : Nat := 0x01
def cLAVIOL : Nat := 0x02
def cMISALIGN : Nat := 0x03
def cCAPVIOL : Nat := 0x04
def cCOORD : Nat := 0x05
def cSTALE : Nat := 0x06
def cMTRAP : Nat := 0x07
def cPF : Nat := 0x08
def cPERM : Nat := 0x09
def cMBOX : Nat := 0x0A
def cMXFAULT : Nat := 0x0B
def cGANG : Nat := 0x0C
def cECC : Nat := 0x0D
def cACKLOSS : Nat := 0x0E
def cDIELOSS : Nat := 0x0F
def cTRAP : Nat := 0x10
def cBREAK : Nat := 0x11
def cPRIV : Nat := 0x12

/-- ILL with STVAL the instruction (R22). -/
def ill {α : Type} (s : State) : Res α := raise cILL s.insn

/-- PRIV with STVAL the instruction (R349), at user privilege. -/
def needSup (s : State) : Res Unit := if s.ctx.st.mode then .ok () else raise cPRIV s.insn

/-- A demand, or the trap. -/
def must (b : Bool) (code : Nat) (tval : W64) : Res Unit :=
  if b then .ok () else raise code tval

/-! ### Updates of the acting context -/

def setG (f : Gpr → Gpr) (s : State) : State := { s with ctx := { s.ctx with g := f s.ctx.g } }
def setSt (f : Status → Status) (s : State) : State := { s with ctx := { s.ctx with st := f s.ctx.st } }
def setTr (f : TrapRegs → TrapRegs) (s : State) : State := { s with ctx := { s.ctx with tr := f s.ctx.tr } }
def setSys (f : SysRegs → SysRegs) (s : State) : State := { s with ctx := { s.ctx with sys := f s.ctx.sys } }
def setVec (f : VecRegs → VecRegs) (s : State) : State := { s with ctx := { s.ctx with vec := f s.ctx.vec } }
def setQs (f : Queues → Queues) (s : State) : State := { s with ctx := { s.ctx with qs := f s.ctx.qs } }
def setPc (pc : BitVec 72) (bad : Bool) (s : State) : State := { s with ctx := { s.ctx with pc := pc, pcBad := bad, wfi := false, waitQ := false } }
def setFab (f : Fabric → Fabric) (s : State) : State := { s with fab := f s.fab }
def setMem (f : Memory → Memory) (s : State) : State := { s with mem := f s.mem }

/-- The active operand and last-result set (R97). -/
def Gpr.cur (g : Gpr) : OlSet :=
  match g.active with
  | .prog => g.prog
  | .user => g.user
  | .sup => g.sup

def Gpr.setCur (g : Gpr) (x : OlSet) : Gpr :=
  match g.active with
  | .prog => { g with prog := x }
  | .user => { g with user := x }
  | .sup => { g with sup := x }

/-- Write a main register by an instruction other than the capability moves: the pair's tag is cleared (R98). -/
def Gpr.setM (g : Gpr) (i : Fin 32) (v : W64) : Gpr :=
  { g with m := g.m.set i v, tags := g.tags.set (i.val / 2) false }

/-- Write both words and the tag of a pair (R98). -/
def Gpr.setCap (g : Gpr) (k : Cap) (lo hi : W64) (t : Bool) : Gpr :=
  { g with
    m := (g.m.set (2 * k.val) lo).set (2 * k.val + 1) hi
    tags := g.tags.set k.val t }

def Gpr.capLo (g : Gpr) (k : Cap) : W64 := g.m[2 * k.val]
def Gpr.capHi (g : Gpr) (k : Cap) : W64 := g.m[2 * k.val + 1]
def Gpr.capTag (g : Gpr) (k : Cap) : Bool := g.tags[k.val]

/-- Push a one-cycle result into the last-result file (R96). -/
def OlSet.pushL (x : OlSet) (v : W64) : OlSet :=
  { x with l := #v[v, x.l[0], x.l[1], x.l[2]] }

def pushL (v : W64) (s : State) : State := setG (fun g => g.setCur (g.cur.pushL v)) s

/-! ### Event counters (R240) -/

/-- Add `n` to every counter of a context that selects event `code`. -/
def Ctx.addEvent (c : Ctx) (code n : Nat) : Ctx :=
  { c with sys := { c.sys with
      evc := Vector.ofFn fun i =>
        if fld (c.sys.evsel[i]).toNat 0 8 = code then c.sys.evc[i] + w64 n else c.sys.evc[i] } }

/-- Add `n` to the counters that select event `code` by the selectors at the request's issue: a later write of EVSEL does not
move its credit (R241). -/
def Ctx.addEventBy (c : Ctx) (sel : Vector (BitVec 16) 16) (code n : Nat) : Ctx :=
  { c with sys := { c.sys with
      evc := Vector.ofFn fun i => if fld (sel[i]).toNat 0 8 = code then c.sys.evc[i] + w64 n else c.sys.evc[i] } }

/-- Code 0 counts nothing; without a selector of the code nothing changes. -/
def addEvent (code n : Nat) (s : State) : State :=
  if s.ctx.sys.evsel.toList.any (fun e => fld e.toNat 0 8 == code) && code != 0 then
    { s with ctx := s.ctx.addEvent code n }
  else s

/-! ### The meter (R235) -/

/-- One charge: MTRAP leaves METER unchanged; without a limit METER stops at 2^64 - 1. -/
def charge (n : Nat) (s : State) : Res State :=
  let new := s.ctx.sys.meter.toNat + n
  if s.ctx.sys.mlimit ≠ BitVec.allOnes 64 ∧ s.ctx.sys.mlimit.toNat < new then
    raise cMTRAP (w64 n)
  else .ok (setSys (fun r => { r with meter := w64 (min new (2 ^ 64 - 1)) }) s)

/-- Record the dies an access touches (R199). -/
def touch (d : BitVec 13) (s : State) : State := setSys (fun r => { r with tdmask := r.tdmask ||| d }) s

def orLflags (f : LFlags) (s : State) : State := setSys (fun r => { r with lflags := r.lflags ||| f }) s
def orFstat (f : FFlags) (s : State) : State := setSys (fun r => { r with fstat := r.fstat ||| f }) s

/-! ### Contexts by record -/

/-- The key of the acting continuation; notices of a service run go to the faulting record (R353). -/
def Ctx.noticeKey (c : Ctx) : Option Key :=
  match c.info.service with
  | some k => some k
  | none => c.info.key

/-- Apply `f` to the context of a record wherever it is: acting, parked on a core, or in its saved image. -/
def onKey (k : Key) (f : Ctx → Ctx) (s : State) : State :=
  if s.live && s.ctx.info.key == some k then { s with ctx := f s.ctx }
  else if s.parked.any (fun p => p.2.info.key == some k) then
    { s with parked := s.parked.map fun p => if p.2.info.key == some k then (p.1, f p.2) else p }
  else
    { s with sch := { s.sch with images := s.sch.images.map fun i =>
        if i.vf == k.vf && i.rva == k.rva then { i with ctx := f i.ctx } else i } }

/-- The context of a record, wherever it is. -/
def ctxOf (k : Key) (s : State) : Option Ctx :=
  if s.live && s.ctx.info.key == some k then some s.ctx
  else match s.parked.find? (fun p => p.2.info.key == some k) with
    | some p => some p.2
    | none => (s.sch.images.find? fun i => i.vf == k.vf && i.rva == k.rva).map (·.ctx)

/-- Post a notice (R262, R263): into qnt, or onto the VF's overflow list when qnt is full. -/
def postNotice (k : Key) (kind : Nat) (payload : Nat) (s : State) : State :=
  let v := w64 (kind * 2 ^ 56 + payload % 2 ^ 56)
  match ctxOf k s with
  | none => s
  | some c =>
    if c.qs.qnt.length < 64 then
      onKey k (fun c => { c with qs := { c.qs with qnt := c.qs.qnt ++ [v] } }) s
    else setAcct s k.vf fun a => { a with overflow := a.overflow ++ [(k, v)] }

/-- Move overflowed notices of a record into its qnt while entries are free (R263). -/
def refillQnt (k : Key) (s : State) : State :=
  match s.trans.acct? k.vf, ctxOf k s with
  | some a, some c =>
    match a.overflow.find? (fun e => e.1 == k) with
    | some e =>
      if c.qs.qnt.length < 64 then
        let s' := onKey k (fun c => { c with qs := { c.qs with qnt := c.qs.qnt ++ [e.2] } }) s
        setAcct s' k.vf fun a => { a with overflow := a.overflow.erase e }
      else s
    | none => s
  | _, _ => s

/-- The key an engine's claim is held under (R269); a service run claims as its faulting record (R353). -/
def Ctx.claimKey (c : Ctx) : Key := c.noticeKey.getD ⟨c.sys.vfid, 0⟩

/-- Above every virtual address: the key under which a service run owes observations is its faulting record's with this
much added to the address; twice as much names nobody. -/
def serviceOffset : Nat := 2 ^ 72

/-- The key under which a continuation owes observations and queues copy records: a service run's own, which ends with it
(R300, R353). -/
def Ctx.ownerKey (c : Ctx) : Key :=
  match c.info.service with
  | some k => ⟨k.vf, k.rva + serviceOffset⟩
  | none => c.claimKey

/-- The owner of what an ended continuation left behind. -/
def nobody (vf : Nat) : Key := ⟨vf, 2 * serviceOffset⟩

/-- Apply `f` to the context an owner key names, wherever it is. -/
def onOwner (k : Key) (f : Ctx → Ctx) (s : State) : State :=
  if k.rva < serviceOffset then onKey k f s
  else
    let mine := fun (c : Ctx) => c.info.service.isSome && c.ownerKey == k
    if s.live && mine s.ctx then { s with ctx := f s.ctx }
    else { s with parked := s.parked.map fun p => if mine p.2 then (p.1, f p.2) else p }

/-! ### Scope demotion (R215) -/

def Scope.min (a b : Scope) : Scope := if a.code ≤ b.code then a else b

/-- Demote a scope to SCOPECAP: SD is set, and its first setting posts a notice of kind 0x06. -/
def demote (sc : Scope) (s : State) : Scope × State :=
  let cap := s.scopecap
  if sc.code ≤ cap.code then (sc, s)
  else
    let s' := if s.ctx.st.sd then s
      else match s.ctx.noticeKey with
        | some k => postNotice k 0x06 (sc.code + 8 * cap.code) s
        | none => s
    (cap, setSt (fun t => { t with sd := true }) s')

/-- What the acting continuation acquires, its later releases cover (R227): the writes of its die that every agent there sees
(log 9). -/
def coverAll (s : State) : State :=
  let k := s.ctx.ownerKey
  let die := dieOf s.cur
  setMem (fun m => { m.coverAll die (some k) with
    stores := m.stores.map fun e =>
      if e.shown.isSome && dieOf e.core == die && !e.covers.contains k then { e with covers := k :: e.covers } else e }) s

/-- The clean copies of lines that a die holds from before writes of other dies are dropped (R224, R230). -/
def dropOld (dies : List Nat) (ws : List WriteMsg) (s : State) : State :=
  let old := fun (l : CLine) => !l.dirty && dies.contains (l.unit / 256) && ws.any fun w =>
    (w.cells.any fun c => c.addr / 64 == l.pa / 64) && !w.freshOn (l.unit / 256) (l.pa / 64)
  if ws.isEmpty then s else setFab (fun f => { f with slices := f.slices.filter fun l => !old l }) s

/-- A drain of an agent of a die (R225): the die drops the copies that writes performed at package scope have made old, and reads
no value older than one of them. -/
def drainDie (die : Nat) (s : State) : State :=
  setMem (·.drain die) (dropOld [die] (s.mem.msgs.filter (·.performedAt.isSome)) s)

/-- An acquire; at package or system scope it drains (R225). -/
def acquire (sc : Scope) (s : State) : State :=
  if 3 ≤ sc.code then drainDie (dieOf s.cur) (coverAll s) else coverAll s

/-! ### The matrix engine's queue registers (R271, R286, R287) -/

/-- The engine of the acting core's cell. -/
def cellEngine (s : State) : Option Engine := s.engines.find? fun e => e.cell == cellOf s.cur

/-- The engine of the acting core's cell when the acting continuation owns it (R271). -/
def ownEngine (s : State) : Option Engine :=
  match cellEngine s with
  | some e => if e.owner == s.ctx.claimKey && e.core == s.cur then some e else none
  | none => none

def setEngine (cell : Nat) (f : MxState → MxState) (s : State) : State :=
  { s with engines := s.engines.map fun e => if e.cell == cell then { e with mx := f e.mx } else e }

/-- Words of qmi that the streams among some queued instructions still take. -/
def streamWords (ts : List MxTask) : Nat :=
  (ts.map fun t => match t with
    | .mstream none _ _ n _ _ _ next _ => 6 * (n - next)
    | _ => 0).sum

/-- Words that issued streams from qmi still need (R286); those before a waiting MFREE or EXIT take no more than the whole rows
pushed before it (R270). -/
def MxState.qmiNeed (x : MxState) : Nat :=
  Nat.min (streamWords (x.queue.take x.cut)) (x.cutWords / 6 * 6) + streamWords (x.queue.drop x.cut)

/-- Words that issued P streams still owe to qmo (R280, R287). -/
def MxState.qmoOwed (x : MxState) : Nat :=
  (x.queue.map fun t => match t with
    | .mstream _ _ _ n _ _ p next _ => if p then 32 * (n - next) else 0
    | _ => 0).sum + 32 * (x.rows.filter (·.deliver)).length

/-- The values of leading loads are fixed: no later access of the thread but a load inside the window comes before them
(R35, R226). -/
def fixReads (s : State) : State :=
  { s with ctx := { s.ctx with la := s.ctx.la.map fun e => { e with read := none } } }

/-- A push to qmi, after the values of earlier loads (R35): with 48 words it waits while an issued stream still owes words, and else can
never go on (R286). -/
def qmiPush (v : W64) (s : State) : Res State :=
  match ownEngine s with
  | none => raise cMXFAULT 1
  | some e =>
    if e.mx.qmi.length < 48 then .ok (setEngine e.cell (fun x => { x with qmi := x.qmi ++ [v] }) (fixReads s))
    else if 0 < e.mx.qmiNeed then waitQ
    else raise cMXFAULT 8

/-! ### Pop registers: the entry a source reads, and the pop made when the instruction completes (R24, R107) -/

/-- The first entry of qmo (R287). -/
def qmoPeek (s : State) : Res W64 :=
  match ownEngine s with
  | none => raise cMXFAULT 1
  | some e =>
    match e.mx.qmo with
    | v :: _ => .ok v
    | [] => if e.mx.qmoOwed = 0 then raise cMXFAULT 8 else waitQ

def qmoDrop (s : State) : State :=
  match ownEngine s with
  | none => s
  | some e => setEngine e.cell (fun x => { x with qmo := x.qmo.drop 1 }) s

/-- The first entry of qcs; ILL when it is empty and no command is outstanding (R264). A pending AMO comes first (R226). -/
def qcsPeek (s : State) : Res W64 :=
  if s.ctx.amo.isSome then wait
  else match s.ctx.qs.qcs with
  | v :: _ => .ok v
  | [] => if s.ctx.qs.outstanding = 0 then ill s else waitQ

/-- The pop of a completion record acquires at its command's scope (R228, R215). -/
def qcsDrop (s : State) : State :=
  let s' := setQs (fun q => { q with qcs := q.qcs.drop 1, qcsScope := q.qcsScope.drop 1 }) s
  match s.ctx.qs.qcsScope with
  | sc :: _ => let d := demote sc s'; acquire d.1 d.2
  | [] => s'

/-- The first notice (R263). -/
def qntPeek (s : State) : Res W64 :=
  match s.ctx.qs.qnt with
  | v :: _ => .ok v
  | [] => waitQ

/-- The key whose overflowed notices refill the acting context's qnt. -/
def qntDrop (s : State) : State :=
  let s' := setQs (fun q => { q with qnt := q.qnt.drop 1 }) s
  match s.ctx.info.key with
  | some k => refillQnt k s'
  | none => s'

/-- The first entry of qvs (R155). -/
def qvsPeek (s : State) : Res W64 :=
  match s.ctx.vec.qvs with
  | v :: _ => .ok v
  | [] => waitQ

def qvsDrop (s : State) : State := setVec (fun x => { x with qvs := x.qvs.drop 1 }) s

/-! ### qsa and qso (R304-R308) -/

def mbox? (s : State) (n : Nat) : Option Mailbox := s.api.mboxes.find? fun m => m.n == n

def setMbox (n : Nat) (f : Mailbox → Mailbox) (s : State) : State :=
  { s with api := { s.api with mboxes := s.api.mboxes.map fun m => if m.n == n then f m else m } }

def hdrSeq (h : W64) : Nat := fld h.toNat 48 16
def hdrVersion (h : W64) : Nat := fld h.toNat 16 32
def hdrCount (h : W64) : Nat := fld h.toNat 8 8
def hdrBox (h : W64) : Nat := fld h.toNat 0 8

/-- The payload words a qsa header announces (R304, R305). -/
def qsaWords (h : W64) : Nat :=
  let c := hdrCount h
  if c ≤ 6 then c else if c = 0x82 then 2 else 0

/-- The charge of one word pushed to qsa (R236): 8 bytes over the port and 8 mm. -/
def qsaCharge (s : State) : Nat := chargeOf s (.core s.cur) .hive 8

/-- The flits of one word pushed to qsa (R240). -/
def qsaFlits (s : State) : State := addEvent 0x09 (flits s (.core s.cur) .hive 8) s

/-- The checks at a header word (R306): the mailbox, the count, its alternation, the observations owed. -/
def qsaHeaderCheck (v : W64) (s : State) : Res Unit := do
  let m := mbox? s (hdrBox v)
  let c := hdrCount v
  let act := decide (c ≤ 6)
  must (m.any fun m => m.vf == some s.vfid) cMBOX 1
  must (act || decide (0x80 ≤ c ∧ c ≤ 0x82)) cMBOX 2
  must (!(act && m.any fun m => m.owed.isSome)) cMBOX 3
  must (!(act && decide (32 ≤ s.ctx.qs.owed))) cMBOX 4

/-- SETIMG's second payload word is within its limits (R305). -/
def setimgOk (v : W64) : Bool :=
  let len := fld v.toNat 0 19
  decide (1 ≤ len ∧ len ≤ 0x40000) && decide (fld v.toNat 19 18 < len) && decide (fld v.toNat 37 27 = 0)

/-- A push to qsa (R304, R306): the checks at its word, the charge, TDMASK bit 12; the last word sends the record, and a
push waits while the previous record has not been accepted. An action is owed from its header on. SETIMG takes the pusher's AX
along. The values of earlier loads are fixed first (R35, R226). A word that MBOX 6 refuses drops the record pushed so far (R305), and the
instruction that pushed it has no other effect (R349). DESIGN CHOICE (log 99): an instruction that has a charge of its own
and names qsa as its rd is charged twice, each with its own check of MLIMIT (R235). -/
def qsaPush (v : W64) (s00 : State) : Res State := do
  let s := fixReads s00
  let q := s.ctx.qs
  if q.sent.isSome then waitQ
  else if q.qsa.isEmpty then
    qsaHeaderCheck v s
    let s ← charge (qsaCharge s) s
    let s := qsaFlits (touch 0x1000 s)
    let s := if hdrCount v ≤ 6 then
        setMbox (hdrBox v) (fun m => { m with owed := some s.ctx.ownerKey, posted := false })
          (setQs (fun q => { q with owed := q.owed + 1 }) s)
      else s
    if qsaWords v = 0 then .ok (setQs (fun q => { q with sent := some [v] }) s)
    else .ok (setQs (fun q => { q with qsa := [v] }) s)
  else
    let h := q.qsa.headD 0
    let last := decide (q.qsa.length = qsaWords h)
    if last && decide (hdrCount h = 0x82) && !setimgOk v then
      raise cMBOX 6
    else
      let s ← charge (qsaCharge s) s
      let s := qsaFlits (touch 0x1000 s)
      let ax : List W64 := if hdrCount h = 0x82 then [s.ctx.sys.ax.setWidth 64] else []
      if last then .ok (setQs (fun q => { q with sent := some (q.qsa ++ v :: ax), qsa := [] }) s)
      else .ok (setQs (fun q => { q with qsa := q.qsa ++ [v] }) s)

/-- The first word of qso; MBOX 5 when it is empty and nothing is owed (R306, R308). A pending AMO comes first (R226). -/
def qsoPeek (s : State) : Res W64 :=
  if s.ctx.amo.isSome then wait
  else match s.ctx.qs.qso with
  | v :: _ => .ok v
  | [] => if s.ctx.qs.owed = 0 then raise cMBOX 5 else waitQ

/-- What an ended continuation leaves behind: observations it owed are discarded when posted, and at once where they were
posted (R309); its copy commands deliver to nobody. -/
def orphan (k : Key) (s : State) : State :=
  let n := nobody k.vf
  let own := fun (a : MbAction) => if a.owner == k then { a with owner := n } else a
  let svc := decide (serviceOffset ≤ k.rva)
  { s with
    api := { s.api with mboxes := s.api.mboxes.map fun m =>
      let m := if m.owed == some k then
          (if m.posted then { m with owed := none, posted := false } else { m with owed := some n })
        else m
      { m with waiting := m.waiting.map own, current := m.current.map own } }
    cp := { s.cp with cmds := s.cp.cmds.map fun c =>
      if c.owner.vf == k.vf && c.owner.rva == k.rva % serviceOffset && c.svc == svc then
        { c with owner := n, svc := false } else c } }

/-- The mailboxes of the whole records of qso, first to last. -/
def qsoBoxes : Nat → List W64 → List Nat
  | 0, _ => []
  | _, [] => []
  | n + 1, h :: ws => hdrBox h :: qsoBoxes n (ws.drop (1 + hdrCount h))

/-- An observation has been wholly popped: its mailbox takes its next action (R308). With a later observation of the mailbox in qso
the one popped was not that of its last action: SETMBOX had come in between. -/
def qsoFinish (n : Nat) (s : State) : State :=
  let last := !(qsoBoxes s.ctx.qs.qso.length s.ctx.qs.qso).contains n
  setMbox n (fun m => if last && m.posted && m.owed == some s.ctx.ownerKey then { m with owed := none, posted := false } else m)
    (setQs (fun q => { q with qsoRec := none, owed := q.owed - 1 }) s)

/-- The pop of qso's first word. A header begins a record of 2 + COUNT words and acquires at package scope, demoted
as R215 gives (R228, R308). -/
def qsoDrop (s : State) : State :=
  match s.ctx.qs.qso with
  | [] => s
  | v :: rest =>
    let s' := setQs (fun q => { q with qso := rest }) s
    match s.ctx.qs.qsoRec with
    | some (n, left) =>
      if left ≤ 1 then qsoFinish n s' else setQs (fun q => { q with qsoRec := some (n, left - 1) }) s'
    | none =>
      let d := demote .pkg (setQs (fun q => { q with qsoRec := some (hdrBox v, 1 + hdrCount v) }) s')
      acquire d.1 d.2

/-! ### Reading sources and writing results (R24, R107) -/

/-- The next word of the random generator (R99). -/
def qrnPeek (s : State) : W64 := (rngPop s.ctx.rng).1

def qrnDrop (s : State) : State := { s with ctx := { s.ctx with rng := (rngPop s.ctx.rng).2 } }

/-- The value a source field reads. -/
def readReg (r : Reg) (s : State) : Res W64 :=
  match r with
  | .m i => .ok s.ctx.g.m[i]
  | .o i => .ok s.ctx.g.cur.o[i]
  | .l i => .ok s.ctx.g.cur.l[i]
  | .z => .ok 0
  | .qmo => qmoPeek s
  | .qcs => qcsPeek s
  | .qnt => qntPeek s
  | .qrn => .ok (qrnPeek s)
  | .qvs => qvsPeek s
  | .qso => qsoPeek s
  | .qmi => ill s
  | .qsa => ill s

/-- The pop a source field makes when its instruction completes. A pop that another agent could see comes after the values of earlier
loads (R35, R226); those of qrn and qvs are the continuation's own. -/
def popReg (r : Reg) (s : State) : State :=
  match r with
  | .qmo => qmoDrop (fixReads s)
  | .qcs => qcsDrop (fixReads s)
  | .qnt => qntDrop (fixReads s)
  | .qrn => qrnDrop s
  | .qvs => qvsDrop s
  | .qso => qsoDrop (fixReads s)
  | _ => s

/-- The write of a result. -/
def writeReg (r : Reg) (v : W64) (s : State) : Res State :=
  match r with
  | .m i => .ok (setG (fun g => g.setM i v) s)
  | .o i => .ok (setG (fun g => g.setCur { g.cur with o := g.cur.o.set i v }) s)
  | .z => .ok s
  | .qmi => qmiPush v s
  | .qsa => qsaPush v s
  | _ => ill s

end Sys2Proof.Machine
end

