-- ==== Sys2Proof/Machine/Translate.lean ====
section
/-!
DEFINITION. Translation: stage 1 and stage 2, the translation and walk caches, cache slices and instruction caches with
their hallmarks (R178, R179, R183-R196).
-/

namespace Sys2Proof.Machine

/-- The kinds of access R188 and R189 tell apart. -/
inductive AKind where
  | read | write | amo | fetch | engRead | engWrite | either
deriving DecidableEq, Repr

/-- The access code of R189. -/
def AKind.code : AKind → Nat
  | .read => 0
  | .write => 1
  | .amo => 1
  | .fetch => 2
  | .engRead => 3
  | .engWrite => 3
  | .either => 0

/-- Whether permissions grant the access (R188); `either` is DIST's, which asks for R or W (R238). -/
def AKind.granted (k : AKind) (r w x : Bool) : Bool :=
  match k with
  | .read => r
  | .write => w
  | .amo => r && w
  | .fetch => x
  | .engRead => r
  | .engWrite => w
  | .either => r || w

def AKind.writes : AKind → Bool
  | .write => true
  | .amo => true
  | .engWrite => true
  | _ => false

/-- The DETAIL of a translation fault (R189), as it stands in bits 23:8 of the cause value. -/
def xDetail (reason : Nat) (k : AKind) (stage2 : Bool) (level : Nat) : Nat :=
  reason * 64 + k.code * 16 + (if stage2 then 8 else 0) + level

/-- Raise PF or PERM with its DETAIL (R189). -/
def xFault {α : Type} (reason : Nat) (k : AKind) (stage2 : Bool) (level : Nat) (p : W64) : Res α :=
  .error (.trap (if reason = 1 then cPERM else cPF) (xDetail reason k stage2 level) p none)

/-- The access stops if its home lies on a die declared lost: DIELOSS, precise, with the die in DETAIL (R362). -/
def alive (h : Home) (p : W64) (s : State) : Res Unit :=
  if dieLost s h.die then .error (.trap cDIELOSS (2 ^ h.die) p none) else .ok ()

/-! ### Stage 2 (R187) -/

def s2Valid (e : W128) : Bool := e.getLsbD 0
def s2Base (e : W128) : Nat := fld e.toNat 16 32
def s2Limit (e : W128) : Nat := fld e.toNat 48 32
def s2Host (e : W128) : Nat := fld e.toNat 80 32

/-- A stage-2 match: the physical address and R, W, X. -/
structure S2Hit where
  pa : Nat
  r : Bool
  w : Bool
  x : Bool
deriving DecidableEq, Repr

/-- The lowest-numbered matching entry decides (R187). -/
def s2Lookup (f : Vf) (g : Nat) : Option S2Hit :=
  match f.s2.toList.find? fun e => s2Valid e && decide (s2Base e ≤ fld g 16 32 ∧ fld g 16 32 ≤ s2Limit e) with
  | some e => some ⟨(s2Host e * 65536 + g - s2Base e * 65536) % 281474976710656,
      e.getLsbD 112, e.getLsbD 113, e.getLsbD 114⟩
  | none => none

/-- Keep the last `n` entries of a list, dropping the oldest (log 8). -/
def keepLast {α : Type} (n : Nat) (l : List α) : List α := l.drop (l.length - n)

/-! ### Stage 1 (R184-R186) -/

/-- The lowest VA bit a level indexes. -/
def lvlShift (n : Nat) : Nat :=
  match n with
  | 1 => 61
  | 2 => 51
  | 3 => 41
  | 4 => 31
  | 5 => 21
  | _ => 16

def lvlBits (n : Nat) : Nat :=
  match n with
  | 1 => 11
  | 6 => 5
  | _ => 10

def lvlIndex (n va : Nat) : Nat := fld va (lvlShift n) (lvlBits n)

/-- The table size of a level, in bytes. -/
def lvlTable (n : Nat) : Nat := 8 * 2 ^ lvlBits n

/-- A stage-1 leaf: the guest-physical address of the VA, its page size and permissions. -/
structure Leaf where
  gpa : Nat
  size : Nat
  level : Nat
  r : Bool
  w : Bool
  x : Bool
  u : Bool
deriving DecidableEq, Repr

/-- The VF's stage-2 entries become resident, as the most recently used (R190). -/
def noteResident (vf : Nat) (s : State) : State :=
  if (s.trans.vf? vf).isNone then s
  else { s with trans := { s.trans with resident := keepLast 64 (s.trans.resident.filter (· != vf) ++ [vf]) } }

/-- Read a page-table entry at guest-physical `g`: stage 2 needs R; a lost die and poison end the access (R188, R189), and the
checked read sets the poison bit of its line (R180). -/
def readPte (s : State) (f : Vf) (level g : Nat) (k : AKind) (p : W64) : Res Nat :=
  match s2Lookup f g with
  | none => xFault 0 k true level p
  | some h =>
    if !h.r then xFault 1 k true level p
    else if reservedPa h.pa then .error (.fault (.reservedAddress h.pa))
    else do
      let t := noteResident f.id s
      keepWalk t (alive (homeOf h.pa) p s)
      if s.mem.anyPoison h.pa 8 then .error (.missed cECC 1 p (setMem (·.noted h.pa 8) t))
      else .ok (ofBytes (s.mem.bytes h.pa 8))

/-- What an entry says (R186). -/
inductive PteCase where
  | absent | malformed
  | next (table : Nat)
  | leaf (l : Leaf)
deriving DecidableEq, Repr

def pteCase (level pte va : Nat) : PteCase :=
  let addr := fld pte 8 40 * 256
  let isLeaf := bitAt pte 1
  let size := 2 ^ lvlShift level
  if !bitAt pte 0 then .absent
  else if fld pte 48 12 ≠ 0 ∨ fld pte 6 2 ≠ 0 then .malformed
  else if isLeaf then
    if level ≤ 3 ∨ (bitAt pte 3 ∧ !bitAt pte 2) ∨ addr % size ≠ 0 then .malformed
    else .leaf ⟨addr + va % size, size, level, bitAt pte 2, bitAt pte 3, bitAt pte 4, bitAt pte 5⟩
  else if level = 6 ∨ fld pte 2 4 ≠ 0 ∨ addr % lvlTable (level + 1) ≠ 0 then .malformed
  else .next addr

/-- The walk from a level down, with the non-leaf entries it read, deepest first. -/
def walkFrom (s : State) (f : Vf) (va : Nat) (k : AKind) (p : W64) :
    Nat → Nat → Nat → List (Nat × Nat) → Res (Leaf × List (Nat × Nat))
  | 0, level, _, _ => xFault 2 k false level p
  | fuel + 1, level, table, seen => do
    let pte ← readPte s f level (table + 8 * lvlIndex level va) k p
    match pteCase level pte va with
    | .absent => xFault 0 k false level p
    | .malformed => xFault 2 k false level p
    | .leaf l => .ok (l, seen)
    | .next t => walkFrom s f va k p fuel (level + 1) t ((level, t) :: seen)

/-- The current generation of a slot (R192). -/
def genOf (f : Vf) (slot : Nat) : Nat :=
  match f.gens.find? fun e => e.1 == slot with
  | some (_, g) => g
  | none => 0

def slotOf (va : Nat) : Nat := fld va 31 8

/-- The deepest entry of the walk cache that leads toward `va`: the level to read next and its table (log 8). -/
def walkStart (s : State) (f : Vf) (die va : Nat) : Nat × Nat :=
  (s.trans.wcache.filter fun e =>
      e.die == die && e.vf == f.id && e.va == va / 2 ^ 31 && e.gen == genOf f (slotOf va)).foldl
    (fun best e => if best.1 ≤ e.level then (e.level + 1, e.pte) else best) (1, f.root)

/-- Enter the upper-level entries of a walk in the die's walk cache (R191). -/
def noteWalk (die va : Nat) (f : Vf) (seen : List (Nat × Nat)) (s : State) : State :=
  let new := (seen.filter fun e => decide (e.1 ≤ 4)).map fun e =>
    (⟨die, f.id, e.1, va / 2 ^ 31, e.2, genOf f (slotOf va)⟩ : WEnt)
  let other := s.trans.wcache.filter fun e => !(new.any fun n =>
    n.die == e.die && n.vf == e.vf && n.level == e.level && n.va == e.va)
  let mine := keepLast 512 ((other ++ new).filter fun e => e.die == die)
  { s with trans := { s.trans with wcache := (other.filter fun e => e.die != die) ++ mine } }

/-- Enter a translation in the die's cache (R191). -/
def noteEntry (e : TEnt) (s : State) : State :=
  let other := s.trans.tcache.filter fun x => !(x.die == e.die && x.vf == e.vf && x.va == e.va)
  let mine := keepLast 8192 ((other.filter fun x => x.die == e.die) ++ [e])
  { s with trans := { s.trans with tcache := (other.filter fun x => x.die != e.die) ++ mine } }

/-- A compatibility-mode range that holds a VA (R196), matched as R187 matches. -/
def rangeOf (f : Vf) (va : Nat) : Option CRange :=
  f.ranges.find? fun r => decide (r.base ≤ va / 65536 ∧ va / 65536 ≤ r.limit)

/-- The address that lines and slots are named by: the VA, in compatibility mode the intermediate address (R196). -/
def tagAddr (f : Vf) (va : Nat) : Option Nat :=
  if f.compat then
    match rangeOf f va with
    | some r => some ((r.inter + (va / 65536 - r.base)) * 65536 + va % 65536)
    | none => none
  else some va

/-- Stage 1 of one address: the leaf that governs it, with the caches as the walk leaves them. DESIGN CHOICE (log 83): a range
register has no U bit, and a user access through it is allowed as through a leaf with U = 1. -/
def stage1 (s : State) (die : Nat) (f : Vf) (va : Nat) (k : AKind) (p : W64) : Res (Leaf × State) :=
  if f.compat then
    match rangeOf f va with
    | none => xFault 0 k false 0 p
    | some r => .ok (⟨(r.inter + (va / 65536 - r.base)) * 65536 + va % 65536, 65536, 0, r.r, r.w, r.x, true⟩, s)
  else do
    let st := walkStart s f die va
    let (l, seen) ← walkFrom s f va k p 6 st.1 st.2 []
    .ok (l, noteWalk die va f seen s)

/-- A translation that grants the access. -/
structure Xl where
  pa : Nat
  r : Bool
  w : Bool
  x : Bool
deriving DecidableEq, Repr

/-- A translation from the die's cache that grants the access: the page's generation is current, and in compatibility mode
the registers still name it by the address it was made for (R192, R196). -/
def cachedXl (s : State) (die : Nat) (f : Vf) (va : Nat) (user : Bool) (k : AKind) : Option Xl :=
  match tagAddr f va with
  | none => none
  | some ta =>
    match s.trans.tcache.find? fun e => e.die == die && e.vf == f.id && decide (e.va ≤ va ∧ va < e.va + e.size) &&
        e.tag + (va - e.va) == ta && e.gen == genOf f (slotOf ta) && k.granted e.r e.w e.x && (e.u || !user) with
    | some e => some ⟨e.pa + (va - e.va), e.r, e.w, e.x⟩
    | none => none

/-- The page size an entry of the cache covers: the leaf's, where one stage-2 entry maps the whole of it; else 64 KiB. -/
def entrySize (f : Vf) (l : Leaf) : Nat :=
  let lo := l.gpa / l.size * l.size / 65536
  let hi := lo + l.size / 65536 - 1
  match f.s2.toList.find? fun e => s2Valid e && decide (s2Base e ≤ hi ∧ lo ≤ s2Limit e) with
  | some e => if s2Base e ≤ lo ∧ hi ≤ s2Limit e ∧ s2Host e + (hi - s2Base e) < 2 ^ 32 then l.size else 65536
  | none => 65536

/-- Translate one address for a requester on comb die `die` (R184-R191). The stage-1 leaf's permissions are looked at
before stage 2 is; what governs is the AND of both. DESIGN CHOICE (log 83): a PERM that a range register of compatibility mode raises has
level 0, as its not-present fault has. -/
def translate (s : State) (die vf va : Nat) (user : Bool) (k : AKind) (p : W64) : Res (Xl × State) :=
  match s.trans.vf? vf with
  | none => xFault 0 k false 0 p
  | some f =>
    match cachedXl s die f va user k with
    | some x => .ok (x, s)
    | none => do
      let (l, s1) ← stage1 s die f va k p
      if !(k.granted l.r l.w l.x) || (user && !l.u) then xFault 1 k false l.level p
      else
        match s2Lookup f l.gpa with
        | none => xFault 0 k true 0 p
        | some h =>
          if !(k.granted (l.r && h.r) (l.w && h.w) (l.x && h.x)) then xFault 1 k true 0 p
          else
            let size := entrySize f l
            let ta := (tagAddr f va).getD va
            let e : TEnt := ⟨die, vf, va / size * size, size, h.pa - va % size, l.r && h.r, l.w && h.w, l.x && h.x, l.u,
              genOf f (slotOf ta), ta - va % size⟩
            .ok (⟨h.pa, e.r, e.w, e.x⟩, noteEntry e (noteResident vf s1))

/-! ### Cache slices (R178, R179, R192, R193) -/

/-- The ways a VF may fill in a cell's slice. -/
def wayMask (s : State) (vf cell : Nat) : BitVec 16 :=
  match s.fab.waymask.find? fun e => e.1 == vf && e.2.1 == cell with
  | some e => e.2.2
  | none => 0xFFFF

/-- A line's hallmark is current. -/
def lineCurrent (s : State) (l : CLine) : Bool :=
  match s.trans.vf? l.vf with
  | some f => l.gen == genOf f (slotOf l.va)
  | none => false

/-- The address a lookup is made by, or the fault of R196. -/
def lineAddr (s : State) (vf va : Nat) (k : AKind) (p : W64) : Res Nat :=
  match s.trans.vf? vf with
  | none => xFault 0 k false 0 p
  | some f =>
    match tagAddr f va with
    | none => xFault 0 k false 0 p
    | some a => .ok a

/-- A line of a list on which a lookup hits (R192): unit, VF and address match, the hallmark is current and grants. DESIGN CHOICE (log
95): a hallmark holds no U bit, so a user access hits a line that a supervisor's access filled from a page with U = 0. -/
def hitLine (s : State) (ls : List CLine) (unit vf ta : Nat) (k : AKind) : Option CLine :=
  ls.find? fun l => l.unit == unit && l.vf == vf && l.va == ta / 64 * 64 && lineCurrent s l && k.granted l.r l.w l.x

/-- The generation a fill of an address is stamped with (R192). -/
def genAt (s : State) (vf ta : Nat) : Nat :=
  match s.trans.vf? vf with
  | some f => genOf f (slotOf ta)
  | none => 0

def setOf (va : Nat) : Nat := fld va 6 7

/-- The way a fill takes (R178): an invalid or stale one, else the least recently used. -/
def chooseWay (s : State) (cell va : Nat) (mask : BitVec 16) : Option Nat :=
  let ways := (List.range 16).filter fun w => mask.getLsbD w
  let at' := fun (w : Nat) => s.fab.slices.find? fun l => l.unit == cell && l.way == w && setOf l.va == setOf va
  match ways.find? fun w => match at' w with
      | some l => !lineCurrent s l
      | none => true with
  | some w => some w
  | none =>
    (ways.foldl (fun (b : Option (Nat × Nat)) w =>
      let u := match at' w with
        | some l => l.used
        | none => 0
      match b with
      | some (u', w') => if u < u' then some (u, w) else some (u', w')
      | none => some (u, w)) none).map (·.2)

/-- Drop every copy of a physical line but one cell's, as a store takes ownership (R224); `none` drops all. -/
def dropOthers (pa : Nat) (keep : Option Nat) (s : State) : State :=
  setFab (fun f => { f with slices := f.slices.filter fun l =>
    l.pa != pa / 64 * 64 || keep == some l.unit }) s

/-- A write of no continuation, which every agent sees at once, takes its place: writes on its lines are performed first (R223). -/
def placeAll (a : Nat) (bs : List Byte) (s : State) : State :=
  setMem (fun m => { m.writeBy s.now ⟨m.nextMsg, s.cur, 12, none, none, 0, false⟩ true a bs with nextMsg := m.nextMsg + 1 }) s

/-! ### Hardware's own accesses through a VF's translation (R323, R403) -/

/-- Translate one address as a supervisor access of a VF made by the hive die, through the tables as they stand, with no
cache (R403); none where it faults. Either way it has loaded the VF's stage-2 entries (R190), and the table entries it read are
checked (R180). -/
def hwXl (vf va : Nat) (k : AKind) (s : State) : Option Nat × State :=
  let s0 := { s with trans := { s.trans with tcache := [], wcache := [] } }
  match translate s0 0 vf va false k (w64 (va % 2 ^ 63)) with
  | .ok (x, _) => (if reservedPa x.pa || dieLost s (homeOf x.pa).die then none else some x.pa, noteResident vf s)
  | .error e => (none, { noteResident vf s with mem := (e.left s).mem })

/-- Some byte of a physical range lies on a lost die. -/
def rangeLost (pa n : Nat) (s : State) : Bool :=
  decide (s.fab.lost ≠ 0) &&
    (List.range ((pa % 4096 + n + 4095) / 4096)).any fun i => dieLost s (homeOf ((pa / 4096 + i) * 4096)).die

/-- The physical pieces of a range of a VF, at most one for each 64 KiB page, and the state that their translation leaves. -/
def hwPieces (vf : Nat) (k : AKind) : Nat → Nat → Nat → State → Option (List (Nat × Nat)) × State
  | 0, _, _, s => (some [], s)
  | fuel + 1, va, n, s =>
    if n = 0 then (some [], s)
    else
      let m := Nat.min n (65536 - va % 65536)
      match hwXl vf va k s with
      | (none, s1) => (none, s1)
      | (some pa, s1) =>
        if rangeLost pa m s then (none, s1)
        else
          let r := hwPieces vf k fuel (va + m) (n - m) s1
          (r.1.map ((pa, m) :: ·), r.2)

/-- The pieces of a whole range. -/
def hwRange (vf va n : Nat) (k : AKind) (s : State) : Option (List (Nat × Nat)) × State :=
  hwPieces vf k (n / 65536 + 2) va n s

/-- Whether a whole range translates for the access. -/
def hwOk (vf va n : Nat) (k : AKind) (s : State) : Bool := (hwRange vf va n k s).1.isSome

/-- What the translation of a range, as hardware makes it, leaves behind (R180, R190). -/
def hwWalked (vf va n : Nat) (k : AKind) (s : State) : State := (hwRange vf va n k s).2

/-- A read of bytes of a VF as hardware makes it: the tables are walked, and failing lines are found out (R180, R190). -/
def hwNoted (vf va n : Nat) (s : State) : State :=
  match hwRange vf va n .read s with
  | (some ps, s') => ps.foldl (fun t p => setMem (·.noted p.1 p.2) t) s'
  | (none, s') => s'

/-- The bytes that a read of hardware returns, at their home; `hwNoted` is the state it leaves. -/
def hwRead (vf va n : Nat) (s : State) : Option (List Byte) :=
  (hwRange vf va n .read s).1.map (·.flatMap fun p => s.mem.bytes p.1 p.2)

/-- Write bytes over physical pieces. -/
def writePieces : List (Nat × Nat) → List Byte → State → State
  | [], _, s => s
  | (pa, n) :: ps, bs, s =>
    writePieces ps (bs.drop n) (dropOthers pa none (placeAll pa (bs.take n) s))

/-- Write bytes of a VF as hardware does, visible to every agent at once; none where a page does not grant it. -/
def hwWrite (vf va : Nat) (bs : List Byte) (s : State) : Option State :=
  match hwRange vf va bs.length .write s with
  | (some ps, s') => some (writePieces ps bs s')
  | (none, _) => none

/-- A write of hardware that may fail: what is not written stays, but the tables have been walked. -/
def hwTry (vf va : Nat) (bs : List Byte) (s : State) : State :=
  (hwWrite vf va bs s).getD (hwWalked vf va bs.length .write s)

/-! ### Credits of events (R240, R241) -/

def imageOf (k : Key) (s : State) : Option Ctx :=
  (s.sch.images.find? fun i => i.vf == k.vf && i.rva == k.rva).map (·.ctx)

/-- The counters' save area (R241): EVC0-15, then EVSEL0-15. -/
def Ctx.counters (c : Ctx) : List Byte :=
  (c.sys.evc.toList.flatMap fun e => bytesOf 8 e.toNat) ++ (c.sys.evsel.toList.flatMap fun e => bytesOf 2 e.toNat)

/-- Write the counters of a record that is not running to its counter area, as a late credit does (R241). -/
def syncCounters (k : Key) (s : State) : State :=
  let run := (s.live && s.ctx.info.key == some k) || s.parked.any fun p => p.2.info.key == some k
  match run, imageOf k s with
  | false, some c => hwTry k.vf c.info.ctrptr.toNat c.counters s
  | _, _ => s

/-- A credit whose request was in flight at an EXIT is added to its slots in the counter area (R241). -/
def creditArea (vf ctr : Nat) (sel : Vector (BitVec 16) 16) (code n : Nat) (s : State) : State :=
  (List.range 16).foldl (fun s i =>
    if (sel.toList[i]?).any fun e => fld e.toNat 0 8 == code then
      match hwRead vf (ctr + 8 * i) 8 s with
      | some b => hwTry vf (ctr + 8 * i) (bytesOf 8 ((ofBytes b + n) % 2 ^ 64)) (hwNoted vf (ctr + 8 * i) 8 s)
      | none => hwNoted vf (ctr + 8 * i) 8 s
    else s) s

/-- Credit an event to a context wherever it is (R240). -/
def creditEvent (k : Key) (code n : Nat) (s : State) : State :=
  if s.ctx.ownerKey == k then addEvent code n s else syncCounters k (onOwner k (fun c => c.addEvent code n) s)

/-- Credit an event to a context wherever it is, by the selectors its request issued under (R241). -/
def creditBy (k : Key) (sel : Vector (BitVec 16) 16) (code n : Nat) (s : State) : State :=
  if s.ctx.ownerKey == k then { s with ctx := s.ctx.addEventBy sel code n }
  else syncCounters k (onOwner k (fun c => c.addEventBy sel code n) s)

/-- How the events of a request are credited: by code and count. -/
abbrev Credit := Nat → Nat → State → State

/-- The acting continuation's own request. -/
def ownCredit (s : State) : Credit := creditBy s.ctx.ownerKey s.ctx.sys.evsel

/-- A queued miss: to the counter area of an asker that has exited. -/
def MissWait.credit (w : MissWait) : Credit :=
  match w.area with
  | some ctr => creditArea w.key.vf ctr w.sel
  | none => creditBy w.key w.sel

/-- The events of a read of `n` bytes of the line at `pa` (R240): the bytes an HBM stack sends, where no slice has the line, and the way
from its home. -/
def readEvents (cr : Credit) (asker : Home) (pa n : Nat) (s : State) : State :=
  let hbm := match homeOf pa with
    | .stack _ => !(s.fab.slices.any fun l => l.pa == pa)
    | _ => false
  cr 0x09 (flits s asker (homeOf pa) n) (if hbm then cr 0x0A n s else s)

/-- The events of a line's fill. -/
def fillEvents (cr : Credit) (asker : Home) (pa : Nat) (s : State) : State := readEvents cr asker pa 64 s

/-- The physical addresses of the table entries that a walk reads, first to last, until one ends it. -/
def walkReads (s : State) (f : Vf) (va : Nat) : Nat → Nat → Nat → List Nat
  | 0, _, _ => []
  | fuel + 1, level, table =>
    match s2Lookup f (table + 8 * lvlIndex level va) with
    | none => []
    | some h =>
      if !h.r || reservedPa h.pa || dieLost s (homeOf h.pa).die then []
      else
        let pte := ofBytes (s.mem.bytes h.pa 8)
        h.pa :: (if s.mem.anyPoison h.pa 8 then [] else match pteCase level pte va with
          | .next t => walkReads s f va fuel (level + 1) t
          | _ => [])

/-- A walk for a context reads its table entries at their homes: 8 bytes each, counted as if the walker stood at the asking core
(R240, log 18). -/
def walkEvents (cr : Credit) (asker : Home) (die vf va : Nat) (s : State) : State :=
  match s.trans.vf? vf with
  | none => s
  | some f =>
    if f.compat then s
    else
      let st := walkStart s f die va
      (walkReads s f va 6 st.1 st.2).foldl (fun t pa => readEvents cr asker (pa / 64 * 64) 8 t) s

/-- Dirty lines are checked on their way home (R180). -/
def sentHome (ls : List CLine) (s : State) : State :=
  (ls.filter (·.dirty)).foldl (fun t l => setMem (·.noted l.pa 1) t) s

/-- The way home of dirty lines of a cell's slice, for the context that sends them (R240). -/
def homeEvents (cr : Credit) (cell : Nat) (ls : List CLine) (s : State) : State :=
  (ls.filter (·.dirty)).foldl (fun t l => cr 0x09 (flits t (.core (cell * 4)) (homeOf l.pa) 64) t) s

/-- Fill a line into a slice under the way mask that stood at the miss (R178, R179, R193), for a context. A line of the slice
at the same physical address is taken over in its way; with an empty mask nothing is, but the VF's own line is given its new
hallmark in place (R192). The line is checked on its way, and a dirty one that leaves for it goes home (R180, R193). DESIGN CHOICE
(log 105): a line of another VF that is taken over is not counted as evicted (0x06). -/
def fillSlice (cell : Nat) (mask : BitVec 16) (cr : Credit) (line : CLine) (s0 : State) : State :=
  let s := setMem (·.noted line.pa 1) s0
  let same := s.fab.slices.find? fun l => l.unit == cell && l.pa == line.pa
  let way := match same with
    | some l => if mask = 0 ∧ ¬(l.vf = line.vf ∧ l.va = line.va) then none else some l.way
    | none => chooseWay s cell line.va mask
  match way with
  | none => s
  | some w =>
    let victim := s.fab.slices.find? fun l => l.unit == cell && l.way == w && setOf l.va == setOf line.va
    let s1 := match victim with
      | some v =>
        if v.vf != line.vf && same.isNone then
          match v.owner with
          | some k => creditEvent k 0x06 1 s
          | none => s
        else s
      | none => s
    let gone := if same.isNone then victim.toList else []
    let s1 := homeEvents cr cell gone (sentHome gone s1)
    let rest := s1.fab.slices.filter fun l =>
      !(l.unit == cell && ((l.way == w && setOf l.va == setOf line.va) || l.pa == line.pa))
    let dirty := match same with
      | some l => l.dirty || line.dirty
      | none => line.dirty
    cr 0x05 1 (setFab (fun f => { f with
      slices := rest ++ [{ line with unit := cell, way := w, used := f.useClock, dirty := dirty }]
      useClock := f.useClock + 1 }) s1)

/-- A miss joins the die's entry that names its page, or becomes a new entry at the end (R191). Entries past the queue's room
are held at their slices: none is lost. -/
def addMiss (die vf page : Nat) (w : MissWait) (s : State) : State :=
  let named := fun (m : Miss) => m.die == die && m.vf == vf && m.page == page
  let ms := s.trans.misses
  let new := if ms.any named then
      ms.map fun m => if named m && !m.waits.contains w then { m with waits := m.waits ++ [w] } else m
    else ms ++ [⟨die, vf, page, [w]⟩]
  { s with trans := { s.trans with misses := new } }

/-- The entries of a die's queue, oldest first: at most 1,024, and at most 512 of one VF while others wait (R191). -/
def queuedMisses (die : Nat) (s : State) : List Miss :=
  let ms := s.trans.misses.filter fun m => m.die == die
  let many := ms.any fun m => ms.any fun n => m.vf != n.vf
  ms.foldl (fun q m =>
    if decide (q.length < 1024) && (!many || decide ((q.filter fun n => n.vf == m.vf).length < 512)) then q ++ [m] else q) []

/-- The miss a walker of the die takes next: VFs in turn after the one served last, oldest first within a VF (R191). -/
def nextMiss (die : Nat) (s : State) : Option Miss :=
  let q := queuedMisses die s
  let last := ((s.trans.served.find? fun e => e.1 == die).map (·.2)).getD 0
  let least := fun (l : List Nat) => l.foldl (fun (b : Option Nat) v => match b with
    | some u => if v < u then some v else some u
    | none => some v) none
  let vfs := q.map (·.vf)
  match (least (vfs.filter fun v => decide (last < v))).or (least vfs) with
  | some vf => q.find? fun m => m.vf == vf
  | none => none

/-- The line one waiting cell missed is filled, as its own read of the page grants it, with the events of a fill; a fault drops
it, and the slice of a cell that was retired meanwhile takes none (R182, R191, R193, R216, R240). -/
def fillWait (die vf : Nat) (w : MissWait) (s0 : State) : State :=
  let s := if ((s0.trans.vf? vf).bind fun f => cachedXl s0 die f w.va w.user .read).isSome then s0
    else walkEvents w.credit (.core (w.cell * 4)) die vf w.va s0
  match lineAddr s vf w.va .read 0, translate s die vf w.va w.user .read 0 with
  | .ok ta, .ok (x, t) =>
    if reservedPa x.pa || dieLost s (homeOf x.pa).die || w.mask == 0 || s.fab.retired.contains w.cell then t
    else
      let pa := x.pa / 64 * 64
      fillSlice w.cell w.mask w.credit
        ⟨w.cell, 0, vf, ta / 64 * 64, pa, genAt s vf ta, x.r, x.w, x.x, false, 0, some w.key⟩
        (fillEvents w.credit (.core (w.cell * 4)) pa t)
  | .ok _, .error e => e.left s
  | .error _, _ => s

/-- A walker of a die takes a miss from the queue, and every cell that waits for the page is served by that walk (R191). -/
def serveMiss (die : Nat) (m : Miss) (s : State) : State :=
  let s1 := { s with trans := { s.trans with
    misses := s.trans.misses.erase m
    served := (die, m.vf) :: s.trans.served.filter fun e => e.1 != die } }
  m.waits.foldl (fun t w => fillWait die m.vf w t) s1

/-- The walkers of a die take its misses in turn, the VFs' stage-2 entries loaded as they are needed, up to the miss on a page. -/
def servePage (die vf page : Nat) : Nat → State → State
  | 0, s => s
  | fuel + 1, s =>
    match nextMiss die s with
    | none => s
    | some m =>
      let t := serveMiss die m (noteResident m.vf s)
      if m.vf = vf ∧ m.page = page then t else servePage die vf page fuel t

/-- The miss of an access, a fetch or an engine joins its die's queue, and its turn comes (R191, log 8). -/
def queueMiss (die vf va : Nat) (s : State) : State :=
  let page := va / 65536
  let named := fun (m : Miss) => m.die == die && m.vf == vf && m.page == page
  let ms := s.trans.misses
  servePage die vf page (ms.length + 1)
    { s with trans := { s.trans with misses := if ms.any named then ms else ms ++ [⟨die, vf, page, []⟩] } }

/-- Translate one address for an agent at `core`, from the die's cache or by a miss that waits for its turn, which a fault does not undo
(R190, R191). `cr` credits the events of the walk's reads to whom they are due (R240, log 18). -/
def translateFor (cr : Credit) (s : State) (core die vf va : Nat) (user : Bool) (k : AKind) (p : W64) : Res (Xl × State) :=
  match (s.trans.vf? vf).bind fun f => cachedXl s die f va user k with
  | some x => .ok (x, s)
  | none =>
    let q := queueMiss die vf va s
    let t := walkEvents cr (.core core) die vf va q
    keepWalk t (translate t die vf va user k p)

/-- The same for the acting continuation. -/
def translateNow (s : State) (die vf va : Nat) (user : Bool) (k : AKind) (p : W64) : Res (Xl × State) :=
  translateFor (ownCredit s) s s.cur die vf va user k p

/-- Mark a line used now. -/
def touchLine (l : CLine) (s : State) : State :=
  setFab (fun f => { f with
    slices := f.slices.map fun x => if x.unit == l.unit && x.way == l.way && x.va == l.va && x.vf == l.vf then
      { x with used := f.useClock } else x
    useClock := f.useClock + 1 }) s

/-- A store of a cell to a global line takes ownership of it: other copies are dropped, and its own holds a value not yet
written home (R224, R230). -/
def ownLine (a cell : Nat) (s : State) : State :=
  if isGlobal a then
    let t := dropOthers a (some cell) s
    setFab (fun f => { f with slices := f.slices.map fun l => if l.pa == a / 64 * 64 then { l with dirty := true } else l }) t
  else s

/-- The access of a core or engine of a cell to a global address through the slice: a hit on a current hallmark that
grants it, or a miss, which translates and fills (R192). `fill` is false for a package- or system-scope AMO, whose line
is taken to the hive die, from the slice that has it or from its home (R240). -/
def sliceAccess (cell vf va : Nat) (user : Bool) (k : AKind) (fill : Bool) (p : W64) (s : State) : Res (Nat × State) := do
  let ta ← lineAddr s vf va k p
  match hitLine s s.fab.slices cell vf ta k with
  | some l =>
    if reservedPa l.pa then .error (.fault (.reservedAddress l.pa))
    else
      alive (homeOf l.pa) p s
      let t := addEvent 0x03 1 (touchLine l s)
      .ok (l.pa + va % 64, if fill then t else ownCredit s 0x09 (flits s (.core (cell * 4)) .hive 64) t)
  | none =>
    let (x, s1) ← translateNow s (cell / 256) vf va user k p
    if reservedPa x.pa then .error (.fault (.reservedAddress x.pa))
    else
      keepWalk s1 (alive (homeOf x.pa) p s)
      let pa := x.pa / 64 * 64
      let s4 := fillEvents (ownCredit s) (if fill then .core (cell * 4) else .hive) pa (addEvent 0x04 1 s1)
      let new : CLine := ⟨cell, 0, vf, ta / 64 * 64, pa, genAt s vf ta, x.r, x.w, x.x, false, 0, s.ctx.info.key⟩
      .ok (x.pa, if fill then fillSlice cell (wayMask s vf cell) (ownCredit s) new s4 else s4)

/-- Lines of a VF in a cell's slice (R179). -/
def occupy (s : State) (vf cell : Nat) : Nat :=
  (s.fab.slices.filter fun l => l.unit == cell && l.vf == vf).length

/-! ### Instruction caches (R9, R192; organisation log 7) -/

/-- Translate a fetch through the core's instruction cache of 256 lines. DESIGN CHOICE (log 7): with the cache full, the line
filled longest ago leaves; a hit does not make its line younger. -/
def fetchXl (core vf va : Nat) (user : Bool) (p : W64) (s : State) : Res (Nat × State) := do
  let ta ← lineAddr s vf va .fetch p
  match hitLine s s.fab.icache core vf ta .fetch with
  | some l =>
    alive (homeOf l.pa) p s
    .ok (l.pa + va % 64, s)
  | none =>
    let (x, s0) ← translateNow s (dieOf core) vf va user .fetch p
    if reservedPa x.pa then .error (.fault (.reservedAddress x.pa))
    else
      keepWalk s0 (alive (homeOf x.pa) p s)
      let s1 := fillEvents (ownCredit s) (.core core) (x.pa / 64 * 64) s0
      let new : CLine := ⟨core, 0, vf, ta / 64 * 64, x.pa / 64 * 64, genAt s vf ta, x.r, x.w, x.x, false, 0,
        s.ctx.info.key⟩
      let mine := (s1.fab.icache.filter fun l => l.unit == core && !(l.vf == vf && l.va == new.va)) ++ [new]
      .ok (x.pa, setFab (fun f => { f with
        icache := (f.icache.filter fun l => l.unit != core) ++ keepLast 256 mine }) s1)

end Sys2Proof.Machine
end

