-- ==== Sys2Proof/Machine/Access.lean ====
section
/-!
DEFINITION. The common access sequence: effective addresses, windows, the spill window, tombstones, charges, dies touched,
DIST, and the values an access reads and stores (R164-R177, R197-R206, R234-R239, R402).
-/

namespace Sys2Proof.Machine

/-! ### Pointers (R113, R165) -/

def isCoord (p : W64) : Bool := p.getLsbD 63
def ptrDie (p : W64) : Nat := fld p.toNat 34 3
def ptrY (p : W64) : Nat := fld p.toNat 30 4
def ptrX (p : W64) : Nat := fld p.toNat 26 4
def ptrRank (p : W64) : Nat := fld p.toNat 24 2
def ptrWin (p : W64) : Nat := fld p.toNat 20 4
def ptrOff (p : W64) : Nat := fld p.toNat 0 20

/-- A pointer with another offset field; one that does not fit sets bit 62 (R157, R176). -/
def ptrWithOff (p : W64) (o : Nat) (bad : Bool) : W64 :=
  w64 (p.toNat / 2 ^ 20 * 2 ^ 20 + o % 2 ^ 20) ||| (if bad then (1 : W64) <<< 62 else 0)

/-- The address a plain pointer names (R165). -/
def plainVa (ax : BitVec 9) (p : W64) : Nat := ax.toNat * 2 ^ 63 + p.toNat % 2 ^ 63

/-- The pointer of a storage byte of a scratchpad in a VF's frame, through window `w` at offset `o`. -/
def mkPtr (f : Frame) (core w o : Nat) : W64 :=
  let c := f.coords (cellOf core)
  w64 (2 ^ 63 + coordBits c.1 c.2.1 c.2.2 (rankOf core) * 2 ^ 24 + w % 16 * 2 ^ 20 + o % 2 ^ 20)

/-- The effective address of a scalar access (R197). -/
def formEa (p : W64) (disp : Int) : Res W64 :=
  if isCoord p then
    let o := (ptrOff p : Int) + disp
    if o < 0 ∨ 2 ^ 20 ≤ o then raise cCOORD p
    else .ok (ptrWithOff p o.toNat false)
  else .ok (w64 (((p.toNat % 2 ^ 63 : Nat) + disp) % 2 ^ 63).toNat)

/-! ### Windows (R168) -/

/-- Window bytes for each stored byte. -/
def winScale (w : Nat) : Nat :=
  match w with
  | 1 => 4
  | 2 => 2
  | 3 => 2
  | 4 => 2
  | 5 => 4
  | 6 => 8
  | 7 => 4
  | 8 => 8
  | _ => 1

def winEnd (w : Nat) : Nat :=
  match w with
  | 0 => 0x30000
  | 1 => 0xC0000
  | 2 => 0x60000
  | 3 => 0x60000
  | 4 => 0x60000
  | 5 => 0xC0000
  | 6 => 0x100000
  | 7 => 0xC0000
  | 8 => 0x100000
  | 14 => 0x600
  | 15 => 0x100000
  | _ => 0

def winRaw (w : Nat) : Bool := decide (w = 0) || decide (w = 14) || decide (w = 15)
def winReserved (w : Nat) : Bool := decide (9 ≤ w ∧ w ≤ 13)

/-- The element sizes of a window (R168). -/
def winSizeOk (w size : Nat) : Bool :=
  if winRaw w then decide (size = 1 ∨ size = 2 ∨ size = 4 ∨ size = 8) else decide (size = 4)

/-- The bytes of storage an access of `size` bytes touches; a nibble rewrites its byte (R169). -/
def winBytes (w size : Nat) : Nat :=
  match w with
  | 2 => 2
  | 3 => 2
  | 4 => 2
  | _ => if winRaw w then size else 1

/-! ### Resolution (R166, R170, R176, R402) -/

/-- What is asked of an address: its size, the kind of access, and for the larger accesses of R402 whether window 15 is
named by their rule; `any` is a range, which is not held to element sizes and alignment. -/
inductive Shape where
  | scalar
  | big (w15 : Bool)
  | any
deriving DecidableEq, Repr

/-- A resolved access: its storage, its home, the pointer of a page that has moved, a page that is lost. -/
structure Target where
  place : Place
  home : Home
  stale : Option W64
  lost : Bool
deriving DecidableEq, Repr

/-- A window size and alignment test (R166, R402). -/
def sizeCheck (sh : Shape) (w o size : Nat) (p : W64) : Res Unit :=
  match sh with
  | .scalar => must (winSizeOk w size && decide (o % size = 0)) cMISALIGN p
  | .big w15 =>
    if w = 0 ∨ (w = 15 ∧ w15) then must (decide (o % size = 0)) cMISALIGN p
    else raise cCOORD p
  | .any => .ok ()

/-- A page of a scratchpad that is lost stops a read or an AMO (R182, R365). -/
def lostCheck (k : AKind) (lost : Bool) (p : W64) : Res Unit :=
  if lost && (k == .read || k == .amo) then .error (.trap cECC 2 p none) else .ok ()

/-- A global access of a core of a cell to a virtual address that pointer `p` names (R165, R198). -/
def resolveVa (cell va : Nat) (p : W64) (k : AKind) (fill : Bool) (s : State) : Res (Target × State) := do
  let (pa, s1) ← sliceAccess cell s.vfid va (!s.ctx.st.mode) k fill p s
  .ok (⟨⟨pa, 0, false, 0, p⟩, homeOf pa, none, false⟩, s1)

/-- A global access at the plain pointer `p` of the acting core (R165, R198). -/
def resolveGlobal (p : W64) (size : Nat) (k : AKind) (sh : Shape) (fill : Bool) (s : State) : Res (Target × State) := do
  match sh with
  | .any => .ok ()
  | _ => must (decide (p.toNat % size = 0)) cMISALIGN p
  resolveVa (cellOf s.cur) (plainVa s.ctx.sys.ax p) p k fill s

/-- The core HOME names, when its cell lies in the frame (R170). -/
def homeCore (s : State) : Option Nat :=
  let h := s.ctx.sys.home.toNat
  let f := vfFrame s s.vfid
  if f.holds (fld h 34 3) (fld h 30 4) (fld h 26 4) then
    some (f.cell (fld h 34 3) (fld h 30 4) (fld h 26 4) * 4 + fld h 24 2)
  else none

/-- A page of a scratchpad byte is lost (R182). -/
def addrLost (a : Nat) (s : State) : Bool :=
  !isGlobal a && decide (a < episodeBase) && pageLost s (scratchCore a) (scratchByte a / 4096)

/-- A window-15 access (R170). The carve-out of a HOME on a lost die counts as lost with it, wherever its page has moved
(R362). DESIGN CHOICE (log 85): OVFPTR + (o - SPILLSZ) wraps modulo 2^63, as plain pointers do. -/
def resolveSpill (p : W64) (size : Nat) (k : AKind) (sh : Shape) (fill : Bool) (s : State) : Res (Target × State) := do
  let o := ptrOff p
  let sp := s.ctx.sys.spillsz.toNat
  if o + size ≤ sp then
    match homeCore s with
    | none => raise cCOORD p
    | some core =>
      let b := 0x30000 - sp + o
      must (ownsPage s s.vfid core (b / 4096)) cCOORD p
      let a := forward s (scratchAddr core b)
      let lost := addrLost a s
      alive (.core core) p s
      alive (.core (scratchCore a)) p s
      lostCheck k lost p
      .ok (⟨⟨a, 15, false, 0, p⟩, .core (scratchCore a), none, lost⟩, s)
  else if sp ≤ o then
    must (!s.ctx.sys.ovfptr.getLsbD 63) cCOORD p
    resolveGlobal (w64 ((s.ctx.sys.ovfptr.toNat + (o - sp)) % 2 ^ 63)) size k sh fill s
  else raise cMISALIGN p

/-- The checks of R166 that come before the storage is looked at. -/
def coordHead (p : W64) (s : State) : Res Unit := do
  let w := ptrWin p
  let f := vfFrame s s.vfid
  must (decide (fld p.toNat 37 26 = 0)) cCOORD p
  must (decide (w = 15) || f.holds (ptrDie p) (ptrY p) (ptrX p)) cCOORD p
  must (!winReserved w) cCOORD p
  must (!(decide (w = 14) && !s.ctx.st.mode)) cPRIV p

/-- The core a coordinate pointer inside the frame names. -/
def ptrCore (p : W64) (s : State) : Nat :=
  (vfFrame s s.vfid).cell (ptrDie p) (ptrY p) (ptrX p) * 4 + ptrRank p

/-- A coordinate access (R166). -/
def resolveCoord (p : W64) (size : Nat) (k : AKind) (sh : Shape) (fill : Bool) (s : State) : Res (Target × State) := do
  coordHead p s
  let w := ptrWin p
  let o := ptrOff p
  sizeCheck sh w o size p
  must (decide (o + size ≤ winEnd w)) cCOORD p
  if w = 15 then resolveSpill p size k sh fill s
  else
    let core := ptrCore p s
    let b := if w = 14 then 128 * o else o / winScale w
    let page := b / 4096
    must (ownsPage s s.vfid core page) cCOORD p
    alive (.core core) p s
    let hi := decide (w = 6 ∨ w = 8) && decide (o / 4 % 2 = 1)
    match tombOf s core page with
    | some t =>
      if w = 14 then
        let lost := pageLost s t.newCore t.newPage
        lostCheck k lost p
        .ok (⟨⟨scratchAddr t.newCore (t.newPage * 4096 + b % 4096), w, hi, 0, p⟩, .core core, none, lost⟩, s)
      else
        let o' : Int := (o : Int) + ((t.newPage : Int) - (page : Int)) * 4096 * (winScale w : Int)
        let bad := decide (o' < 0 ∨ (winEnd w : Int) < o' + size)
        let np := ptrWithOff (mkPtr (vfFrame s s.vfid) t.newCore w 0) (o' % 2 ^ 20).toNat bad
        .ok (⟨⟨scratchAddr core b, w, hi, 0, p⟩, .core core, some np, false⟩, s)
    | none =>
      let lost := pageLost s core page
      lostCheck k lost p
      .ok (⟨⟨scratchAddr core b, w, hi, 0, p⟩, .core core, none, lost⟩, s)

/-- Resolution of one address (R165, R166, R198). -/
def resolve (ea : W64) (size : Nat) (k : AKind) (sh : Shape) (fill : Bool) (s : State) : Res (Target × State) :=
  if isCoord ea then resolveCoord ea size k sh fill s else resolveGlobal ea size k sh fill s

/-! ### Group descriptors (R72) -/

/-- The storage address of the descriptor of the element at window offset `o` of window 5 or 6 of a VF (R72). The table
coordinate's window field is not read: its offset names a storage byte (log 20). DESIGN CHOICE (log 86): R72 names the frame
and the end of storage only, so a table in a page of another VF is read without a test of its owner; and a table page that
was relocated is read at its new place, with no STALE. -/
def descIn (vf w o : Nat) (wdesc : Nat) (s : State) : Option Nat :=
  let code := fld wdesc 37 3
  let f := vfFrame s vf
  let g := if code = 0 then 48 else if code = 1 then 96 else 192
  let off := fld wdesc 0 20 + 4 * (o / 4 / g)
  if w = 5 ∨ w = 6 then
    if code ≤ 2 ∧ f.holds (fld wdesc 34 3) (fld wdesc 30 4) (fld wdesc 26 4) ∧ off + 4 ≤ 0x30000 then
      some (forward s (scratchAddr (f.cell (fld wdesc 34 3) (fld wdesc 30 4) (fld wdesc 26 4) * 4 + fld wdesc 24 2) off))
    else none
  else some 0

/-- The descriptor of an element of the acting VF (R72). -/
def descAddr (w o : Nat) (wdesc : Nat) (s : State) : Option Nat := descIn s.vfid w o wdesc s

/-- The window's own rule: windows 5 and 6 need their descriptor (R72). -/
def withDesc (t : Target) (p : W64) (s : State) : Res Target :=
  let w := t.place.win
  let wd := if w = 5 then s.ctx.sys.wdesc5.toNat else s.ctx.sys.wdesc6.toNat
  match descAddr w (ptrOff p) wd s with
  | some a => .ok { t with place := { t.place with desc := a } }
  | none => raise cCOORD p

/-! ### Charge and dies (R198, R199, R234) -/

/-- The charge of `n` bytes of window space whose home is `h`, for the acting core (R234). -/
def accessCharge (s : State) (h : Home) (n : Nat) : Nat := chargeOf s (.core s.cur) h n

/-- The dies an access touches (R199). -/
def touchHome (h : Home) (s : State) : State := touch (diesOf (dieOf s.cur) h) s

/-- The way of the group descriptor that an element of the acting core reads (R240). -/
def descFlits (core : Nat) (p : Place) (s : State) : State :=
  if p.win = 5 ∨ p.win = 6 then addEvent 0x09 (flits s (.core core) (homeOf p.desc) 4) s else s

/-- The steps of R198 up to the access: resolution, the instruction's own rules, charge, TDMASK. A moved page is
charged to the tombstone's cell, and STALE keeps charge and dies; another trap keeps only what the translation's miss has left. -/
def issueAccess (ea : W64) (size : Nat) (k : AKind) (sh : Shape) (fill : Bool) (own : Target → Res Unit) (s : State) :
    Res (Target × State) := do
  let (t, s1) ← resolve ea size k sh fill s
  match t.stale with
  | some np =>
    let s2 ← keepWalk s1 (charge (accessCharge s t.home size) s1)
    .error (.trap cSTALE 0 np (some (touchHome t.home s2)))
  | none =>
    keepWalk s1 (own t)
    let t ← keepWalk s1 (withDesc t ea s)
    let s2 ← keepWalk s1 (charge (accessCharge s t.home size) s1)
    let s3 := descFlits s.cur t.place (touchHome t.home s2)
    .ok (t, if isGlobal t.place.addr then s3
      else addEvent 0x09 (flits s (.core s.cur) t.home size) s3)

/-! ### Overlaps with the thread's own accesses (R160, R173, R200) -/

/-- A range of storage bytes and of tag granules that an access reads or writes. -/
structure Span where
  a : Nat
  n : Nat
  data : Bool
  tags : Bool
deriving DecidableEq, Repr

def rangesMeet (a n b m : Nat) : Bool := decide (a < b + m) && decide (b < a + n)

/-- Two spans overlap: in data bytes, or in the granules whose tags they touch (R173). -/
def Span.meets (x y : Span) : Bool :=
  (x.data && y.data && rangesMeet x.a x.n y.a y.n) ||
    (x.tags && y.tags && rangesMeet (x.a / 16) ((x.a + x.n + 15) / 16 - x.a / 16) (y.a / 16)
      ((y.a + y.n + 15) / 16 - y.a / 16))

/-- What a queued store touches: a data store also clears tags; a window-14 store writes 8 granules for each byte. -/
def StoreEnt.span (s : State) (e : StoreEnt) : Span :=
  match e.kind with
  | .tagBits => ⟨forward s e.addr, 128 * e.bytes.length, false, true⟩
  | _ => ⟨forward s e.addr, e.bytes.length, true, true⟩

/-- The acting core's queued stores, oldest first. -/
def ownStores (s : State) : List StoreEnt := s.mem.stores.filter fun e => e.core == s.cur && e.held.isNone

/-- A queued vector instruction of the acting core touches the span: the bytes of an element, or of the group descriptor it
reads (R72, R160 item 3). -/
def vecMeets (x : Span) (s : State) : Bool :=
  s.ctx.vec.q.any fun t => t.elems.any fun e =>
    x.meets ⟨forward s e.2.addr, winBytes e.2.win 4, true, true⟩ ||
      decide (e.2.win = 5 ∨ e.2.win = 6) && x.meets ⟨forward s e.2.desc, 4, true, true⟩

/-- The span of an access at a place. -/
def Place.span (p : Place) (size : Nat) : Span :=
  if p.win = 14 then ⟨p.addr, 128 * size, false, true⟩ else ⟨p.addr, winBytes p.win size, true, false⟩

/-- A scalar memory access waits for a pending AMO of the thread (R209) and for overlapping vector accesses (R160). DESIGN CHOICE
(log 101): R160 speaks of the bytes an access accesses, so a window-5 or window-6 access does not wait for a queued vector store
to the group descriptor that governs it. -/
def accessWaits (x : Span) (s : State) : Res Unit :=
  if s.ctx.amo.isSome || vecMeets x s then wait else .ok ()

/-! ### Reading (R200, R201, R224) -/

/-- The stores the agents of a die see among `n` bytes from `a` before their place in coherence order, oldest first. -/
def shownStores (die a n : Nat) (s : State) : List StoreEnt :=
  (s.mem.stores.filter fun e =>
    e.shown.isSome && dieOf e.core == die && rangesMeet a n e.addr e.bytes.length).mergeSort
      fun x y => decide (x.shown.getD 0 ≤ y.shown.getD 0)

/-- Byte `x` under some stores, newest last. -/
def shownByte (es : List StoreEnt) (x : Nat) (v : Byte) : Byte :=
  es.foldl (fun v e => if e.addr ≤ x ∧ x < e.addr + e.bytes.length then e.bytes.getD (x - e.addr) 0 else v) v

/-- The tag of granule `g` under some stores. -/
def shownTag (es : List StoreEnt) (g : Nat) (t : Bool) : Bool :=
  es.foldl (fun t e => if rangesMeet (g * 16) 16 e.addr e.bytes.length then
    (match e.kind with
     | .cap b => b
     | _ => false) else t) t

/-- An agent of a die has read writes that its die had not read: a clean copy from before one of them leaves the die's slices with it,
but for the line of cell `own` that the read went through, which holds what the read returned (R224, R230, log 10). `old` are the writes
before the read. -/
def dropSeen (die : Nat) (own : Option Nat) (old : List WriteMsg) (s : State) : State :=
  let new := fun (line : Nat) => s.mem.msgs.any fun w => w.onLines (line * 64) 1 && w.freshOn die line &&
    old.any fun v => v.id == w.id && v.onLines (line * 64) 1 && !v.freshOn die line
  let gone := fun (l : CLine) => !l.dirty && l.unit / 256 == die && own != some l.unit && new (l.pa / 64)
  setFab (fun f => { f with slices := f.slices.filter fun l => !gone l }) s

/-- A read by an agent of a die, of at most 16 bytes of one granule of global memory (R200, R210, R224). Where it returns a
store that its die alone sees, it returns every write that has its place as well. A continuation `k` reads through its cell's slice,
a copy engine through none. -/
def readDie (die : Nat) (k : Option Key) (a n : Nat) (s : State) : List Byte × Bool × State :=
  let own := k.map fun _ => cellOf s.cur
  match shownStores die a n s with
  | [] =>
    if s.mem.msgs.isEmpty then (s.mem.bytes a n, s.mem.tag a, s)
    else
      let r := s.mem.readAtom die s.now s.freeNo k a n
      (r.1, r.2.1, dropSeen die own s.mem.msgs { s with mem := r.2.2, freeNo := s.freeNo + 1 })
  | es =>
    let m := s.mem.performLines (fun w => w.die != die) s.now a n
    let old := s.mem.bytes a n
    let bs := (List.range n).map fun i => shownByte es (a + i) (old.getD i 0)
    let seen := m.msgs.map fun w => if w.touches a n then (w.mark die a n).cover die k else w
    let cover := fun (e : StoreEnt) => match k with
      | some k => if es.any (·.id == e.id) && !e.covers.contains k then { e with covers := k :: e.covers } else e
      | none => e
    (bs, shownTag es (a / 16) (s.mem.tag a),
      dropSeen die own s.mem.msgs { s with mem := { m with msgs := seen, stores := m.stores.map cover } })

/-- A read of global memory by an agent of a die, one atomic read for each granule. -/
def readGlobal (die : Nat) (k : Option Key) (a n : Nat) (s : State) : List Byte × State :=
  if s.mem.msgs.isEmpty && (shownStores die a n s).isEmpty then (s.mem.bytes a n, s)
  else (granules a n).foldl (fun acc p =>
    let r := readDie die k p.1 p.2 acc.2
    (acc.1 ++ r.1, r.2.2)) ([], s)

/-- The bytes an access of the acting core reads in memory. -/
def readMem (a n : Nat) (s : State) : List Byte × State :=
  if isGlobal a then readGlobal (dieOf s.cur) (some s.ctx.ownerKey) a n s else (s.mem.bytes a n, s)

/-! ### Writing (R200, R223, R224) -/

/-- A write of a continuation takes its place in coherence order; `k` names the continuation whose releases cover it from the
start, `ea` the pointer that names its bytes. -/
def placeWrite (core : Nat) (o : Key) (k : Option Key) (ea : W64) (g : Bool) (a : Nat) (bs : List Byte) (s : State) : State :=
  setMem (fun m => { m.writeBy s.now ⟨m.nextMsg, core, dieOf core, some o, k, ea, false⟩ g a bs with nextMsg := m.nextMsg + 1 }) s

/-- A write of a copy engine for the continuation that pushed its command takes its place (R224, R254). -/
def placeCopy (core : Nat) (o : Key) (ea : W64) (g : Bool) (a : Nat) (bs : List Byte) (s : State) : State :=
  setMem (fun m => { m.writeBy s.now ⟨m.nextMsg, core, dieOf core, some o, none, ea, true⟩ g a bs with nextMsg := m.nextMsg + 1 }) s

/-- Bytes of a write whose number was given at its issue take their place; every continuation it covers stays covered. -/
def placeStore (e : StoreEnt) (a : Nat) (bs : List Byte) (s : State) : State :=
  setMem (fun m =>
    let m' := m.writeBy s.now ⟨e.id, e.core, dieOf e.core, some e.owner, none, e.ea, false⟩ e.g a bs
    { m' with msgs := m'.msgs.map fun w => if w.id == e.id then { w with covers := e.covers } else w }) s

/-- What a store writes when it takes its place in coherence order. A store to a page or die that was lost in the meantime is
dropped (R182, R230). -/
def storeWrite (e : StoreEnt) (s0 : State) : State :=
  let s := setMem (fun m => { m with stores := m.stores.filter fun x => x.id != e.id }) s0
  let a := forward s e.addr
  if addrLost a s || dieLost s (homeOf a).die then s
  else
    let s1 := ownLine a (cellOf e.core) s
    match e.kind with
    | .plain => placeStore e a e.bytes s1
    | .nibble hi =>
      let old := (s1.mem.byte a).toNat
      let c := ofBytes e.bytes
      placeStore e a (bytesOf 1 (if hi then setFld old 4 4 c else setFld old 0 4 c)) s1
    | .cap t => setMem (fun m => m.setTag (a / 16) t) (placeStore e a e.bytes s1)
    | .tagBits => setMem (fun m => tagBitsSet m (a / 16) e.bytes) s1

/-- The stores of a die that its agents already see take their places before another write or AMO of the die to their
bytes (R223). -/
def settleShown (die a n : Nat) (s : State) : State := (shownStores die a n s).foldl (fun s e => storeWrite e s) s

/-- Lines of a cell's slice go home: what the agents of its die already see there has its place, every write on them is performed at
system scope, and the dirty ones are checked on their way (R180, R217). -/
def goHome (cell : Nat) (ls : List CLine) (s : State) : State :=
  sentHome ls (ls.foldl (fun t l =>
    setMem (·.performLines (fun _ => true) t.now l.pa 64) (settleShown (cell / 256) l.pa 64 t)) s)

/-- What the thread's own queued stores say of a read (R200). -/
inductive Fwd where
  | none
  | bytes (bs : List Byte)
  | partly
deriving DecidableEq, Repr

/-- The newest own store that overlaps a read answers it, whole or not at all. One that the agents of its die see already is read as
they read it, under the stores of its die that they see later (R224). -/
def ownForward (x : Span) (s : State) : Fwd :=
  match (ownStores s).reverse.find? fun e => x.meets (e.span s) with
  | none => .none
  | some e =>
    let a := forward s e.addr
    if e.shown.isSome then .none
    else match e.kind with
    | .plain => if a ≤ x.a ∧ x.a + x.n ≤ a + e.bytes.length ∧ x.data then .bytes ((e.bytes.drop (x.a - a)).take x.n)
      else .partly
    | .cap _ => if a ≤ x.a ∧ x.a + x.n ≤ a + e.bytes.length ∧ x.data ∧ !x.tags then
        .bytes ((e.bytes.drop (x.a - a)).take x.n) else .partly
    | _ => .partly

/-- A byte a forwarded read returns lies in a poisoned unit that no queued store of the thread writes whole: a store to
part of the unit leaves it poisoned (R180, R181). -/
def queuedPoison (a n : Nat) (s : State) : Bool :=
  (List.range n).any fun i =>
    let u := poisonUnit (a + i)
    s.mem.poisoned (a + i) && !(ownStores s).any fun e =>
      let b := forward s e.addr
      match e.kind with
      | .plain => decide (b ≤ u ∧ u + poisonSize u ≤ b + e.bytes.length)
      | .cap _ => decide (b ≤ u ∧ u + poisonSize u ≤ b + e.bytes.length)
      | _ => false

/-- The group descriptor an element read uses is poisoned data of that read (R72, R181). -/
def descPoisoned (p : Place) (s : State) : Bool := decide (p.win = 5 ∨ p.win = 6) && s.mem.anyPoison (forward s p.desc) 4

/-- ECC, CHECK, for poisoned data: the checked read sets the poison bits, and the charge and dies stay (R180, R181, R198). The
address is the one that names the data: of an overflow access the global address (R170). -/
def eccAt {α : Type} (p : Place) (a n : Nat) (s : State) : Res α :=
  .error (.trap cECC 1 p.ptr (some (setMem (·.noted a n) s)))

/-- The stored bytes a scalar read returns: from the thread's own store, or from memory, where poison raises ECC, CHECK,
with its charge and dies kept (R198, R200). -/
def readStored (p : Place) (size : Nat) (s : State) : Res (List Byte × State) :=
  let x := p.span size
  match ownForward x s with
  | .partly => wait
  | .bytes bs => if queuedPoison x.a x.n s then eccAt p x.a x.n s else .ok (bs, s)
  | .none =>
    if p.win = 14 then
      .ok ((List.range size).map fun i => tagByte s.mem (p.addr / 16 + 8 * i), s)
    else if s.mem.anyPoison x.a x.n then eccAt p x.a x.n s
    else .ok (readMem x.a x.n s)

/-- z and the FP16 pattern of s of a descriptor word (R71). -/
def descOf (w d : Nat) : Nat × Nat := (if w = 5 then fld d 16 8 else fld d 16 4, fld d 0 16)

/-- A group descriptor's zero point and scale as memory holds them (R71): what a vector element uses, whose thread's earlier stores
are performed and whose later ones to its descriptor wait (R160). A table page that has moved since the issue is read at its new place
(log 86). -/
def memDesc (p : Place) (s : State) : Nat × Nat :=
  if p.win = 5 ∨ p.win = 6 then descOf p.win (ofBytes (s.mem.bytes (forward s p.desc) 4)) else (0, 0)

/-- A group descriptor's zero point and scale for a scalar access (R71, R200). DESIGN CHOICE (log 86): of a descriptor on a lost die
or in a lost page the stored bytes are read, with no DIELOSS and no ECC, LOST. -/
def readDesc (p : Place) (s : State) : Res (Nat × Nat) :=
  match (if p.win = 5 ∨ p.win = 6 then ownForward ⟨forward s p.desc, 4, true, false⟩ s else .none) with
  | .partly => wait
  | .bytes bs => .ok (descOf p.win (ofBytes bs))
  | .none => .ok (memDesc p s)

/-- The nibble or whole value that an element read takes from its stored bytes. -/
def elemRaw (p : Place) (bs : List Byte) : Nat :=
  let v := ofBytes bs
  if p.win = 6 ∨ p.win = 8 then (if p.hi then fld v 4 4 else fld v 0 4) else v

/-- The decoded 32-bit value of a stored element (R69-R72, R82, R83, R168); `vec` flushes (R77). -/
def elemDecode (vec : Bool) (w : Nat) (raw : Nat) (d : Nat × Nat) : W32 × LFlags :=
  match w with
  | 1 => (lin8 (lns8 raw), 0)
  | 2 => lin16 vec (lns16 raw)
  | 3 => (if vec then vwiden fp16 raw else (widen32 fp16 raw).1, 0)
  | 4 => (if vec then vwiden bf16 raw else (widen32 bf16 raw).1, 0)
  | 5 => (if vec then flush32 (groupDecode raw d.1 d.2) else groupDecode raw d.1 d.2, 0)
  | 6 => (if vec then flush32 (groupDecode raw d.1 d.2) else groupDecode raw d.1 d.2, 0)
  | 7 => (BitVec.ofInt 32 (sxInt raw 8), 0)
  | 8 => (BitVec.ofInt 32 (sxInt raw 4), 0)
  | _ => (w32 raw, 0)

/-- The stored code of a 32-bit value (R73, R76, R84, R158), with its flags. -/
def elemEncode (vec : Bool) (w : Nat) (x : W32) (d : Nat × Nat) : Nat × LFlags × FFlags :=
  match w with
  | 1 => let r := log8 vec x; (r.1, r.2, 0)
  | 2 => let r := log16 vec x; (r.1, r.2, 0)
  | 3 => if vec then (vnarrow fp16 x, 0, 0) else let r := narrow32 fp16 x; (r.1, 0, r.2)
  | 4 => if vec then (vnarrow bf16 x, 0, 0) else let r := narrow32 bf16 x; (r.1, 0, r.2)
  | 5 => let r := groupEncode 255 d.1 d.2 (if vec then flush32 x else x); (r.1, r.2, 0)
  | 6 => let r := groupEncode 15 d.1 d.2 (if vec then flush32 x else x); (r.1, r.2, 0)
  | 7 => let r := satInt 8 x; (r.1, r.2, 0)
  | 8 => let r := satInt 4 x; (r.1, r.2, 0)
  | _ => (x.toNat, 0, 0)

/-- The value at a place, zero-extended, with LRANGE where its window sets it (R201). -/
def readPlace (p : Place) (size : Nat) (s : State) : Res (Nat × LFlags × State) := do
  if winRaw p.win then
    let (bs, s1) ← readStored p size s
    .ok (ofBytes bs, 0, s1)
  else
    let d ← readDesc p s
    if descPoisoned p s then .error (.trap cECC 1 p.ptr (some s))
    let (bs, s1) ← readStored p size s
    let r := elemDecode false p.win (elemRaw p bs) d
    .ok (r.1.toNat, r.2, s1)

/-- A scalar read of `size` bytes at `ea`, with the place it read. -/
def readScalar (ea : W64) (size : Nat) (s : State) : Res (Nat × LFlags × Place × State) := do
  let (t, s1) ← issueAccess ea size .read .scalar true (fun _ => .ok ()) s
  accessWaits (t.place.span size) s
  let r ← readPlace t.place size s1
  .ok (r.1, r.2.1, t.place, r.2.2)

/-! ### Stores (R200, R204, R205) -/

/-- Put a store in the queue; with 16 outstanding it waits (R200). -/
def enqueueStore (e : StoreEnt) (s : State) : Res State :=
  if 16 ≤ (ownStores s).length then wait
  else .ok (setMem (fun m => { m with stores := m.stores ++ [e], nextMsg := m.nextMsg + 1 }) s)

/-- A store of the acting core as it issues. -/
def newStore (addr : Nat) (bs : List Byte) (kind : StKind) (g : Bool) (rel : Option Scope) (ea : W64) (s : State) : StoreEnt :=
  ⟨s.cur, addr, bs, kind, g, rel, ea, s.now, s.mem.nextMsg, none, [s.ctx.ownerKey], none, s.ctx.ownerKey⟩

/-- An acknowledgement is awaited (R205, R364): the dies that hold a copy of a global line, or the owning cell's. -/
def oweAck (ea : W64) (addr : Nat) (rel due : Bool) (s : State) : State :=
  let pa := addr / 64 * 64
  let dies : BitVec 13 :=
    if isGlobal addr then
      (s.fab.slices.filter fun l => l.pa == pa && dieOf (l.unit * 4) != dieOf s.cur).foldl
        (fun d l => d ||| BitVec.ofNat 13 (2 ^ dieOf (l.unit * 4))) 0
    else BitVec.ofNat 13 (2 ^ (homeOf addr).die)
  { s with ctx := { s.ctx with acks := s.ctx.acks ++ [⟨ea, s.now, dies, rel, due, s.mem.nextMsg⟩] } }

/-- The bytes of a value, little-endian (R2). -/
def valBytes (n v : Nat) : List Byte := bytesOf n v

/-! ### DIST (R238) -/

/-- The home of byte `i` of a coordinate range, as DIST sees it; none where a check of R238 fails. -/
def distByte (p : W64) (i : Nat) (s : State) : Option Home × State :=
  let w := ptrWin p
  let o := ptrOff p + i
  if w = 15 then
    let sp := s.ctx.sys.spillsz.toNat
    if o < sp then
      match homeCore s with
      | none => (none, s)
      | some core =>
        let b := 0x30000 - sp + o
        let a := forward s (scratchAddr core b)
        (if ownsPage s s.vfid core (b / 4096) && !addrLost a s && !dieLost s (dieOf core) then
          some (.core (scratchCore a)) else none, s)
    else if s.ctx.sys.ovfptr.getLsbD 63 then (none, s)
    else distPlain (w64 ((s.ctx.sys.ovfptr.toNat + (o - sp)) % 2 ^ 63)) s
  else
    let core := ptrCore p s
    let b := if w = 14 then 128 * o else o / winScale w
    let lost := if w = 14 then addrLost (forward s (scratchAddr core b)) s else pageLost s core (b / 4096)
    (if ownsPage s s.vfid core (b / 4096) && !lost then some (.core core) else none, s)
where
  /-- One global byte: its home when a translation grants R or W. A walk that fails leaves what its miss has done (R190, R191). -/
  distPlain (q : W64) (s : State) : Option Home × State :=
    let va := plainVa s.ctx.sys.ax q
    match translateNow s (dieOf s.cur) s.vfid va (!s.ctx.st.mode) .either q with
    | .ok (x, s') => (some (homeOf x.pa), s')
    | .error e => (none, e.left s)

/-- Sum the charges of the bytes of a range from byte `i`. -/
def distSum (f : Nat → State → Option Home × State) : Nat → Nat → Nat → State → Option Nat × State
  | 0, _, acc, s => (some acc, s)
  | n + 1, i, acc, s =>
    match f i s with
    | (none, s') => (none, s')
    | (some h, s') => if dieLost s h.die then (none, s') else distSum f n (i + 1) (acc + accessCharge s h 1) s'

/-- Dist of a range, or none where DIST returns all ones; nothing but translation caches change (R238). -/
def distRange (p : W64) (n : Nat) (s : State) : Option Nat × State :=
  if isCoord p then
    match coordHead p s with
    | .error _ => (none, s)
    | .ok () => if ptrOff p + n ≤ winEnd (ptrWin p) then distSum (distByte p) n 0 0 s else (none, s)
  else distSum (fun i => distByte.distPlain (w64 ((p.toNat + i) % 2 ^ 63))) n 0 0 s

end Sys2Proof.Machine
end

