-- ==== Sys2Proof/Machine/Sched.lean ====
section
/-!
DEFINITION. Continuation records, saved images, write-back, notices to records, run queues and exits
(R12, R95, R320-R323, R327, R367, R403).
-/

namespace Sys2Proof.Machine

/-! ### Hardware's own accesses (R323, R403) -/

/-- Veil a range: its bytes become the free bytes of number `k` (log 6). -/
def Memory.veilRange (m : Memory) (a n k : Nat) : Memory :=
  { m with
    veil := (a, n, k) :: veilCut m.veil a n
    tags := tagsCleared m.tags a n
    poison := m.poison.filter fun u => decide (u < a) || decide (a + n ≤ u)
    checks := m.checks.filter fun c => decide (c.1 < a) || decide (a + n ≤ c.1)
    msgs := msgsCut m.msgs a n }

/-- The save engine's write of an area whose layout no rule gives: its bytes become free (R320, log 6). -/
def hwVeil (vf va n : Nat) (s : State) : Option State :=
  match hwRange vf va n .write s with
  | (some ps, s') => some (ps.foldl (fun s p =>
      { s with mem := s.mem.veilRange p.1 p.2 s.freeNo, freeNo := s.freeNo + 1 }) s')
  | (none, _) => none

/-! ### The record (R321) as a 512-bit number -/

def recState (r : Nat) : Nat := fld r 72 4
def recPrio (r : Nat) : Nat := fld r 76 4
def recFlags (r : Nat) : Nat := fld r 162 6
def recSpill (r : Nat) : Nat := fld r 184 8
def recHome (r : Nat) : Nat := fld r 320 37
def recSave (r : Nat) : Nat := fld r 384 64
def recCtr (r : Nat) : Nat := fld r 448 64

/-- The reserved bits of a record that must be zero (R321, R323). -/
def recReservedOk (r : Nat) : Bool :=
  decide (fld r 166 2 = 0) && decide (fld r 181 3 = 0) && decide (fld r 357 3 = 0) &&
    decide (fld r 369 7 = 0) && decide (fld r 376 8 = 0)

/-- What a read of a record at its home returns; `recSeen` is the state it leaves. -/
def recRead (k : Key) (s : State) : Option Nat := (hwRead k.vf k.rva 64 s).map ofBytes

/-- A record has been read (R180, R190). -/
def recSeen (k : Key) (s : State) : State := hwNoted k.vf k.rva 64 s

/-- Write a record, atomically at package scope. -/
def recWrite (k : Key) (r : Nat) (s : State) : Option State := hwWrite k.vf k.rva (bytesOf 64 r) s

/-- The FLAGS bits of a context (R103). -/
def Ctx.flags (c : Ctx) : Nat :=
  c.st.vkeep.toNat + 2 * c.st.uien.toNat + 4 * c.st.pin.toNat + 8 * c.st.mclaimed.toNat

/-- The record's fields that a write-back writes from the context (R321). -/
def Ctx.intoRec (c : Ctx) (st cause r : Nat) : Nat :=
  let r := setFld r 0 72 c.pc.toNat
  let r := setFld r 72 4 st
  let r := setFld r 152 10 c.sys.vfid
  let r := setFld r 162 6 c.flags
  let r := setFld r 168 13 c.sys.tdmask.toNat
  let r := setFld r 192 64 c.sys.meter.toNat
  let r := setFld r 256 64 c.sys.mlimit.toNat
  setFld r 360 8 cause

/-! ### Images (R320) -/

def setSch (f : Sched → Sched) (s : State) : State := { s with sch := f s.sch }

/-- The context that a register save area holds: what was saved there last (R320). -/
def imageAt (vf : Nat) (saveptr : W64) (s : State) : Option Ctx :=
  ((s.sch.images.filter fun i => i.vf == vf && i.saveptr == saveptr).getLast?).map (·.ctx)

/-- What an area that nothing was saved in gives as registers: free, since no rule lays an area out (R320, log 6). HOME is the
record's. -/
def Ctx.found (n home : Nat) : Ctx :=
  let w := fun (i : Nat) => w64 (ofBytes ((List.range 8).map fun j => Config.saveByte n (8 * i + j)))
  let b := fun (i : Nat) => (w 0).getLsbD i
  let set := fun (i : Nat) => (⟨Vector.ofFn fun j => w (i + j.val), Vector.ofFn fun j => w (i + 8 + j.val)⟩ : OlSet)
  { Ctx.blank with
    g := ⟨Vector.ofFn fun i => w (8 + i.val), Vector.ofFn fun i => b (8 + i.val), set 40, set 52, set 64,
      if b 0 then (if b 1 then .prog else .user) else .sup⟩
    st := ⟨false, false, false, false, b 2, b 3, b 4, b 5⟩
    tr := { Ctx.blank.tr with
      cause := w 76, epc := w 77, tval := w 78, upvec := w 79, uivec := w 80, fbvec := w 81, sepc := w 82, scause := w 83
      stval := w 84, uhInt := b 6 }
    sys := { Ctx.blank.sys with
      home := BitVec.ofNat 37 home, ax := (w 1).setWidth 9, fillv := (w 2).setWidth 32, spillsz := (w 3).setWidth 17
      ovfptr := w 4, lflags := (w 5).setWidth 5, fstat := (w 6).setWidth 5, wdesc5 := (w 7).setWidth 40
      wdesc6 := (w 85).setWidth 40, evsel := Vector.ofFn fun i => (w (86 + i.val)).setWidth 16
      evc := Vector.ofFn fun i => w (102 + i.val) }
    vec := { Ctx.blank.vec with
      v := Vector.ofFn fun r => Vector.ofFn fun i => (w (128 + 128 * r.val + i.val)).setWidth 32
      vm := Vector.ofFn fun m => BitVec.ofNat 128 ((w (118 + m.val)).toNat + 2 ^ 64 * (w (4224 + m.val)).toNat) }
    rng := BitVec.ofNat 128 ((w 126).toNat + 2 ^ 64 * (w 127).toNat) }

def putImage (k : Key) (c : Ctx) (s : State) : State :=
  let rest := s.sch.images.filter fun i => !(i.vf == k.vf && i.rva == k.rva)
  setSch (fun t => { t with images := rest ++ [⟨k.vf, c.info.saveptr, k.rva, c⟩] }) s

/-- A record's image goes, and with it the notices that had overflowed its qnt: a new thread in the record starts with an empty
one (R247). -/
def dropImage (k : Key) (s : State) : State :=
  setAcct (setSch (fun t => { t with images := t.images.filter fun i => !(i.vf == k.vf && i.rva == k.rva) }) s) k.vf fun a =>
    { a with overflow := a.overflow.filter fun e => e.1 != k }

/-- The operand and last-result files in use are zero; those that a handler displaced stay (R95, R97, R348). -/
def Gpr.dropActive (g : Gpr) : Gpr :=
  match g.active with
  | .prog => { g with prog := OlSet.zero }
  | .user => { g with user := OlSet.zero }
  | .sup => { g with sup := OlSet.zero }

/-- The context a voluntary suspension saves (R95, R161): operand and last-result files, vector state unless VKEEP, lane
width and qvs are gone, and the gang is broken. -/
def Ctx.suspended (c : Ctx) : Ctx :=
  { c with
    g := c.g.dropActive
    vec := { c.vec with
      v := if c.st.vkeep then c.vec.v else Vector.replicate 32 (Vector.replicate 128 0)
      vm := if c.st.vkeep then c.vec.vm else Vector.replicate 8 0
      width := 16
      gang := 1
      q := []
      qvs := []
      popc := none }
    waitQ := false
    wfi := false
    halted := false }

/-- The lanes from 16 on hold zero once a gang is broken (R144, R146); an instruction still queued keeps its lanes below 16 and its
elements there. -/
def VecRegs.ungang (v : VecRegs) : VecRegs :=
  { v with
    v := v.v.map fun r => Vector.ofFn fun i => if i.val < 16 then r[i] else 0
    vm := v.vm.map fun m => m.setWidth 16 |>.setWidth 128
    width := if v.gang = 1 then v.width else 16
    gang := 1
    q := if v.gang = 1 then v.q else v.q.map fun t =>
      { t with width := Nat.min t.width 16, elems := t.elems.filter fun e => decide (e.1 < 16) } }

/-- The commands and queued misses of a continuation that exits keep its counter area (R241). -/
def lateAreas (k : Key) (ctr : Nat) (s : State) : State :=
  { s with
    cp := { s.cp with cmds := s.cp.cmds.map fun c => if c.owner == k && !c.svc then { c with area := some ctr } else c }
    trans := { s.trans with misses := s.trans.misses.map fun m =>
      { m with waits := m.waits.map fun w => if w.key == k then { w with area := some ctr } else w } } }

/-! ### Notices to a VF's records (R262) -/

/-- The keys of the VF's running continuations and saved records, without repeats. -/
def vfKeys (vf : Nat) (s : State) : List Key :=
  let run := (if s.live then [s.ctx] else []) ++ s.parked.map (·.2)
  let ks := (run.filterMap (·.info.key)) ++ s.sch.images.map fun i => ⟨i.vf, i.rva⟩
  (ks.filter fun k => k.vf == vf).eraseDups

/-- Post one notice to each of several records. -/
def postAll (ks : List Key) (kind payload : Nat) (s : State) : State :=
  ks.foldl (fun s k => postNotice k kind payload s) s

/-! ### Run queues, exits, lost records -/

/-- Enter a record at the tail of its queue (R320). -/
def enqueue (k : Key) (q : Nat) (s : State) : State :=
  setSch (fun t => { t with runq := t.runq ++ [⟨k.vf, k.rva, q, false, s.now⟩] }) s

/-- A record written back as runnable enters the tail of its queue; one whose save failed is not runnable (R322, R367). -/
def requeue (k : Key) (s0 : State) : State :=
  let s := recSeen k s0
  match recRead k s0 with
  | some r => if recState r = 1 then enqueue k (recPrio r) s else s
  | none => s

/-- A record of a launch has reached STATE 6, or is lost (R327, R403). -/
def countExit (launch : Nat) (s : State) : State :=
  setSch (fun t => { t with launches := t.launches.map fun l =>
    if l.id == launch then { l with live := l.live - 1 } else l }) s

/-- A record that hardware cannot write is lost (R403). -/
def loseRecord (k : Key) (launch : Nat) (s : State) : State :=
  let s1 := setSch (fun t => { t with runq := t.runq.filter fun e => !(e.vf == k.vf && e.rva == k.rva) })
    (dropImage k (orphan k (countExit launch s)))
  postAll ((vfKeys k.vf s1).filter (· != k)) 0x08 (k.rva % 2 ^ 56) s1

/-- The bytes of the save area a context needs: the core image, and the engine image when it owns an engine (R295, R320). -/
def Ctx.saveBytes (c : Ctx) : Nat := if c.st.mclaimed then 106496 else 65536

/-- The context with another's event counters and selectors. -/
def Ctx.withCounters (c d : Ctx) : Ctx := { c with sys := { c.sys with evsel := d.sys.evsel, evc := d.sys.evc } }

/-- What is kept of a save: of an area that could not be written the image keeps what the last save left (R367). -/
def keptImage (k : Key) (c : Ctx) (counters area : Bool) (s : State) : Ctx :=
  let old := (imageOf k s).getD { Ctx.blank with info := c.info }
  (if area then c else old).withCounters (if counters then c else old)

/-- Write a continuation back with its counters and its image (R322, R241, R367, R403), and whether its record was written. `c` is
the context as it is to be restored. -/
def writeRecord (k : Key) (c : Ctx) (st cause : Nat) (s : State) : State × Bool :=
  let ctr := c.info.ctrptr.toNat
  let sCtr := if ctr % 32 = 0 then hwWrite k.vf ctr c.counters s else none
  let s1 := sCtr.getD (if ctr % 32 = 0 then hwWalked k.vf ctr 160 .write s else s)
  let sImg := if c.info.saveptr.toNat % 64 = 0 then hwVeil k.vf c.info.saveptr.toNat c.saveBytes s1 else none
  let s2 := recSeen k (putImage k (keptImage k c sCtr.isSome sImg.isSome s)
    (sImg.getD (if c.info.saveptr.toNat % 64 = 0 then hwWalked k.vf c.info.saveptr.toNat c.saveBytes .write s1 else s1)))
  let ok := sCtr.isSome && sImg.isSome
  let st' := if ok then st else if st = 6 then 6 else 5
  let cause' := if ok then cause else 0x40
  match recRead k s2 with
  | none => (loseRecord k c.info.launch s2, false)
  | some r =>
    match recWrite k (c.intoRec st' cause' r) s2 with
    | none => (loseRecord k c.info.launch s2, false)
    | some s3 =>
      (if st' = 6 then dropImage k (orphan k (lateAreas k ctr (countExit c.info.launch s3))) else s3, true)

/-- The state after a write-back. -/
def writeBack (k : Key) (c : Ctx) (st cause : Nat) (s : State) : State := (writeRecord k c st cause s).1

/-- The acting core becomes free. -/
def freeCore (s : State) : State := { s with live := false, ctx := Ctx.blank }

/-- Change only STATE of a record; a record that cannot be written is lost (R403). -/
def setRecState (k : Key) (launch st : Nat) (s0 : State) : State :=
  let s := recSeen k s0
  match recRead k s with
  | none => loseRecord k launch s
  | some r =>
    match recWrite k (setFld r 72 4 st) s with
    | none => loseRecord k launch s
    | some s' => s'

/-- Make a saved record runnable: STATE 1, at the tail of the queue its PRIO names (R322). -/
def makeRunnable (k : Key) (s0 : State) : State :=
  let s := recSeen k s0
  match recRead k s with
  | none => loseRecord k ((imageOf k s).map (·.info.launch) |>.getD 0) s
  | some r =>
    match recWrite k (setFld r 72 4 1) s with
    | none => loseRecord k ((imageOf k s).map (·.info.launch) |>.getD 0) s
    | some s' => enqueue k (recPrio r) s'

end Sys2Proof.Machine
end

