-- ==== Sys2Proof/Machine/Ops.lean ====
section
/-!
DEFINITION. The shared operations of instructions: retiring, lookahead windows, taking every kind of trap and returning from
it, waits for the thread's own accesses, acknowledgements, and the end of a run on a core
(R33-R36, R96, R132-R135, R205, R212, R322, R348-R367, R401).
-/

namespace Sys2Proof.Machine

/-! ### The program counter (R401) -/

/-- PC bits 62:0 as a 64-bit value with bit 63 = 0, which is what EPC and SEPC hold. -/
def Ctx.pc64 (c : Ctx) : W64 := w64 (c.pc.toNat % 2 ^ 63)

/-- The value t of a transfer whose fetch raises COORD: bit 63 is 1, bits 62:0 are the pc's. -/
def Ctx.badTarget (c : Ctx) : W64 := w64 (c.pc.toNat % 2 ^ 63 + 2 ^ 63)

/-- What SEPC names: the pc, and t for the COORD that the fetch of a bad target raises. -/
def Ctx.trapPc (code : Nat) (c : Ctx) : W64 := if c.pcBad && code == cCOORD then c.badTarget else c.pc64

/-- Sequential flow and branches: bits 62:0 change, modulo 2^63. -/
def pcAdd (pc : BitVec 72) (d : Int) : BitVec 72 :=
  BitVec.ofNat 72 (pc.toNat / 2 ^ 63 * 2 ^ 63 + (((pc.toNat % 2 ^ 63 : Nat) + d) % 2 ^ 63).toNat)

/-- A transfer to a 64-bit value under the current AX. -/
def xferPc (t : W64) (s : State) : State :=
  setPc (BitVec.ofNat 72 (s.ctx.sys.ax.toNat * 2 ^ 63 + t.toNat % 2 ^ 63)) (t.getLsbD 63) s

/-! ### Lookahead results (R33-R36) -/

/-- Write a result into its register; only plain registers are left for later. -/
def Gpr.put (g : Gpr) (r : Reg) (v : W64) : Gpr :=
  match r with
  | .m i => g.setM i v
  | .o i => g.setCur { g.cur with o := g.cur.o.set i v }
  | _ => g

/-- The pair an LCAP writes: its tag is set after both words (R210). -/
def Gpr.putAll (g : Gpr) (ds : List (Reg × W64)) (tag : Option Bool) : Gpr :=
  let g' := ds.foldl (fun g d => g.put d.1 d.2) g
  match tag, ds with
  | some t, (.m i, _) :: _ => { g' with tags := g'.tags.set (i.val / 2) t }
  | _, _ => g'

/-- Write the result of one entry, with its flags. -/
def LaEnt.write (e : LaEnt) (c : Ctx) : Ctx :=
  if e.done then c
  else { c with
    g := c.g.putAll e.dests e.tag
    sys := { c.sys with fstat := c.sys.fstat ||| e.fstat, lflags := c.sys.lflags ||| e.lflags } }

/-- Every outstanding result is written and every window ends. -/
def Ctx.flushLa (c : Ctx) : Ctx := { c.la.foldl (fun c e => e.write c) c with la := [] }

def flushLa (s : State) : State := { s with ctx := s.ctx.flushLa }

/-- Every outstanding result is written; the windows go on. -/
def Ctx.writeLa (c : Ctx) : Ctx :=
  { c.la.foldl (fun c e => e.write c) c with la := c.la.map fun e => { e with done := true } }

/-- One more instruction of every window has issued; a window that is full ends with its result written. -/
def Ctx.stepLa (c : Ctx) : Ctx :=
  let ended := c.la.filter fun e => decide (e.left ≤ 1)
  let c' := ended.foldl (fun c e => e.write c) c
  { c' with la := (c.la.filter fun e => !decide (e.left ≤ 1)).map fun e => { e with left := e.left - 1 } }

/-- Make room for one more outstanding result: with four, the oldest is written first (R36). -/
def Ctx.roomLa (c : Ctx) : Ctx :=
  if (c.la.filter fun e => !e.done).length < 4 then c
  else match c.la.find? fun e => !e.done with
    | some e => { e.write c with la := c.la.map fun x => if x == e then { x with done := true } else x }
    | none => c

/-! ### Retiring -/

/-- An instruction of `len` bytes has completed: windows count it, the pc moves on, event 0x01 counts it. -/
def retire (len : Nat) (s : State) : State :=
  let c := s.ctx.stepLa
  addEvent 0x01 1 { s with ctx := { c with pc := pcAdd c.pc len, pcBad := false, waitQ := false, wfi := false } }

/-- A jump or return has completed: every window ends (R33), the pc is already set. -/
def retireJump (s : State) : State :=
  addEvent 0x01 1 { s with ctx := { s.ctx.flushLa with waitQ := false } }

/-- Put a lookahead result in place: with LA = 0 at once, else for a window of `k` instructions. Call before `retire`'s
counting of this instruction, which the new window does not include. -/
def lookahead (k : Nat) (e : LaEnt) (s : State) : State :=
  if k = 0 then { s with ctx := e.write s.ctx }
  else
    let c := s.ctx.roomLa
    { s with ctx := { c with la := c.la ++ [{ e with left := k + 1 }] } }

/-! ### Traps (R348-R356) -/

/-- The cause value (R350). -/
def causeVal (code detail : Nat) (u : Bool) : W64 := w64 (code + 256 * detail + if u then 2 ^ 24 else 0)

/-- The acting continuation executes a service run (R353). -/
def inService (s : State) : Bool := s.ctx.info.service.isSome

/-- A supervisor trap is open (R348). -/
def supOpen (s : State) : Bool := s.ctx.tr.openSup.isSome

/-- Activate a zeroed handler set (R97). -/
def Gpr.enter (g : Gpr) (r : RegSet) : Gpr :=
  match r with
  | .user => { g with active := .user, user := OlSet.zero }
  | .sup => { g with active := .sup, sup := OlSet.zero }
  | .prog => { g with active := .prog }

/-- Break a gang (R146); its queue has drained. -/
def breakGang (s : State) : State := setVec (fun v => if v.gang = 1 then v else v.ungang) s

/-- The VF's supervisor vector. -/
def State.svec (s : State) : W64 :=
  match s.trans.vf? s.vfid with
  | some f => f.svec
  | none => 0

/-- Supervisor trap entry (R355). -/
def enterSup (code detail : Nat) (u : Bool) (tval : W64) (s : State) : State :=
  let s := breakGang s
  let pc := s.ctx.trapPc code
  let s := setTr (fun t => { t with
    sepc := pc, scause := causeVal code detail u, stval := tval
    openSup := some ⟨s.ctx.st.uh, t.uhInt, s.ctx.g.active⟩
    pendFault := none
    last := BitVec.ofNat 8 code }) s
  let s := setSt (fun t => { t with uh := false, spp := t.mode, mode := true }) s
  xferPc s.svec (setG (fun g => g.enter .sup) s)

/-- Trap-upcall entry (R352). -/
def enterUpcall (code detail : Nat) (tval : W64) (s : State) : State :=
  let s := breakGang s
  let pc := s.ctx.pc64
  let s := setTr (fun t => { t with
    epc := pc, cause := causeVal code detail false, tval := tval, uhInt := false
    last := BitVec.ofNat 8 code }) s
  let s := setSt (fun t => { t with uh := true }) s
  xferPc s.ctx.tr.upvec (setG (fun g => g.enter .user) s)

/-- User-interrupt entry (R265): the oldest pending value goes to TVAL, CAUSE is 0x80; a gang and the vector queue go
on. The entry acquires at the command's scope. -/
def enterInterrupt (v : W64) (s0 : State) : State :=
  let s1 := setQs (fun q => { q with pendUi := q.pendUi.drop 1, pendUiScope := q.pendUiScope.drop 1 }) (flushLa s0)
  let s := match s0.ctx.qs.pendUiScope with
    | sc :: _ => let d := demote sc s1; acquire d.1 d.2
    | [] => s1
  let pc := s.ctx.pc64
  let s := setTr (fun t => { t with epc := pc, cause := 0x80, tval := v, uhInt := true, pendFault := none }) s
  let s := setSt (fun t => { t with uh := true }) s
  xferPc s.ctx.tr.uivec (setG (fun g => g.enter .user) s)

/-- The acting VF's commands that stand in a core's copy FIFO, in push order (R247, R256). -/
def fifoOf (core : Nat) (s : State) : List CopyCmd :=
  s.cp.cmds.filter fun c => c.core == core && c.owner.vf == s.vfid && c.place == .fifo

def inFifo (core : Nat) (s : State) : Bool := !(fifoOf core s).isEmpty

/-- The engine the acting continuation owns leaves with it: its state goes into the context (R295). An MFREE or EXIT that waited
has not executed, and the clock of its next cell is another. -/
def packEngine (s : State) : State :=
  match ownEngine s with
  | none => s
  | some e => { s with ctx := { s.ctx with engine := some { e.mx with cut := 0, cutWords := 0, lastInj := none } }, engines := s.engines.filter (·.cell != e.cell) }

/-- The engine's injected rows have completed, as a save waits for (R295). -/
def engineSettled (s : State) : Bool :=
  match ownEngine s with
  | none => true
  | some e => e.mx.rows.isEmpty

/-- End a service run: nothing is written back; an engine it claimed is freed (R353). -/
def endService (s : State) : State :=
  let s' := match ownEngine s with
    | some e => { s with engines := s.engines.filter (·.cell != e.cell) }
    | none => s
  freeCore (orphan s.ctx.ownerKey s')

/-- The vector queue is empty, the copy FIFO too, the engine can be saved, and no whole qsa record is on its way: what a
write-back waits for besides acknowledgements (R161, R256, R295, R306, R322). -/
def drained (s : State) : Bool :=
  s.ctx.vec.q.isEmpty && !inFifo s.cur s && engineSettled s && s.ctx.qs.sent.isNone

/-- The writes of the thread that satisfy `p` count among its stores. -/
def coverWrites (p : WriteMsg → Bool) (s : State) : State :=
  setMem (fun m => { m with msgs := m.msgs.map fun w =>
    if (w.owner == some s.ctx.ownerKey) && p w then w.cover w.die (some s.ctx.ownerKey) else w }) s

/-- The vector stores of the thread that have completed count among its stores (R160). -/
def coverOwn (s : State) : State := coverWrites (fun w => !w.copy) s

/-- Every write that a release of the thread at a scope covers has been performed there (R224, R227): at cell or die scope the
agents of its die see it; at package or system scope it has its place and is performed at package scope. -/
def writesDone (sc : Scope) (s : State) : Bool :=
  let k := s.ctx.ownerKey
  s.ctx.amo.isNone &&
    (if sc.code ≤ 2 then (ownStores s).all (·.shown.isSome)
     else !(s.mem.stores.any fun e => (e.core == s.cur && e.held.isNone) || e.covers.contains k) &&
       !(s.mem.msgs.any fun w => w.covers.contains k && w.performedAt.isNone))

/-- A double trap (R356): STATE 5 with the new code, and the open trap in the image, once the thread's earlier writes are performed
as a voluntary suspension has it, acknowledgements apart. In a service run it ends the run. -/
def doubleTrap (code : Nat) (s0 : State) : Option State :=
  let s := coverOwn (fixReads s0)
  if !drained s || !writesDone .pkg s then none
  else match s.ctx.info.key with
    | none => some (endService s)
    | some k =>
      let s := packEngine (breakGang (flushLa s))
      let c := { s.ctx with tr := { s.ctx.tr with last := BitVec.ofNat 8 code } }
      some (freeCore (writeBack k c.suspended 5 code s))

/-- The trap classes of R349. -/
def isUpcall (code : Nat) : Bool := code == cSTALE || code == cMTRAP || code == cTRAP || code == cPF

/-- A trap-upcall or fault-upcall goes to the supervisor (R351). -/
def redirected (code : Nat) (s : State) : Bool :=
  s.ctx.st.uh || inService s || (if code = cPF then s.ctx.tr.fbvec == 0 else s.ctx.tr.upvec == 0)

def creditOf (core : Nat) (s : State) : Int :=
  match s.fab.credits.find? fun e => e.1 == core with
  | some e => e.2
  | none => 0

def setCredit (core : Nat) (v : Int) (s : State) : State :=
  setFab (fun f =>
    let rest := f.credits.filter fun e => e.1 != core
    { f with credits := if v = 0 then rest else rest ++ [(core, v)] }) s

/-- The queue of a core became empty otherwise than by its last completion: its credit is 0, and a grant it waited for is gone
(R143). -/
def leaveRank (core : Nat) (s : State) : State :=
  setFab (fun f => { f with winners := f.winners.filter fun e => e.2 != core }) (setCredit core 0 s)

/-- A VMPOPC that waits for its count has not executed when its page no longer grants the fetch. -/
def dropCount (s : State) : State :=
  if s.ctx.vec.popc.isNone then s
  else
    let t := setVec (fun v => { v with
      popc := none
      q := v.q.filter fun t => match t.op with
        | .popc _ => false
        | _ => true }) s
    if t.ctx.vec.q.isEmpty then leaveRank t.cur t else t

/-- Take a trap at the instruction the pc names (R351-R356). A gang's queue drains first: until it has, the instruction
has not completed (`none`). A fault-upcall becomes pending here; the core makes its write-back next (R353, R366). -/
def takeTrap (code detail : Nat) (tval : W64) (s0 : State) : Option State :=
  let s := dropCount (flushLa (if code = cMTRAP then addEvent 0x0E 1 s0 else s0))
  if s.ctx.vec.gang ≠ 1 ∧ !s.ctx.vec.q.isEmpty then none
  else if supOpen s then doubleTrap code s
  else if !isUpcall code then some (enterSup code detail false tval s)
  else if redirected code s then some (enterSup code detail true tval s)
  else if code = cPF then
    some (setTr (fun t => { t with pendFault := some ⟨causeVal code detail false, tval⟩ }) s)
  else some (enterUpcall code detail tval s)

/-- The context of a service run (R353). -/
def Ctx.serviceRun (c : Ctx) (k : Key) (f : PendFault) : Ctx :=
  let m := (((Ctx.blank.g.m.set 2 c.g.m[2]).set 4 (w64 (k.rva % 2 ^ 63))).set 5 f.cause).set 6 f.tval
  { Ctx.blank with
    g := { Ctx.blank.g with m := m }
    tr := { Ctx.blank.tr with upvec := c.tr.upvec, uivec := c.tr.uivec, fbvec := c.tr.fbvec }
    sys := { Ctx.blank.sys with
      gthread := c.sys.gthread, grpmap := c.sys.grpmap, vfid := c.sys.vfid, home := c.sys.home
      ax := c.sys.ax, fillv := c.sys.fillv, spillsz := c.sys.spillsz, ovfptr := c.sys.ovfptr
      wdesc5 := c.sys.wdesc5, wdesc6 := c.sys.wdesc6, mlimit := BitVec.allOnes 64 }
    rng := c.rng
    info := { c.info with key := none, saveptr := 0, ctrptr := 0, service := some k } }

/-! ### Acknowledgements and the thread's own accesses (R205, R212, R224, R364) -/

/-- Every earlier access that a fence waits for has been performed at its scope (R212), on whatever core it was issued (R220); a whole
qsa record too, which a later push of a same-die agent could else pass (R227, R315). -/
def FencePend.done (f : FencePend) (s : State) : Bool :=
  let k := s.ctx.ownerKey
  s.ctx.amo.isNone &&
    (!f.waitW ||
      (!(s.ctx.acks.any fun a => decide (a.id < f.upto)) && s.ctx.qs.sent.isNone &&
        !(s.mem.stores.any fun e => e.owner == k && decide (e.id < f.upto) && (decide (3 ≤ f.scope.code) || e.shown.isNone)) &&
        (decide (f.scope.code ≤ 2) ||
          !(s.mem.msgs.any fun w => w.owner == some k && w.covers.contains k && decide (w.id < f.upto) &&
            w.performedAt.isNone))))

/-- Fences whose earlier accesses have been performed are complete; one with RR or WR drains then (R212, R225). -/
def settleFences (s : State) : State :=
  match s.ctx.fences with
  | [] => s
  | fs =>
    let t := { s with ctx := { s.ctx with fences := fs.filter fun f => !f.done s } }
    (fs.filter fun f => f.done s && f.drains).foldl (fun t f => acquire f.scope t) t

/-- A later access of a kind that a fence names does not issue before the fence is complete (R212). -/
def fenceGate (rd wr : Bool) (s : State) : Res State :=
  let t := settleFences s
  if t.ctx.fences.any fun f => rd && f.holdR || wr && f.holdW then wait else .ok t

/-- ACKLOSS is taken before an instruction that waits for acknowledgements; while a supervisor trap is open the instruction
goes on, and the trap is entered at the first boundary after that trap closes (R364). -/
def ackLoss (s : State) : Res State :=
  match s.ctx.tr.pendAck with
  | some (a, dies) =>
    if supOpen s then .ok (setTr (fun t => { t with ackDue := true }) s)
    else .error (.trap cACKLOSS dies.toNat a (some (setTr (fun t => { t with pendAck := none, ackDue := false }) s)))
  | none => .ok s

/-- Wait for every acknowledgement owed; a lost one raises ACKLOSS. -/
def acksDone (s : State) : Res State := do
  let t ← ackLoss s
  if s.ctx.acks.isEmpty then .ok t else wait

/-- What a release waits for before its store becomes visible (R205): earlier accesses performed at its scope, and every
acknowledged store acknowledged. A release covers a qsa record too: it waits for its acceptance (R315). -/
def releaseReady (sc : Scope) (s0 : State) : Res State := do
  let s ← fenceGate true true (fixReads s0)
  let t ← acksDone s
  if writesDone sc t && t.ctx.qs.sent.isNone then .ok t else wait

/-- What a voluntary suspension, an EXIT and a fault-upcall wait for before the write-back (R322, R228). -/
def suspendReady (s0 : State) : Res State := do
  let s ← fenceGate true true (coverOwn (fixReads s0))
  let t ← acksDone s
  if drained t && writesDone .pkg t then .ok t else wait

/-- Make the write-back of a pending fault-upcall and start the service run (R353); with the record lost the core becomes free
(R403). -/
def faultUpcall (f : PendFault) (s0 : State) : Res State := do
  let s ← suspendReady s0
  match s.ctx.info.key with
  | none => .ok (endService s)
  | some k =>
    let s := packEngine (breakGang (flushLa s))
    let c := { s.ctx with tr := { s.ctx.tr with pendFault := none, last := BitVec.ofNat 8 cPF } }
    let run := c.serviceRun k f
    let w := writeRecord k c.suspended 4 cPF s
    .ok (if w.2 then xferPc c.tr.fbvec { w.1 with live := true, ctx := run } else freeCore w.1)

/-! ### How an instruction ends -/

/-- MBOX 6 discards the partial record; of the instruction that pushed the word nothing else stands (R305, R349). -/
def dropsRecord (code : Nat) (tval : W64) (s : State) : State :=
  if code = cMBOX ∧ tval = 6 then setQs (fun q => { q with qsa := [] }) s else s

/-- The outcome of an instruction from its result. -/
def finish (s : State) (r : Res State) : Host.Outcome State Fault Refusal :=
  match r with
  | .ok t => .next t
  | .error (.wait q) => .next { s with ctx := { s.ctx with waitQ := q } }
  | .error (.trap code detail tval keep) =>
    match takeTrap code detail tval (dropsRecord code tval (keep.getD s)) with
    | some t => .next t
    | none => .next s
  | .error (.missed code detail tval t) =>
    match takeTrap code detail tval (s.afterMiss t) with
    | some t => .next t
    | none => .next s
  | .error (.fault f) => .fault f

/-- An instruction of 4 bytes that goes on to the next. -/
def finish4 (s : State) (r : Res State) : Host.Outcome State Fault Refusal := finish s (r.map (retire 4))

/-! ### Ending a run on a core (R322, R334) -/

/-- SUSPEND, YIELD, EXIT and an EVWAIT that waits raise ILL in a handler (R336). -/
def suspendAllowed (s : State) : Res Unit := must (!s.ctx.st.uh && !supOpen s) cILL s.insn

/-- Write the continuation back with the pc at the next instruction and free the core; `after` acts on the record once it
is written. In a service run nothing is written back (R353). -/
def leaveCore (st : Nat) (s0 : State) (after : Key → State → State) : Res State := do
  let s ← suspendReady s0
  let s := addEvent 0x01 1 (flushLa s)
  match s.ctx.info.key with
  | none => .ok (endService s)
  | some k =>
    let s := packEngine (breakGang s)
    let c := { s.ctx with pc := pcAdd s.ctx.pc 4 }
    .ok (freeCore (after k (writeBack k c.suspended st s.ctx.tr.last.toNat s)))

/-! ### Acting as another core -/

/-- The state with another core's context in `ctx`; the acting one is parked. A core that runs nothing has a blank context. -/
def swapTo (core : Nat) (s : State) : State :=
  if core = s.cur then s
  else
    let rest := s.parked.filter fun p => p.1 != core
    let park := if s.live then rest ++ [(s.cur, s.ctx)] else rest
    match s.parked.find? fun p => p.1 == core with
    | some (_, c) => { s with cur := core, live := true, ctx := c, parked := park }
    | none => { s with cur := core, live := false, ctx := Ctx.blank, parked := park }

/-- Do something as another core and come back. -/
def asCore (core : Nat) (f : State → Res State) (s : State) : Res State := do
  let t ← f (swapTo core s)
  .ok (swapTo s.cur t)

/-- A core runs a continuation. -/
def runsOn (core : Nat) (s : State) : Bool :=
  if core = s.cur then s.live else s.parked.any fun p => p.1 == core

/-- The context on a core. -/
def ctxOn (core : Nat) (s : State) : Option Ctx :=
  if core = s.cur then (if s.live then some s.ctx else none) else (s.parked.find? fun p => p.1 == core).map (·.2)

/-- Write the acting core's continuation back as runnable, at its next instruction, as YIELD does (R144); a VMPOPC that has issued
completes first. -/
def yieldHere (s0 : State) : Res State := do
  if s0.ctx.vec.popc.isSome then wait
  let s ← suspendReady s0
  let s := flushLa s
  match s.ctx.info.key with
  | none => .ok (endService s)
  | some k =>
    let s := packEngine (breakGang s)
    .ok (freeCore (requeue k (writeBack k s.ctx.suspended 1 s.ctx.tr.last.toNat s)))

/-- The cores of every gang but one's own leader: `core` follows another core's lead (R144). -/
def isFollower (core : Nat) (s : State) : Bool :=
  let lead := fun (p : Nat × Ctx) => decide (p.1 < core ∧ core < p.1 + p.2.vec.gang)
  (s.live && lead (s.cur, s.ctx)) || s.parked.any lead

/-- The cells of the members of the gang that a core leads; its own cell when it leads none (R15, R144). -/
def Ctx.memberCells (c : Ctx) (core : Nat) : List Nat :=
  ((List.range c.vec.gang).map fun i => cellOf (core + i)).eraseDups

/-! ### Returns (R134, R135) -/

/-- URET and UIRET: the handler closes. -/
def closeUser (s : State) : State :=
  let s := setG (fun g => g.enter .prog) (setSt (fun t => { t with uh := false }) (flushLa s))
  retireJump (xferPc s.ctx.tr.epc s)

/-- SRET: the open trap closes; the set and UH it displaced come back. -/
def closeSup (s : State) : State :=
  let s := flushLa s
  let s1 := setSt (fun t => { t with mode := t.spp }) s
  let s2 := match s.ctx.tr.openSup with
    | some o =>
      setTr (fun t => { t with openSup := none, uhInt := o.uhInt })
        (setSt (fun t => { t with uh := o.uh }) (setG (fun g => { g with active := o.set }) s1))
    | none => s1
  retireJump (xferPc s.ctx.tr.sepc s2)

end Sys2Proof.Machine
end

