-- ==== Sys2Proof/Machine/Flags.lean ====
section
/-!
DEFINITION. The flags: LFLAGS and FSTAT as results set them (R78, R87, R88).
-/

namespace Sys2Proof.Machine

/-- A scalar LNS or encoding result's flags go into LFLAGS (R87). -/
def setLflags (f : LFlags) (s : State) : State := orLflags f s

/-- A scalar floating-point result's flags go into FSTAT (R78). -/
def setFstat (f : FFlags) (s : State) : State := orFstat f s

/-- Both, as a store through a window sets them (R76, R87). -/
def setStoreFlags (l : LFlags) (f : FFlags) (s : State) : State := orFstat f (orLflags l s)

end Sys2Proof.Machine
end

