-- ==== Sys2Proof/Machine/Operands.lean ====
section
/-!
DEFINITION. Operand forms: sources read, results written, the last-result push, immediates and offsets
(R24, R25, R30, R96, R107).
-/

namespace Sys2Proof.Machine

/-- A signed 13-bit immediate as a 64-bit value (R30). -/
def imm13 (i : BitVec 13) : W64 := sx i.toNat 13

/-- The value of a 19-bit upper immediate: Sx(imm19, 19) * 2^13 (R41). -/
def upper19 (i : BitVec 19) : W64 := BitVec.ofInt 64 (sxInt i.toNat 19 * 8192)

/-- A branch offset of `n` bits in bytes (R30). -/
def brOff (n v : Nat) : Int := sxInt v n * 2

/-- The pops of the sources. -/
def popAll (rs : List Reg) (s : State) : State := rs.foldl (fun s r => popReg r s) s

/-- Write a result and pop the sources; nothing enters the last-result file. -/
def putPlain (rd : Reg) (v : W64) (rs : List Reg) (s : State) : Res State := do
  let s1 ← writeReg rd v s
  .ok (popAll rs s1)

/-- Write a one-cycle result: it also enters the last-result file (R96). -/
def putOne (rd : Reg) (v : W64) (rs : List Reg) (s : State) : Res State := do
  let s1 ← putPlain rd v rs s
  .ok (pushL v s1)

/-- A one-cycle instruction of one source. -/
def one1 (f : W64 → W64) (rd rs1 : Reg) (s : State) : Host.Outcome State Fault Refusal :=
  finish4 s do
    let a ← readReg rs1 s
    putOne rd (f a) [rs1] s

/-- A one-cycle instruction of two sources. -/
def one2 (f : W64 → W64 → W64) (rd rs1 rs2 : Reg) (s : State) : Host.Outcome State Fault Refusal :=
  finish4 s do
    let a ← readReg rs1 s
    let b ← readReg rs2 s
    putOne rd (f a b) [rs1, rs2] s

/-- A one-cycle FP instruction of one source, with its FSTAT flags. -/
def fp1 (f : W64 → W64 × FFlags) (rd rs1 : Reg) (s : State) : Host.Outcome State Fault Refusal :=
  finish4 s do
    let a ← readReg rs1 s
    let s1 ← putOne rd (f a).1 [rs1] s
    .ok (setFstat (f a).2 s1)

/-- A one-cycle FP instruction of two sources. -/
def fp2 (f : W64 → W64 → W64 × FFlags) (rd rs1 rs2 : Reg) (s : State) : Host.Outcome State Fault Refusal :=
  finish4 s do
    let a ← readReg rs1 s
    let b ← readReg rs2 s
    let s1 ← putOne rd (f a b).1 [rs1, rs2] s
    .ok (setFstat (f a b).2 s1)

/-- A fused multiply-add. -/
def fp3 (f : W64 → W64 → W64 → W64 × FFlags) (rd rs1 rs2 rs3 : Reg) (s : State) : Host.Outcome State Fault Refusal :=
  finish4 s do
    let a ← readReg rs1 s
    let b ← readReg rs2 s
    let c ← readReg rs3 s
    let s1 ← putOne rd (f a b c).1 [rs1, rs2, rs3] s
    .ok (setFstat (f a b c).2 s1)

/-- A one-cycle LNS instruction of one source, with its LFLAGS flags. -/
def lns1 (f : W64 → W64 × LFlags) (rd rs1 : Reg) (s : State) : Host.Outcome State Fault Refusal :=
  finish4 s do
    let a ← readReg rs1 s
    let s1 ← putOne rd (f a).1 [rs1] s
    .ok (setLflags (f a).2 s1)

def lns2 (f : W64 → W64 → W64 × LFlags) (rd rs1 rs2 : Reg) (s : State) : Host.Outcome State Fault Refusal :=
  finish4 s do
    let a ← readReg rs1 s
    let b ← readReg rs2 s
    let s1 ← putOne rd (f a b).1 [rs1, rs2] s
    .ok (setLflags (f a b).2 s1)

/-- Put a result with a lookahead window: a push register takes it at once, a plain register when its window says
(R33-R36). -/
def putLookahead (k : Nat) (rd : Reg) (v : W64) (ff : FFlags) (lf : LFlags) (rs : List Reg) (s : State) : Res State := do
  let e : LaEnt := ⟨s.ctx.pc, [(rd, v)], none, ff, lf, 0, false, none⟩
  match rd with
  | .qmi | .qsa =>
    let s1 ← putPlain rd v rs s
    .ok (lookahead k { e with done := true } (setStoreFlags lf ff s1))
  | _ => .ok (lookahead k e (popAll rs s))

/-- A division or square root of two sources (R118, R119). -/
def div2 (f : W64 → W64 → W64 × FFlags) (la : BitVec 4) (rd rs1 rs2 : Reg) (s : State) :
    Host.Outcome State Fault Refusal :=
  finish4 s do
    let a ← readReg rs1 s
    let b ← readReg rs2 s
    putLookahead la.toNat rd (f a b).1 (f a b).2 0 [rs1, rs2] s

/-- Move control to the branch's own address plus an offset (R120, R401). -/
def branchTo (off : Int) (s : State) : State := retireJump (setPc (pcAdd s.ctx.pc off) false (flushLa s))

/-- A compare and branch of two sources. -/
def branch2 (f : W64 → W64 → Bool) (rs1 rs2 : Reg) (off : BitVec 10) (s : State) : Host.Outcome State Fault Refusal :=
  finish s do
    let a ← readReg rs1 s
    let b ← readReg rs2 s
    let s1 := popAll [rs1, rs2] s
    if f a b then .ok (branchTo (brOff 10 off.toNat) s1) else .ok (retire 4 s1)

/-- A compare with zero and branch. -/
def branch1 (f : W64 → Bool) (rs1 : Reg) (off : BitVec 16) (s : State) : Host.Outcome State Fault Refusal :=
  finish s do
    let a ← readReg rs1 s
    let s1 := popAll [rs1] s
    if f a then .ok (branchTo (brOff 16 off.toNat) s1) else .ok (retire 4 s1)

end Sys2Proof.Machine
end

