-- ==== Sys2Proof/Machine/Alu.lean ====
section
/-!
DEFINITION. The integer instructions: ALU, the immediate majors, SHI, LUI and AUIPC (R41, R109-R112).
-/

namespace Sys2Proof.Machine

open Host (Outcome)

/-! ### The integer functions (R109) -/

def aluSll (a b : W64) : W64 := a <<< (b.toNat % 64)
def aluSrl (a b : W64) : W64 := a >>> (b.toNat % 64)
def aluSra (a b : W64) : W64 := a.sshiftRight (b.toNat % 64)
def aluRol (a b : W64) : W64 := a.rotateLeft (b.toNat % 64)
def aluRor (a b : W64) : W64 := a.rotateRight (b.toNat % 64)
def aluSlt (a b : W64) : W64 := boolW (a.slt b)
def aluSltu (a b : W64) : W64 := boolW (a.ult b)
def aluMin (a b : W64) : W64 := if a.slt b then a else b
def aluMax (a b : W64) : W64 := if a.slt b then b else a
def aluMinu (a b : W64) : W64 := if a.ult b then a else b
def aluMaxu (a b : W64) : W64 := if a.ult b then b else a
def aluMulh (a b : W64) : W64 := BitVec.ofInt 64 (a.toInt * b.toInt / 2 ^ 64)
def aluMulhu (a b : W64) : W64 := w64 (a.toNat * b.toNat / 2 ^ 64)
def aluMulhsu (a b : W64) : W64 := BitVec.ofInt 64 (a.toInt * (b.toNat : Int) / 2 ^ 64)
def aluCzero (a b : W64) : W64 := if b = 0 then 0 else a
def aluAddw (a b : W64) : W64 := sx (a + b).toNat 32
def aluSubw (a b : W64) : W64 := sx (a - b).toNat 32
def aluSllw (a b : W64) : W64 := sx (a.toNat % 2 ^ 32 * 2 ^ (b.toNat % 32)) 32
def aluSrlw (a b : W64) : W64 := sx (a.toNat % 2 ^ 32 / 2 ^ (b.toNat % 32)) 32
def aluSraw (a b : W64) : W64 := BitVec.ofInt 64 (sxInt a.toNat 32 / 2 ^ (b.toNat % 32))
def aluMulw (a b : W64) : W64 := sx (a * b).toNat 32
def aluClz (a : W64) : W64 := if a = 0 then 64 else w64 (63 - a.toNat.log2)

/-- Count zeros from bit `i` up. -/
def ctzFrom (a : W64) : Nat → Nat → Nat
  | 0, i => i
  | n + 1, i => if a.getLsbD i then i else ctzFrom a n (i + 1)

def aluCtz (a : W64) : W64 := w64 (ctzFrom a 64 0)
def aluPopc (a : W64) : W64 := w64 ((List.range 64).filter fun i => a.getLsbD i).length
def aluBrev (a : W64) : W64 := w64 (((List.range 64).filter fun i => a.getLsbD i).map fun i => 2 ^ (63 - i)).sum
def aluBswap (a : W64) : W64 := w64 (ofBytes (bytesOf 8 a.toNat).reverse)
def aluSext (n : Nat) (a : W64) : W64 := sx a.toNat n
def aluZext (n : Nat) (a : W64) : W64 := zx a.toNat n

/-! ### ALU, major 0x01 (R109) -/

def execAdd (rd rs1 rs2 : Reg) (s : State) : Outcome State Fault Refusal := one2 (fun a b => a + b) rd rs1 rs2 s
def execSub (rd rs1 rs2 : Reg) (s : State) : Outcome State Fault Refusal := one2 (fun a b => a - b) rd rs1 rs2 s
def execAnd (rd rs1 rs2 : Reg) (s : State) : Outcome State Fault Refusal := one2 (fun a b => a &&& b) rd rs1 rs2 s
def execOr (rd rs1 rs2 : Reg) (s : State) : Outcome State Fault Refusal := one2 (fun a b => a ||| b) rd rs1 rs2 s
def execXor (rd rs1 rs2 : Reg) (s : State) : Outcome State Fault Refusal := one2 (fun a b => a ^^^ b) rd rs1 rs2 s
def execAndn (rd rs1 rs2 : Reg) (s : State) : Outcome State Fault Refusal := one2 (fun a b => a &&& ~~~b) rd rs1 rs2 s
def execOrn (rd rs1 rs2 : Reg) (s : State) : Outcome State Fault Refusal := one2 (fun a b => a ||| ~~~b) rd rs1 rs2 s
def execXnor (rd rs1 rs2 : Reg) (s : State) : Outcome State Fault Refusal := one2 (fun a b => ~~~(a ^^^ b)) rd rs1 rs2 s
def execSll (rd rs1 rs2 : Reg) (s : State) : Outcome State Fault Refusal := one2 aluSll rd rs1 rs2 s
def execSrl (rd rs1 rs2 : Reg) (s : State) : Outcome State Fault Refusal := one2 aluSrl rd rs1 rs2 s
def execSra (rd rs1 rs2 : Reg) (s : State) : Outcome State Fault Refusal := one2 aluSra rd rs1 rs2 s
def execRol (rd rs1 rs2 : Reg) (s : State) : Outcome State Fault Refusal := one2 aluRol rd rs1 rs2 s
def execRor (rd rs1 rs2 : Reg) (s : State) : Outcome State Fault Refusal := one2 aluRor rd rs1 rs2 s
def execSlt (rd rs1 rs2 : Reg) (s : State) : Outcome State Fault Refusal := one2 aluSlt rd rs1 rs2 s
def execSltu (rd rs1 rs2 : Reg) (s : State) : Outcome State Fault Refusal := one2 aluSltu rd rs1 rs2 s
def execMin (rd rs1 rs2 : Reg) (s : State) : Outcome State Fault Refusal := one2 aluMin rd rs1 rs2 s
def execMax (rd rs1 rs2 : Reg) (s : State) : Outcome State Fault Refusal := one2 aluMax rd rs1 rs2 s
def execMinu (rd rs1 rs2 : Reg) (s : State) : Outcome State Fault Refusal := one2 aluMinu rd rs1 rs2 s
def execMaxu (rd rs1 rs2 : Reg) (s : State) : Outcome State Fault Refusal := one2 aluMaxu rd rs1 rs2 s
def execMul (rd rs1 rs2 : Reg) (s : State) : Outcome State Fault Refusal := one2 (fun a b => a * b) rd rs1 rs2 s
def execMulh (rd rs1 rs2 : Reg) (s : State) : Outcome State Fault Refusal := one2 aluMulh rd rs1 rs2 s
def execMulhu (rd rs1 rs2 : Reg) (s : State) : Outcome State Fault Refusal := one2 aluMulhu rd rs1 rs2 s
def execMulhsu (rd rs1 rs2 : Reg) (s : State) : Outcome State Fault Refusal := one2 aluMulhsu rd rs1 rs2 s
def execSh1add (rd rs1 rs2 : Reg) (s : State) : Outcome State Fault Refusal := one2 (fun a b => (a <<< 1) + b) rd rs1 rs2 s
def execSh2add (rd rs1 rs2 : Reg) (s : State) : Outcome State Fault Refusal := one2 (fun a b => (a <<< 2) + b) rd rs1 rs2 s
def execSh3add (rd rs1 rs2 : Reg) (s : State) : Outcome State Fault Refusal := one2 (fun a b => (a <<< 3) + b) rd rs1 rs2 s
def execCzero (rd rs1 rs2 : Reg) (s : State) : Outcome State Fault Refusal := one2 aluCzero rd rs1 rs2 s
def execAddw (rd rs1 rs2 : Reg) (s : State) : Outcome State Fault Refusal := one2 aluAddw rd rs1 rs2 s
def execSubw (rd rs1 rs2 : Reg) (s : State) : Outcome State Fault Refusal := one2 aluSubw rd rs1 rs2 s
def execSllw (rd rs1 rs2 : Reg) (s : State) : Outcome State Fault Refusal := one2 aluSllw rd rs1 rs2 s
def execSrlw (rd rs1 rs2 : Reg) (s : State) : Outcome State Fault Refusal := one2 aluSrlw rd rs1 rs2 s
def execSraw (rd rs1 rs2 : Reg) (s : State) : Outcome State Fault Refusal := one2 aluSraw rd rs1 rs2 s
def execMulw (rd rs1 rs2 : Reg) (s : State) : Outcome State Fault Refusal := one2 aluMulw rd rs1 rs2 s
def execClz (rd rs1 : Reg) (s : State) : Outcome State Fault Refusal := one1 aluClz rd rs1 s
def execCtz (rd rs1 : Reg) (s : State) : Outcome State Fault Refusal := one1 aluCtz rd rs1 s
def execPopc (rd rs1 : Reg) (s : State) : Outcome State Fault Refusal := one1 aluPopc rd rs1 s
def execBrev (rd rs1 : Reg) (s : State) : Outcome State Fault Refusal := one1 aluBrev rd rs1 s
def execBswap (rd rs1 : Reg) (s : State) : Outcome State Fault Refusal := one1 aluBswap rd rs1 s
def execSextb (rd rs1 : Reg) (s : State) : Outcome State Fault Refusal := one1 (aluSext 8) rd rs1 s
def execSexth (rd rs1 : Reg) (s : State) : Outcome State Fault Refusal := one1 (aluSext 16) rd rs1 s
def execSextw (rd rs1 : Reg) (s : State) : Outcome State Fault Refusal := one1 (aluSext 32) rd rs1 s
def execZextb (rd rs1 : Reg) (s : State) : Outcome State Fault Refusal := one1 (aluZext 8) rd rs1 s
def execZexth (rd rs1 : Reg) (s : State) : Outcome State Fault Refusal := one1 (aluZext 16) rd rs1 s
def execZextw (rd rs1 : Reg) (s : State) : Outcome State Fault Refusal := one1 (aluZext 32) rd rs1 s

/-! ### The immediate majors (R110) -/

def execAddi (rd rs1 : Reg) (imm : BitVec 13) (s : State) : Outcome State Fault Refusal :=
  one1 (fun a => a + imm13 imm) rd rs1 s
def execAndi (rd rs1 : Reg) (imm : BitVec 13) (s : State) : Outcome State Fault Refusal :=
  one1 (fun a => a &&& imm13 imm) rd rs1 s
def execOri (rd rs1 : Reg) (imm : BitVec 13) (s : State) : Outcome State Fault Refusal :=
  one1 (fun a => a ||| imm13 imm) rd rs1 s
def execXori (rd rs1 : Reg) (imm : BitVec 13) (s : State) : Outcome State Fault Refusal :=
  one1 (fun a => a ^^^ imm13 imm) rd rs1 s
def execSlti (rd rs1 : Reg) (imm : BitVec 13) (s : State) : Outcome State Fault Refusal :=
  one1 (fun a => aluSlt a (imm13 imm)) rd rs1 s
def execSltiu (rd rs1 : Reg) (imm : BitVec 13) (s : State) : Outcome State Fault Refusal :=
  one1 (fun a => aluSltu a (imm13 imm)) rd rs1 s
def execAddiw (rd rs1 : Reg) (imm : BitVec 13) (s : State) : Outcome State Fault Refusal :=
  one1 (fun a => aluAddw a (imm13 imm)) rd rs1 s

/-! ### SHI, major 0x09 (R111) -/

def execSlli (rd rs1 : Reg) (shamt : BitVec 6) (s : State) : Outcome State Fault Refusal :=
  one1 (fun a => aluSll a (w64 shamt.toNat)) rd rs1 s
def execSrli (rd rs1 : Reg) (shamt : BitVec 6) (s : State) : Outcome State Fault Refusal :=
  one1 (fun a => aluSrl a (w64 shamt.toNat)) rd rs1 s
def execSrai (rd rs1 : Reg) (shamt : BitVec 6) (s : State) : Outcome State Fault Refusal :=
  one1 (fun a => aluSra a (w64 shamt.toNat)) rd rs1 s
def execRori (rd rs1 : Reg) (shamt : BitVec 6) (s : State) : Outcome State Fault Refusal :=
  one1 (fun a => aluRor a (w64 shamt.toNat)) rd rs1 s
def execSlliw (rd rs1 : Reg) (shamt : BitVec 5) (s : State) : Outcome State Fault Refusal :=
  one1 (fun a => aluSllw a (w64 shamt.toNat)) rd rs1 s
def execSrliw (rd rs1 : Reg) (shamt : BitVec 5) (s : State) : Outcome State Fault Refusal :=
  one1 (fun a => aluSrlw a (w64 shamt.toNat)) rd rs1 s
def execSraiw (rd rs1 : Reg) (shamt : BitVec 5) (s : State) : Outcome State Fault Refusal :=
  one1 (fun a => aluSraw a (w64 shamt.toNat)) rd rs1 s

/-! ### LUI and AUIPC (R41, R112) -/

def execLui (rd : Reg) (imm : BitVec 19) (s : State) : Outcome State Fault Refusal :=
  finish4 s (putOne rd (upper19 imm) [] s)

def execAuipc (rd : Reg) (imm : BitVec 19) (s : State) : Outcome State Fault Refusal :=
  finish4 s (putOne rd (w64 (s.ctx.pc.toNat % 2 ^ 63) + upper19 imm) [] s)

end Sys2Proof.Machine
end

