-- ==== Sys2Proof/Machine/Apiary.lean ====
section
/-!
DEFINITION. The apiary: acceptance of qsa records, the mailbox cycle, deliveries, the control block, postings, ends of episodes
and the watchdog (R299-R316, R404).
-/

namespace Sys2Proof.Machine

open Host (Outcome)

/-! ### Status values (R307) -/

def obOK : Nat := 0
def obDONE : Nat := 1
def obTIMEOUT : Nat := 2
def obSTALEPOL : Nat := 3
def obENVFAULT : Nat := 4
def obRESET : Nat := 5

/-! ### Regions (R300-R302) -/

/-- Bytes of an episode region. -/
def regionSize : Nat := 262144

/-- The storage address of byte `u` of a mailbox's region; the spec's own region base 0x1000_0000 is seen by no program. -/
def regionAddr (n u : Nat) : Nat := episodeBase + n * regionSize + u

/-- Zero a region. -/
def zeroRegion (n : Nat) (s : State) : State :=
  let out := fun (c : Host.Cell) => decide (c.1 < regionAddr n 0) || decide (regionAddr n regionSize ≤ c.1)
  setMem (fun m => { m with cells := m.cells.filter out }) s

/-! ### Observations (R307, R308) -/

/-- The words of an observation: SEQ and VERSION echo the action's header. -/
def obsWords (hdr : W64) (n status step reward : Nat) (obs : List W64) : List W64 :=
  w64 (setFld (setFld hdr.toNat 8 8 obs.length) 0 8 n) ::
    w64 (status * 2 ^ 56 + step % 2 ^ 24 * 2 ^ 32 + reward % 2 ^ 32) :: obs

/-- Post the observation of an action to its pusher; one whose pusher has ended is discarded and the mailbox is ready
(R309). -/
def postTo (n : Nat) (a : MbAction) (ws : List W64) (s : State) : State :=
  let gone := decide (a.owner = nobody a.owner.vf)
  let s1 := onOwner a.owner (fun c => { c with qs := { c.qs with qso := c.qs.qso ++ ws } }) s
  setMbox n (fun m => if gone then { m with owed := none, posted := false } else { m with posted := true }) s1

/-- TIMEOUT, ENVFAULT and STALEPOL: COUNT 0, REWARD +0.0, STEP as it stands. -/
def postEnd (n : Nat) (a : MbAction) (status : Nat) (s : State) : State :=
  match mbox? s n with
  | none => s
  | some m => postTo n a (obsWords a.hdr n status m.step 0 []) s

/-! ### Cores of the apiary (R299, R312) -/

/-- The mailbox whose episode an apiary core runs. -/
def episodeOn (ac : Nat) (s : State) : Option Nat := (s.api.cores.find? fun c => c.1 == ac).map Prod.snd

/-- An episode holds a core. -/
def onApiaryCore (n : Nat) (s : State) : Bool := s.api.cores.any fun c => c.2 == n

def setApi (f : Apiary → Apiary) (s : State) : State := { s with api := f s.api }

/-- A mailbox's episode gives its core back. -/
def freeApiaryCore (n : Nat) (s : State) : State := setApi (fun a => { a with cores := a.cores.filter fun c => c.2 != n }) s

/-- A delivery waits for a core (R312). -/
def queueDelivery (n : Nat) (s : State) : State := setApi (fun a => { a with queue := a.queue ++ [n] }) s

/-! ### The end of an episode (R302, R404) -/

/-- The episode of mailbox `n` ends with `status`: its hart state is discarded, and zeroing begins. -/
def endEpisode (n status : Nat) (s : State) : State :=
  let s1 := freeApiaryCore n (setApi (fun a => { a with queue := a.queue.filter (· != n) }) s)
  setMbox n (fun m => { m with hart := none, state := .idle, zeroing := some status }) s1

/-- EPISODE_ZEROED: the region is zero; the ending goes to the turn that has not posted, else to the action already accepted, else
it stays pending. A DONE was posted when it was made. -/
def execEpisodeZeroed (n : Nat) (s : State) : Outcome State Fault Refusal :=
  match mbox? s n with
  | none => .next s
  | some m =>
    match m.zeroing with
    | none => .next s
    | some st =>
      let s1 := zeroRegion n s
      let clear := setMbox n fun m => { m with zeroing := none, current := none, waiting := none, step := 0 }
      if st = obDONE then .next (clear s1)
      else match m.current, m.waiting with
        | some a, _ => .next (clear (postEnd n a st s1))
        | none, some a => .next (clear (postEnd n a st s1))
        | none, none => .next (setMbox n (fun m => { m with zeroing := none, pendingEnd := some st }) s1)

/-! ### Accepting records (R305, R306, R309, R314, R315) -/

/-- The record on its way, once every earlier access of the thread is performed at package scope, or at the scope SCOPECAP leaves,
and every acknowledgement owed has come; the acceptance takes it. -/
def acceptable (s : State) : Option (List W64 × State) :=
  match s.ctx.qs.sent with
  | none => none
  | some ws =>
    let d := demote .pkg s
    if s.live && s.ctx.vec.q.isEmpty && s.ctx.acks.isEmpty && writesDone d.1 s then
      some (ws, setQs (fun q => { q with sent := none }) d.2)
    else none

/-- Accept the record on its way when `f` says it is one of its kind and its mailbox is still the VF's (R303). -/
def acceptRecord (isKind : Nat → Bool) (f : Nat → List W64 → Mailbox → State → State) (s : State) :
    Outcome State Fault Refusal :=
  match acceptable s with
  | none => .next s
  | some (ws, t) =>
    let h := ws.headD 0
    if !isKind (hdrCount h) then .next s
    else match mbox? s (hdrBox h) with
      | none => .next t
      | some m => if m.vf = some s.vfid then .next (f (hdrBox h) ws m t) else .next t

/-- SETMIN: MINVER becomes VERSION. -/
def execSetmin (s : State) : Outcome State Fault Refusal :=
  acceptRecord (· == 0x80) (fun n ws _ => setMbox n fun m =>
    { m with minver := BitVec.ofNat 32 (hdrVersion (ws.headD 0)) }) s

/-- SETWD: the limits of the turns delivered from now on. -/
def execSetwd (s : State) : Outcome State Fault Refusal :=
  acceptRecord (· == 0x81) (fun n ws _ => setMbox n fun m =>
    let v := hdrVersion (ws.headD 0)
    { m with wdstep := BitVec.ofNat 16 v, wdtotal := BitVec.ofNat 16 (v / 65536) }) s

/-- SETIMG: the image's address under the pusher's AX, its length and its entry offset. -/
def execSetimg (s : State) : Outcome State Fault Refusal :=
  acceptRecord (· == 0x82) (fun n ws _ => setMbox n fun m =>
    let w := (ws.getD 2 0).toNat
    { m with image := some (plainVa ((ws.getD 3 0).setWidth 9) (ws.getD 1 0), fld w 0 19, fld w 19 18) }) s

/-- The image's bytes, read through the VF's translation; none where a page does not grant R or a byte is poisoned (R310). -/
def imageBytes (vf va len : Nat) (s : State) : Option (List Byte) :=
  match (hwRange vf va len .read s).1 with
  | none => none
  | some ps =>
    if ps.any fun p => s.mem.anyPoison p.1 p.2 then none else some (ps.flatMap fun p => s.mem.bytes p.1 p.2)

def CtlBlock.zero : CtlBlock := ⟨0, Vector.replicate 6 0, 0, 0, 0, Vector.replicate 14 0⟩

/-- The hart at the start of an episode (R310). -/
def Hart.start (n entry : Nat) : Hart where
  x := ((Vector.replicate 32 (0 : W64)).set 2 0x40000).set 10 (w64 n)
  f := Vector.replicate 32 0
  fcsr := 0
  pc := w64 entry
  resv := none
  instret := 0
  cb := CtlBlock.zero
  waitRd := none

/-- An episode starts with its action waiting for a core; without an image that can be read the action is answered with
ENVFAULT (R310). The image's lines are checked (R180). -/
def startEpisode (n : Nat) (a : MbAction) (m : Mailbox) (s0 : State) : State :=
  let s := match m.image with
    | some i => hwNoted s0.vfid i.1 i.2.1 s0
    | none => s0
  let img := m.image.bind fun i => (imageBytes s.vfid i.1 i.2.1 s).map fun bs => (bs, i.2.2)
  match img with
  | none => postEnd n a obENVFAULT s
  | some (bs, entry) =>
    let s1 := setMem (fun mem => mem.write (regionAddr n 0) bs) (zeroRegion n s)
    queueDelivery n (setMbox n (fun m => { m with
      state := .starting, waiting := some a, current := none, step := 0, used := 0, zeroing := none
      hart := some (Hart.start n entry) }) s1)

/-- (int32)(VERSION - MINVER) < 0 (R314). -/
def staleVersion (hdr : W64) (m : Mailbox) : Bool := (BitVec.ofNat 32 (hdrVersion hdr) - m.minver).slt 0

/-- What an accepted action does (R309, R404): the ending of an ended episode comes first, then the version. -/
def acceptAction (n : Nat) (a : MbAction) (m : Mailbox) (s : State) : State :=
  if m.zeroing.any (· != obDONE) then setMbox n (fun m => { m with waiting := some a }) s
  else match m.pendingEnd with
    | some st => setMbox n (fun m => { m with pendingEnd := none, step := 0 }) (postEnd n a st s)
    | none =>
      if staleVersion a.hdr m then postEnd n a obSTALEPOL s
      else if m.state = .idle then startEpisode n a m s
      else
        let s1 := setMbox n (fun m => { m with state := .running, waiting := some a }) s
        if onApiaryCore n s then s1 else queueDelivery n s1

/-- ACTION_RECORD: an action is accepted; one that its mailbox no longer waits for is dropped. -/
def execActionRecord (s : State) : Outcome State Fault Refusal :=
  acceptRecord (fun c => decide (c ≤ 6)) (fun n ws m t =>
    let k := s.ctx.ownerKey
    if m.owed = some k ∧ !m.posted then acceptAction n ⟨k, ws.headD 0, ws.drop 1⟩ m t else t) s

/-! ### Deliveries (R312) -/

/-- The delivery served next: the next VF after the last one served, its oldest delivery. -/
def nextDelivery (s : State) : Option (Nat × Nat) :=
  let ws := s.api.queue.filterMap fun n => (mbox? s n).bind fun m => m.vf.map fun v => (n, v)
  let least := fun (l : List (Nat × Nat)) => l.foldl (fun b w => match b with
    | none => some w
    | some c => if w.2 < c.2 then some w else b) none
  match least (ws.filter fun w => decide (s.api.lastVf < w.2)) with
  | some w => some w
  | none => least ws

/-- The control block and the pending load of WAIT at a delivery (R311). -/
def Hart.deliver (h : Hart) (a : MbAction) : Hart :=
  let cb := { CtlBlock.zero with hdr := a.hdr, acts := Vector.ofFn fun i => a.payload.getD i.val 0 }
  match h.waitRd with
  | none => { h with cb := cb }
  | some rd =>
    { h with cb := cb, waitRd := none, instret := h.instret + 1, x := if rd = 0 then h.x else h.x.set rd a.hdr }

/-- ACTION_DELIVERY to a free apiary core. -/
def execActionDelivery (ac : Nat) (s : State) : Outcome State Fault Refusal :=
  if 64 ≤ ac ∨ (episodeOn ac s).isSome then .next s
  else match nextDelivery s with
    | none => .next s
    | some (n, v) =>
      let s1 := setApi (fun a => { a with
        cores := a.cores ++ [(ac, n)], queue := a.queue.filter (· != n), lastVf := v }) s
      .next (setMbox n (fun m => { m with
        current := m.waiting
        waiting := none
        limStep := m.wdstep
        limTotal := m.wdtotal
        turnStart := s.now
        hart := match m.waiting with
          | some a => m.hart.map fun h => h.deliver a
          | none => m.hart }) s1)

/-! ### The environment's side (R311, R312) -/

def setHart (n : Nat) (f : Hart → Hart) (s : State) : State := setMbox n (fun m => { m with hart := m.hart.map f }) s

/-- POST; none where it ends the episode with ENVFAULT. -/
def postTurn (n : Nat) (s : State) : Option State :=
  match mbox? s n with
  | none => none
  | some m =>
    match m.current, m.hart with
    | some a, some h =>
      let done := decide (h.cb.status = 1)
      let status := if done then obDONE else if m.state = .starting then obRESET else obOK
      let step := if status = obRESET then 0 else m.step + 1
      let s1 := postTo n a (obsWords a.hdr n status step h.cb.reward.toNat (h.cb.obs.toList.take h.cb.obsn)) s
      if done then some (setMbox n (fun m => { m with current := none, step := 0 }) (endEpisode n obDONE s1))
      else some (setMbox n (fun m => { m with current := none, state := .live, step := step }) s1)
    | _, _ => none

/-- GCYCLE cycles of the turn in progress. -/
def turnCycles (m : Mailbox) (s : State) : Nat := s.now - m.turnStart

/-- WAIT: the turn is over and the core goes back; the load into `rd` returns at the next delivery. None before the POST. -/
def waitTurn (n : Nat) (rd : Fin 32) (s : State) : Option State :=
  match mbox? s n with
  | none => none
  | some m =>
    if m.current.isSome || m.hart.isNone then none
    else
      let s1 := freeApiaryCore n (setMbox n (fun m => { m with
        used := m.used + turnCycles m s
        hart := m.hart.map fun h => { h with waitRd := some rd } }) s)
      some (if m.waiting.isSome then queueDelivery n s1 else s1)

/-- A read of a control-block register other than WAIT. STEP keeps its value through the turn: after the POST it is the number
posted, 1 after a RESET. -/
def ctlRead (n off : Nat) (s : State) : Option W64 :=
  match mbox? s n with
  | none => none
  | some m =>
    match m.hart with
    | none => none
    | some h =>
      if off = 0x000 then some h.cb.hdr
      else if off = 0x008 then some (w64 (if m.current.isSome then m.step + 1 else Nat.max m.step 1))
      else if 0x040 ≤ off ∧ off ≤ 0x068 ∧ off % 8 = 0 then h.cb.acts[(off - 0x040) / 8]?
      else none

/-- The control block after a write to one of its registers other than POST; none where it ends the episode. -/
def CtlBlock.write (c : CtlBlock) (off : Nat) (v : W64) : Option CtlBlock :=
  if off = 0x080 then (if v.toNat ≤ 14 then some { c with obsn := v.toNat } else none)
  else if off = 0x088 then some { c with reward := v.setWidth 32 }
  else if off = 0x090 then (if v.toNat ≤ 1 then some { c with status := v.toNat } else none)
  else if 0x0C0 ≤ off ∧ off ≤ 0x128 ∧ off % 8 = 0 then some { c with obs := c.obs.set! ((off - 0x0C0) / 8) v }
  else none

/-- A write to the control block. -/
def ctlWrite (n off : Nat) (v : W64) (s : State) : Option State :=
  if off = 0x200 then postTurn n s
  else match (mbox? s n).bind (·.hart) with
    | none => none
    | some h => (h.cb.write off v).map fun c => setHart n (fun h => { h with cb := c }) s

/-- The turn exceeds WDSTEP, or the episode's turns together WDTOTAL, as both stood at the delivery (R313). -/
def watchdogDue (m : Mailbox) (s : State) : Bool :=
  let limit := if m.limStep = 0 then 1000 else m.limStep.toNat
  decide (limit * 1250 < turnCycles m s) ||
    (m.limTotal != 0 && decide (m.limTotal.toNat * 1250000 < m.used + turnCycles m s))

/-- Act for the episode an apiary core runs; the watchdog ends it first when its turn has taken too long, ENVFAULT where the act
is not allowed. -/
def forEpisode (ac : Nat) (f : Nat → State → Option State) (s : State) : Outcome State Fault Refusal :=
  match episodeOn ac s with
  | none => .next s
  | some n =>
    if (mbox? s n).any fun m => watchdogDue m s then .next (endEpisode n obTIMEOUT s)
    else .next ((f n s).getD (endEpisode n obENVFAULT s))

def execPost (ac : Nat) (s : State) : Outcome State Fault Refusal := forEpisode ac postTurn s

def execWait (ac : Nat) (s : State) : Outcome State Fault Refusal := forEpisode ac (fun n => waitTurn n 0) s

def execControlBlockWrite (ac off : Nat) (v : W64) (s : State) : Outcome State Fault Refusal :=
  forEpisode ac (fun n => ctlWrite n off v) s

/-! ### The watchdog (R313) -/

/-- WATCHDOG_EXPIRY. -/
def execWatchdogExpiry (n : Nat) (s : State) : Outcome State Fault Refusal :=
  match mbox? s n with
  | none => .next s
  | some m => if onApiaryCore n s && watchdogDue m s then .next (endEpisode n obTIMEOUT s) else .next s

end Sys2Proof.Machine
end

