-- ==== Sys2Proof/Machine/Caps.lean ====
section
/-!
DEFINITION. The capability instructions (R127-R131).
-/

namespace Sys2Proof.Machine

open Host (Outcome)

/-! ### Fields of the high word (R127) -/

def capBase (lo : W64) : Nat := lo.toNat
def capMant (hi : W64) : Nat := fld hi.toNat 10 18
def capExp (hi : W64) : Nat := fld hi.toNat 28 6
def capLength (hi : W64) : Nat := capMant hi * 2 ^ capExp hi
def capR (hi : W64) : Bool := hi.getLsbD 34
def capW (hi : W64) : Bool := hi.getLsbD 35
def capLC (hi : W64) : Bool := hi.getLsbD 36
def capSC (hi : W64) : Bool := hi.getLsbD 37
def capEng (hi : W64) : Bool := hi.getLsbD 38
def capC (hi : W64) : Bool := hi.getLsbD 9

/-- A base no capability may use (R172). -/
def capMalformed (lo hi : W64) : Bool :=
  if capC hi then !lo.getLsbD 63 || decide (fld hi.toNat 0 9 ≠ 0) else lo.getLsbD 63

/-- The smallest exponent whose mantissa fits in 18 bits, from `e` on (R128). -/
def cbndExp (n : Nat) : Nat → Nat → Nat
  | 0, e => e
  | fuel + 1, e => if n / 2 ^ e < 2 ^ 18 then e else cbndExp n fuel (e + 1)

/-- The high word with another length: the largest representable one not above `n` (R128). -/
def cbndHi (hi : W64) (n : Nat) : W64 :=
  let e := cbndExp n 64 0
  w64 (setFld (setFld hi.toNat 10 18 (n / 2 ^ e)) 28 6 e)

/-- CBND (R128). -/
def execCbnd (kd ks : Cap) (rs2 : Reg) (s : State) : Outcome State Fault Refusal :=
  finish4 s do
    let n ← readReg rs2 s
    must (s.ctx.g.capTag ks) cCAPVIOL 0
    let hi := s.ctx.g.capHi ks
    must (decide (n.toNat ≤ capLength hi)) cCAPVIOL n
    .ok (setG (fun g => g.setCap kd (s.ctx.g.capLo ks) (cbndHi hi n.toNat) true) (popAll [rs2] s))

/-- CPERM (R129). -/
def execCperm (kd ks : Cap) (rs2 : Reg) (s : State) : Outcome State Fault Refusal :=
  finish4 s do
    let b ← readReg rs2 s
    must (s.ctx.g.capTag ks) cCAPVIOL 0
    let hi := s.ctx.g.capHi ks
    let hi' := w64 (setFld hi.toNat 34 5 (fld (hi.toNat &&& (b.toNat * 2 ^ 34)) 34 5))
    .ok (setG (fun g => g.setCap kd (s.ctx.g.capLo ks) hi' true) (popAll [rs2] s))

def execCgetb (rd : Reg) (ks : Cap) (s : State) : Outcome State Fault Refusal :=
  finish4 s (putOne rd (s.ctx.g.capLo ks) [] s)

def execCgetl (rd : Reg) (ks : Cap) (s : State) : Outcome State Fault Refusal :=
  finish4 s (putOne rd (w64 (Nat.min (capLength (s.ctx.g.capHi ks)) (2 ^ 64 - 1))) [] s)

/-- CGETP (R130). -/
def cgetpVal (hi : W64) : W64 :=
  w64 (fld hi.toNat 34 5 + (if capC hi then 2 ^ 8 else 0) + fld hi.toNat 0 9 * 2 ^ 16)

def execCgetp (rd : Reg) (ks : Cap) (s : State) : Outcome State Fault Refusal :=
  finish4 s (putOne rd (cgetpVal (s.ctx.g.capHi ks)) [] s)

def execCgett (rd : Reg) (ks : Cap) (s : State) : Outcome State Fault Refusal :=
  finish4 s (putOne rd (boolW (s.ctx.g.capTag ks)) [] s)

/-- CMOV (R131). -/
def execCmov (kd ks : Cap) (s : State) : Outcome State Fault Refusal :=
  finish4 s (.ok (setG (fun g => g.setCap kd (g.capLo ks) (g.capHi ks) (g.capTag ks)) s))

/-- CCLR (R131). -/
def execCclr (kd : Cap) (s : State) : Outcome State Fault Refusal :=
  finish4 s (.ok (setG (fun g => g.setCap kd 0 0 false) s))

end Sys2Proof.Machine
end

