-- ==== Sys2Proof/Machine/Mem.lean ====
section
/-!
DEFINITION. Scalar memory instructions: loads, acquire loads, stores, LOGST, AMOs, LCAP, SCAP
(R197-R211, R215).
-/

namespace Sys2Proof.Machine

open Host (Outcome)

/-! ### Loads (R201-R203) -/

/-- The register value of a loaded value of `size` bytes. -/
def loadVal (signed : Bool) (size v : Nat) : W64 := if signed then sx v (8 * size) else zx v (8 * size)

/-- Loads in the windows of leading loads that read other bytes leave those loads' values open; one of the same bytes fixes
them (R226). -/
def fixMeeting (x : Span) (s : State) : State :=
  let fix := fun (e : LaEnt) => if e.read.any fun r => x.meets (r.place.span r.size) then { e with read := none } else e
  { s with ctx := { s.ctx with la := s.ctx.la.map fix } }

/-- The value of the load just put may still be fixed anew while its window is open (R226). -/
def offerRead (la : Nat) (r : LaRead) (s : State) : State :=
  if la = 0 then s
  else match s.ctx.la.getLast? with
    | some e => if e.done then s
      else { s with ctx := { s.ctx with la := s.ctx.la.dropLast ++ [{ e with read := some r }] } }
    | none => s

/-- A load at base + displacement; with `defer`, its value may be fixed later than those of the loads of its window (R226). A
load makes no pop: base and index are never queue registers (R25). -/
def loadAt (defer : Bool) (la : BitVec 4) (rd base : Reg) (disp : Int) (size : Nat) (signed : Bool) (s0 : State) :
    Res State := do
  let s ← fenceGate true false s0
  let p ← readReg base s
  let ea ← formEa p disp
  let (v, lf, pl, s1) ← readScalar ea size s
  let s2 ← putLookahead la.toNat rd (loadVal signed size v) 0 lf [] (fixMeeting (pl.span size) s1)
  .ok (if defer then offerRead la.toNat ⟨pl, size, signed, false, s.mem.nextMsg⟩ s2 else s2)

/-- LD (R201): off6 counts units of the size. -/
def load (la : BitVec 4) (rd base : Reg) (off : BitVec 6) (size : Nat) (signed : Bool) (s : State) :
    Outcome State Fault Refusal :=
  finish4 s (loadAt true la rd base (off.toNat * size : Nat) size signed s)

/-- LDX: the index times the size, as a signed 64-bit value. -/
def loadX (la : BitVec 4) (rd base index : Reg) (size : Nat) (signed : Bool) (s : State) : Outcome State Fault Refusal :=
  finish4 s do
    let i ← readReg index s
    loadAt true la rd base (sxInt (i.toNat * size) 64) size signed s

/-- LDAQ (R202): an acquire at its scope, demoted as R215 gives, once its read is answered; its value is fixed then. -/
def loadAq (la : BitVec 4) (scope : Scope) (rd base : Reg) (size : Nat) (signed : Bool) (s : State) :
    Outcome State Fault Refusal :=
  finish4 s do
    let s1 ← loadAt false la rd base 0 size signed s
    let d := demote scope s1
    .ok (acquire d.1 d.2)

def execLdB (la : BitVec 4) (rd base : Reg) (off : BitVec 6) (s : State) : Outcome State Fault Refusal :=
  load la rd base off 1 true s
def execLdBu (la : BitVec 4) (rd base : Reg) (off : BitVec 6) (s : State) : Outcome State Fault Refusal :=
  load la rd base off 1 false s
def execLdH (la : BitVec 4) (rd base : Reg) (off : BitVec 6) (s : State) : Outcome State Fault Refusal :=
  load la rd base off 2 true s
def execLdHu (la : BitVec 4) (rd base : Reg) (off : BitVec 6) (s : State) : Outcome State Fault Refusal :=
  load la rd base off 2 false s
def execLdW (la : BitVec 4) (rd base : Reg) (off : BitVec 6) (s : State) : Outcome State Fault Refusal :=
  load la rd base off 4 true s
def execLdWu (la : BitVec 4) (rd base : Reg) (off : BitVec 6) (s : State) : Outcome State Fault Refusal :=
  load la rd base off 4 false s
def execLdD (la : BitVec 4) (rd base : Reg) (off : BitVec 6) (s : State) : Outcome State Fault Refusal :=
  load la rd base off 8 false s

def execLdxB (la : BitVec 4) (rd base index : Reg) (s : State) : Outcome State Fault Refusal :=
  loadX la rd base index 1 true s
def execLdxBu (la : BitVec 4) (rd base index : Reg) (s : State) : Outcome State Fault Refusal :=
  loadX la rd base index 1 false s
def execLdxH (la : BitVec 4) (rd base index : Reg) (s : State) : Outcome State Fault Refusal :=
  loadX la rd base index 2 true s
def execLdxHu (la : BitVec 4) (rd base index : Reg) (s : State) : Outcome State Fault Refusal :=
  loadX la rd base index 2 false s
def execLdxW (la : BitVec 4) (rd base index : Reg) (s : State) : Outcome State Fault Refusal :=
  loadX la rd base index 4 true s
def execLdxWu (la : BitVec 4) (rd base index : Reg) (s : State) : Outcome State Fault Refusal :=
  loadX la rd base index 4 false s
def execLdxD (la : BitVec 4) (rd base index : Reg) (s : State) : Outcome State Fault Refusal :=
  loadX la rd base index 8 false s

def execLdaqB (la : BitVec 4) (scope : Scope) (rd base : Reg) (s : State) : Outcome State Fault Refusal :=
  loadAq la scope rd base 1 true s
def execLdaqBu (la : BitVec 4) (scope : Scope) (rd base : Reg) (s : State) : Outcome State Fault Refusal :=
  loadAq la scope rd base 1 false s
def execLdaqH (la : BitVec 4) (scope : Scope) (rd base : Reg) (s : State) : Outcome State Fault Refusal :=
  loadAq la scope rd base 2 true s
def execLdaqHu (la : BitVec 4) (scope : Scope) (rd base : Reg) (s : State) : Outcome State Fault Refusal :=
  loadAq la scope rd base 2 false s
def execLdaqW (la : BitVec 4) (scope : Scope) (rd base : Reg) (s : State) : Outcome State Fault Refusal :=
  loadAq la scope rd base 4 true s
def execLdaqWu (la : BitVec 4) (scope : Scope) (rd base : Reg) (s : State) : Outcome State Fault Refusal :=
  loadAq la scope rd base 4 false s
def execLdaqD (la : BitVec 4) (scope : Scope) (rd base : Reg) (s : State) : Outcome State Fault Refusal :=
  loadAq la scope rd base 8 false s

/-! ### Stores (R204-R206) -/

/-- The release of a store or AMO at a scope: wait for the earlier accesses, at the demoted scope (R205, R215). -/
def releaseAt (rel : Option Scope) (s : State) : Res (Option Scope × State) := do
  match rel with
  | none => .ok (none, s)
  | some sc =>
    let t ← releaseReady (demote sc s).1 s
    let d := demote sc t
    .ok (some d.1, d.2)

/-- What a store writes through its window: the bytes, the kind of the store and the flags (R168, R173, R204). -/
def storeData (p : Place) (size : Nat) (v : W64) (raw : LFlags) (s : State) :
    Res (List Byte × StKind × LFlags × FFlags) := do
  let w := p.win
  if w = 14 then .ok (valBytes size v.toNat, .tagBits, raw, 0)
  else if winRaw w then .ok (valBytes size v.toNat, .plain, raw, 0)
  else
    let d ← readDesc p s
    let r := elemEncode false w (v.setWidth 32) d
    if w = 6 ∨ w = 8 then .ok (valBytes 1 r.1, .nibble p.hi, r.2.1, r.2.2)
    else .ok (valBytes (winBytes w size) r.1, .plain, r.2.1, r.2.2)

/-- A globally acknowledged store, as a package or system release is, goes to the directory at its home (R205, R240). -/
def toHome (t : Target) (size : Nat) (s : State) : State :=
  if isGlobal t.place.addr then addEvent 0x09 (flits s (.core s.cur) t.home size) s else s

/-- A store of the low `size` bytes of `v`, whose flags so far are `raw`. A store to a lost page has no effect (log 21). -/
def storeAt (base : Reg) (disp : Nat) (size : Nat) (v : W64) (raw : LFlags) (g : Bool) (rel : Option Scope) (s00 : State) :
    Res State := do
  let s ← fenceGate false true (fixReads s00)
  let p ← readReg base s
  let ea ← formEa p disp
  let (rel', s0) ← releaseAt rel s
  let (t, s1) ← issueAccess ea size .write .scalar true (fun _ => .ok ()) s0
  accessWaits (t.place.span size) s
  let (bs, kind, lf, ff) ← storeData t.place size v raw s
  let s2 := setStoreFlags lf ff s1
  if t.lost then .ok s2
  else
    let wide := rel'.any fun x => decide (3 ≤ x.code)
    let s3 := if g then oweAck ea t.place.addr wide wide (toHome t size s2) else s2
    enqueueStore (newStore t.place.addr bs kind g rel' ea s3) s3

/-- ST (R204). -/
def store (rs base : Reg) (off : BitVec 6) (g : Bool) (rel : Option Scope) (size : Nat) (s : State) :
    Outcome State Fault Refusal :=
  finish4 s do
    let v ← readReg rs s
    let s1 ← storeAt base (off.toNat * size) size v 0 g rel s
    .ok (popAll [rs] s1)

def execStB (rs base : Reg) (off : BitVec 6) (g : Bool) (rel : Option Scope) (s : State) : Outcome State Fault Refusal :=
  store rs base off g rel 1 s
def execStH (rs base : Reg) (off : BitVec 6) (g : Bool) (rel : Option Scope) (s : State) : Outcome State Fault Refusal :=
  store rs base off g rel 2 s
def execStW (rs base : Reg) (off : BitVec 6) (g : Bool) (rel : Option Scope) (s : State) : Outcome State Fault Refusal :=
  store rs base off g rel 4 s
def execStD (rs base : Reg) (off : BitVec 6) (g : Bool) (rel : Option Scope) (s : State) : Outcome State Fault Refusal :=
  store rs base off g rel 8 s

/-- LOGST (R206): the code of the FP32 value, stored as ST.B or ST.H does. -/
def logStore (enc : W32 → Nat × LFlags) (rs base : Reg) (off : BitVec 6) (g : Bool) (rel : Option Scope) (size : Nat)
    (s : State) : Outcome State Fault Refusal :=
  finish4 s do
    let v ← readReg rs s
    let c := enc (v.setWidth 32)
    let s1 ← storeAt base (off.toNat * size) size (w64 c.1) c.2 g rel s
    .ok (popAll [rs] s1)

def execLogstB (rs base : Reg) (off : BitVec 6) (g : Bool) (rel : Option Scope) (s : State) :
    Outcome State Fault Refusal := logStore (log8 false) rs base off g rel 1 s
def execLogstH (rs base : Reg) (off : BitVec 6) (g : Bool) (rel : Option Scope) (s : State) :
    Outcome State Fault Refusal := logStore (log16 false) rs base off g rel 2 s

/-! ### AMOs (R207-R209) -/

/-- The new value of an AMO on `n` bits; none where nothing is written (R207). -/
def amoNew (op : AmoOp) (n old b expect : Nat) : Option Nat :=
  let lt := decide (sxInt old n < sxInt b n)
  match op with
  | .add => some ((old + b) % 2 ^ n)
  | .and => some (old &&& b)
  | .or => some (old ||| b)
  | .xor => some (old ^^^ b)
  | .min => some (if lt then old else b)
  | .max => some (if lt then b else old)
  | .minu => some (if old < b then old else b)
  | .maxu => some (if old < b then b else old)
  | .swap => some b
  | .cas => if old = expect then some b else none

/-- An agent of a die takes the line of some bytes exclusive: what its die already sees has its place, the writes of other dies
on the line are performed, and the newest value is read, which its die reads no older than again (R208, R223, R224). `hive`
says that the hive die's engine takes it. -/
def takeLine (hive : Bool) (a n : Nat) (s0 : State) : State :=
  let die := dieOf s0.cur
  let s := settleShown die a n s0
  setMem (fun m =>
    let m' := m.performLines (fun w => hive || w.die != die) s.now a n
    { m' with msgs := m'.msgs.map fun w => if w.touches a n then (w.mark die a n).cover die (some s.ctx.ownerKey) else w }) s

/-- The AMO runs at the hive die's atomic engine (R208). -/
def amoAtHive (p : Place) (sc : Scope) : Bool :=
  isGlobal p.addr && (decide (3 ≤ sc.code) || homeOf p.addr == .hive)

/-- Perform an AMO: read the newest value, write, acquire at its scope (R207, R208). DESIGN CHOICE (log 10): no slice keeps a copy of
the line and none is dirty after it, as if its result were written home at once; (log 102) a line that becomes poisoned after the
AMO has issued is updated with no ECC. -/
def amoPerform (m : AmoPend) (s : State) : W64 × State :=
  let n := if m.dword then 8 else 4
  let a := forward s m.place.addr
  let s1 := takeLine (amoAtHive m.place m.scope) a n s
  let old := ofBytes (s1.mem.bytes a n)
  let s2 := match amoNew m.op (8 * n) old (m.b.toNat % 2 ^ (8 * n)) (m.expect.toNat % 2 ^ (8 * n)) with
    | some v =>
      let s' := if isGlobal a then dropOthers a none s1 else s1
      placeWrite s.cur s.ctx.ownerKey (some s.ctx.ownerKey) m.place.ptr (decide (3 ≤ m.scope.code)) a (bytesOf n v) s'
    | none => s1
  let s3 := if amoAtHive m.place m.scope then
      { s2 with ctx := (s2.ctx.addEventBy m.sel 0x07 1).addEventBy m.sel 0x09 (flits s (.core s.cur) .hive n) } else s2
  (if m.dword then w64 old else sx old 32, acquire m.scope s3)

/-- An AMO (R207-R209): the release at its scope first, then the sequence of R198, window 0 or 15. With rd other than z it
is performed at once, and at package or system scope the core waits for its acknowledgement; with z it stays pending and the
core goes on. -/
def amo (op : AmoOp) (dword : Bool) (scope : Scope) (rd base rs2 : Reg) (s00 : State) : Outcome State Fault Refusal :=
  finish4 s00 do
    let s ← fenceGate true true (fixReads s00)
    let p ← readReg base s
    let b ← readReg rs2 s
    let x ← if op = .cas then readReg rd s else .ok 0
    let ea ← formEa p 0
    let n := if dword then 8 else 4
    let t ← releaseReady (demote scope s).1 s
    let d := demote scope t
    let own := fun (t : Target) =>
      must (decide (t.place.win = 0 ∨ t.place.win = 15)) cCOORD ea
    let (t, s1) ← issueAccess ea n .amo .scalar (decide (d.1.code ≤ 2)) own d.2
    accessWaits (t.place.span n) s
    if s.mem.anyPoison t.place.addr n then eccAt t.place t.place.addr n s1
    else
      let m : AmoPend := ⟨s.mem.nextMsg, op, dword, d.1, t.place, b, x, s.ctx.sys.evsel⟩
      let s2 := setMem (fun m => { m with nextMsg := m.nextMsg + 1 })
        (if decide (3 ≤ d.1.code) then oweAck ea t.place.addr (rd != .z) true s1 else s1)
      match rd with
      | .z => .ok (popAll [rs2] { s2 with ctx := { s2.ctx with amo := some m } })
      | _ =>
        let r := amoPerform m s2
        putPlain rd r.1 [rs2] r.2

def execAmoadd (dword : Bool) (scope : Scope) (rd base rs2 : Reg) (s : State) : Outcome State Fault Refusal :=
  amo .add dword scope rd base rs2 s
def execAmoand (dword : Bool) (scope : Scope) (rd base rs2 : Reg) (s : State) : Outcome State Fault Refusal :=
  amo .and dword scope rd base rs2 s
def execAmoor (dword : Bool) (scope : Scope) (rd base rs2 : Reg) (s : State) : Outcome State Fault Refusal :=
  amo .or dword scope rd base rs2 s
def execAmoxor (dword : Bool) (scope : Scope) (rd base rs2 : Reg) (s : State) : Outcome State Fault Refusal :=
  amo .xor dword scope rd base rs2 s
def execAmomin (dword : Bool) (scope : Scope) (rd base rs2 : Reg) (s : State) : Outcome State Fault Refusal :=
  amo .min dword scope rd base rs2 s
def execAmomax (dword : Bool) (scope : Scope) (rd base rs2 : Reg) (s : State) : Outcome State Fault Refusal :=
  amo .max dword scope rd base rs2 s
def execAmominu (dword : Bool) (scope : Scope) (rd base rs2 : Reg) (s : State) : Outcome State Fault Refusal :=
  amo .minu dword scope rd base rs2 s
def execAmomaxu (dword : Bool) (scope : Scope) (rd base rs2 : Reg) (s : State) : Outcome State Fault Refusal :=
  amo .maxu dword scope rd base rs2 s
def execAmoswap (dword : Bool) (scope : Scope) (rd base rs2 : Reg) (s : State) : Outcome State Fault Refusal :=
  amo .swap dword scope rd base rs2 s
def execAmocas (dword : Bool) (scope : Scope) (rd base rs2 : Reg) (s : State) : Outcome State Fault Refusal :=
  amo .cas dword scope rd base rs2 s

/-! ### LCAP and SCAP (R210, R211) -/

def capReg (k : Cap) (hi : Bool) : Reg := .m (Fin.ofNat 32 (2 * k.val + hi.toNat))

/-- The 16 bytes and the tag of a granule, as one atomic read (R210). -/
def readCap (a : Nat) (s : State) : List Byte × Bool × State :=
  if isGlobal a then readDie (dieOf s.cur) (some s.ctx.ownerKey) a 16 s else (s.mem.bytes a 16, s.mem.tag a, s)

/-- The two registers an LCAP writes, with the 16 bytes it read. -/
def capDests (kd : Cap) (bs : List Byte) : List (Reg × W64) :=
  [(capReg kd false, w64 (ofBytes (bs.take 8))), (capReg kd true, w64 (ofBytes (bs.drop 8)))]

/-- LCAP (R210): 16 bytes and the granule's tag, one atomic read; it waits for the thread's stores that overlap it. -/
def execLcap (la : BitVec 4) (kd : Cap) (base : Reg) (off : BitVec 6) (s0 : State) : Outcome State Fault Refusal :=
  finish4 s0 do
    let s ← fenceGate true false s0
    let p ← readReg base s
    let ea ← formEa p (off.toNat * 16 : Nat)
    let (t, s1) ← issueAccess ea 16 .read (.big true) true (fun _ => .ok ()) s
    let x : Span := ⟨t.place.addr, 16, true, true⟩
    accessWaits x s
    if (ownStores s).any (fun e => x.meets (e.span s)) then wait
    else if s.mem.anyPoison t.place.addr 16 then eccAt t.place t.place.addr 16 s1
    else
      let r := readCap t.place.addr s1
      let e : LaEnt := ⟨s.ctx.pc, capDests kd r.1, some r.2.1, 0, 0, 0, false, none⟩
      .ok (offerRead la.toNat ⟨t.place, 16, false, true, s.mem.nextMsg⟩ (lookahead la.toNat e (fixMeeting x r.2.2)))

/-- SCAP (R211): a plain store of 16 bytes and the tag. -/
def execScap (ks : Cap) (base : Reg) (off : BitVec 6) (s0 : State) : Outcome State Fault Refusal :=
  finish4 s0 do
    let s ← fenceGate false true (fixReads s0)
    let p ← readReg base s
    let ea ← formEa p (off.toNat * 16 : Nat)
    let (t, s1) ← issueAccess ea 16 .write (.big true) true (fun _ => .ok ()) s
    accessWaits ⟨t.place.addr, 16, true, true⟩ s
    let bs := valBytes 8 (s.ctx.g.capLo ks).toNat ++ valBytes 8 (s.ctx.g.capHi ks).toNat
    if t.lost then .ok s1
    else enqueueStore (newStore t.place.addr bs (.cap (s.ctx.g.capTag ks)) false none ea s1) s1

end Sys2Proof.Machine
end

