-- ==== Sys2Proof/Machine/MemOps.lean ====
section
/-!
DEFINITION. Fences, TDCLR, DIST, PREF and the cache operations (R212-R217, R238).
-/

namespace Sys2Proof.Machine

open Host (Outcome)

/-! ### Fences (R212-R214) -/

/-- A fence with some sets at a scope (R212, R215, R225). Earlier loads have their values when it issues. With WR or WW it does not
execute while an acknowledgement is owed, so that a lost one is entered with its own address (R364, log 100). It is complete at once
when nothing is left to wait for; else it stays pending, holds the later accesses that its sets name, and lets other
instructions issue. -/
def fenceAt (scope : Scope) (rr rw wr ww : Bool) (s : State) : Res State := do
  let t ← if wr || ww then acksDone s else .ok s
  let d := demote scope t
  let f : FencePend := ⟨d.1, rr || wr, rw || ww, rr || wr, wr || ww, s.mem.nextMsg⟩
  let u := if rr || rw then fixReads d.2 else d.2
  if f.done u then .ok (if f.drains then acquire f.scope u else u)
  else .ok { u with ctx := { u.ctx with fences := u.ctx.fences ++ [f] } }

/-- FENCE (R212). -/
def execFence (scope : Scope) (rr rw wr ww : Bool) (s : State) : Outcome State Fault Refusal :=
  finish4 s (fenceAt scope rr rw wr ww s)

/-- Every copy command, matrix instruction and vector instruction the thread issued has completed, and completion records,
slots and credits are delivered (R213). -/
def enginesDone (s : State) : Bool :=
  s.ctx.vec.q.isEmpty &&
    !(s.cp.cmds.any fun c => c.owner == s.ctx.claimKey && c.svc == inService s) &&
    (match ownEngine s with
     | some e => e.mx.queue.isEmpty && e.mx.rows.isEmpty
     | none => true)

/-- The scope of a matrix operand: die, or package when its cell lies on another die (R228). -/
def mxScope (far : Bool) : Scope := if far then .pkg else .die

/-- The owner acquires the engine's stores, at package scope, demoted as R215 gives, when one of them went to another die
(R228, R288, R294). -/
def acquireEngine (s : State) : State :=
  match ownEngine s with
  | none => s
  | some e =>
    let d := demote (mxScope e.mx.far) s
    setEngine e.cell (fun x => { x with far := false }) (acquire d.1 d.2)

/-- The completion of every copy command is observed: an acquire at the widest scope of those not yet observed so (R228). -/
def acquireCopies (s : State) : State :=
  match s.ctx.cmdScope with
  | none => s
  | some sc =>
    let d := demote sc s
    acquire d.1 { d.2 with ctx := { d.2.ctx with cmdScope := none } }

/-- FENCE.E (R213): wait for the engines, acquire the stores of the copy and matrix engines, then a fence with all four sets, among
whose earlier writes those of the copy commands and of the vector stores count. -/
def fenceEngines (scope : Scope) (s : State) : Res State :=
  if enginesDone s then fenceAt scope true true true true (coverWrites (fun _ => true) (acquireCopies (acquireEngine s))) else wait

def execFenceE (scope : Scope) (s : State) : Outcome State Fault Refusal := finish4 s (fenceEngines scope s)

/-- TDCLR (R214): fence.e.sys, and once that is complete TDMASK is zero. -/
def execTdclr (s : State) : Outcome State Fault Refusal :=
  finish4 s do
    let s1 ← fenceEngines .sys (settleFences s)
    if !s1.ctx.fences.isEmpty then wait
    .ok (setSys (fun r => { r with tdmask := 0 }) s1)

/-! ### DIST (R238) -/

/-- DIST: the charge of a range, or all ones; it never faults and charges nothing. -/
def execDist (rd rs1 : Reg) (size : BitVec 13) (s : State) : Outcome State Fault Refusal :=
  finish4 s do
    let p ← readReg rs1 s
    match distRange p size.toNat s with
    | (some n, s1) => putPlain rd (w64 n) [rs1] s1
    | (none, s1) => putPlain rd (BitVec.allOnes 64) [rs1] s1

/-! ### PREF, INVL, FLUSHL (R216, R217) -/

/-- PREF (R216): a hint that fills a line as a read would. A translation in the die's cache fills at once; otherwise the
page miss is left to the translation service (R191). An empty WAYMASK allocates nothing (R179). DESIGN CHOICE (log 105): a hint is no
access, and counts no slice hit or miss (0x03, 0x04). -/
def execPref (rs1 : Reg) (s : State) : Outcome State Fault Refusal :=
  finish4 s do
    let p ← readReg rs1 s
    let cell := cellOf s.cur
    let va := plainVa s.ctx.sys.ax p
    let user := !s.ctx.st.mode
    match s.trans.vf? s.vfid, isCoord p || wayMask s s.vfid cell == 0 with
    | some f, false =>
      match tagAddr f va with
      | none => .ok s
      | some ta =>
        match hitLine s s.fab.slices cell s.vfid ta .read with
        | some _ => .ok s
        | none =>
          match cachedXl s (dieOf s.cur) f va user .read with
          | some x =>
            if reservedPa x.pa || dieLost s (homeOf x.pa).die then .ok s
            else
              let new : CLine := ⟨cell, 0, s.vfid, ta / 64 * 64, x.pa / 64 * 64, genAt s s.vfid ta, x.r, x.w, x.x, false,
                0, s.ctx.info.key⟩
              .ok (fillSlice cell (wayMask s s.vfid cell) (ownCredit s) new
                (fillEvents (ownCredit s) (.core (cell * 4)) (x.pa / 64 * 64) s))
          | none =>
            .ok (addMiss (dieOf s.cur) s.vfid (va / 65536) ⟨cell, va, user, wayMask s s.vfid cell, s.ctx.ownerKey,
              s.ctx.sys.evsel, none⟩ s)
    | _, _ => .ok s

/-- The lines of the cell's slice that hold a VA of the VF, whatever their hallmark. -/
def linesOf (p : W64) (s : State) (l : CLine) : Bool :=
  match s.trans.vf? s.vfid with
  | none => false
  | some f =>
    match tagAddr f (plainVa s.ctx.sys.ax p) with
    | none => false
    | some ta => l.unit == cellOf s.cur && l.vf == s.vfid && l.va == ta / 64 * 64

/-- The physical addresses of those lines. -/
def lineAddrs (p : W64) (s : State) : List Nat := (s.fab.slices.filter (linesOf p s)).map (·.pa)

/-- Some store of the thread to these lines, or an AMO, has not taken its place (R217). -/
def lineBusy (p : W64) (s : State) : Bool :=
  s.ctx.amo.isSome || (ownStores s).any (fun e => (lineAddrs p s).contains (e.addr / 64 * 64))

/-- The write home of these lines: every write that the line holds is performed at system scope (R217), and the way of the dirty ones is
counted (R240). -/
def writeHome (p : W64) (s : State) : State :=
  let ls := s.fab.slices.filter (linesOf p s)
  homeEvents (ownCredit s) (cellOf s.cur) ls (goHome (cellOf s.cur) ls s)

/-- INVL (R217): a fence before it comes first. -/
def execInvl (rs1 : Reg) (s : State) : Outcome State Fault Refusal :=
  finish4 s do
    let p ← readReg rs1 s
    if isCoord p then .ok s
    else
      let t ← fenceGate true true (fixReads s)
      if lineBusy p t then wait
      else .ok (setFab (fun f => { f with slices := f.slices.filter fun l => !linesOf p t l }) (writeHome p t))

/-- FLUSHL (R217): a fence before it comes first. -/
def execFlushl (rs1 : Reg) (s : State) : Outcome State Fault Refusal :=
  finish4 s do
    let p ← readReg rs1 s
    if isCoord p then .ok s
    else
      let t ← fenceGate true true (fixReads s)
      if lineBusy p t then wait
      else
        let clean := fun (l : CLine) => if linesOf p t l then { l with dirty := false } else l
        .ok (setFab (fun f => { f with slices := f.slices.map clean }) (writeHome p t))

/-! ### Zeroed storage (R177) -/

/-- Zero a range of storage: bytes 0, tags and poison clear. -/
def Memory.zeroRange (m : Memory) (a n : Nat) : Memory :=
  { m with
    cells := m.cells.filter fun c => decide (c.1 < a) || decide (a + n ≤ c.1)
    veil := veilCut m.veil a n
    tags := tagsCleared m.tags a n
    poison := m.poison.filter fun u => decide (u < a) || decide (a + n ≤ u)
    checks := m.checks.filter fun c => decide (c.1 < a) || decide (a + n ≤ c.1)
    msgs := msgsCut m.msgs a n }

end Sys2Proof.Machine
end

