-- ==== Sys2Proof/Machine/Sys.lean ====
section
/-!
DEFINITION. System registers: their values, their privileges, and SRD, SWR, SSET and SCLR (R102-R106, R179, R231-R243).
-/

namespace Sys2Proof.Machine

open Host (Outcome)

/-- STATUS as software reads it (R103). -/
def statusVal (s : State) : W64 :=
  let t := s.ctx.st
  let b := fun (x : Bool) (i : Nat) => x.toNat * 2 ^ i
  w64 (b (!s.ctx.vec.q.isEmpty) 0 + b t.sd 1 + b t.uh 2 + b (decide (s.ctx.vec.gang ≠ 1)) 3 + b t.mode 4 + b t.spp 5 +
    b t.vkeep 8 + b t.uien 9 + b t.pin 10 + b t.mclaimed 11)

/-- The cadence that holds now: a pending change holds from its GCYCLE value on (R293, R375). -/
def Coll.inForce (c : Coll) (s : State) : Nat :=
  match c.pending with
  | some (n, t) => if t ≤ s.now then n else c.cadence
  | none => c.cadence

/-- The cadence of a cell: its node's collective's (R374); 1 where no collective is set (log 3). -/
def cadenceOf (cell : Nat) (s : State) : Nat :=
  match s.pow.colls.find? fun c => c.nodes.any fun n => (nodeFrame n).hasCell cell with
  | some c => c.inForce s
  | none => 1

/-- VSHARE of a cell (R102). -/
def vshareOf (cell : Nat) (s : State) : W32 :=
  match s.fab.vshare.find? fun e => e.1 == cell with
  | some e => e.2
  | none => 0x01010101

/-- The cluster's own entry; a cluster never set runs at 0.625 GHz with no bias (log 3). -/
def clusterAt (id : Nat) (s : State) : Cluster :=
  (s.pow.clusters.find? fun c => c.id == id).getD ⟨id, 0, 0, 0, none, 0, 0⟩

/-- The clock of a cluster now, in eighths of a cycle: it runs at 4 to 8 eighths of GCYCLE (R11). -/
def Cluster.clock (c : Cluster) (s : State) : Nat := c.cyc + (s.now - c.since) * (4 + c.freq)

/-- The cluster with another frequency from now on. -/
def Cluster.atFreq (c : Cluster) (f : Nat) (s : State) : Cluster :=
  if c.freq = f then c else { c with freq := f, cyc := c.clock s, since := s.now }

/-- STALLR of a cluster. -/
def stallrOf (cluster : Nat) (s : State) : BitVec 16 := (clusterAt cluster s).stallr

/-- The value a system register reads (R102). -/
def sysRead (r : SysReg) (s : State) : W64 :=
  let x := s.ctx.sys
  let t := s.ctx.tr
  let c := selfCoords s
  match r with
  | .cellx => w64 c.2.2
  | .celly => w64 c.2.1
  | .celld => w64 c.1
  | .rank => w64 (rankOf s.cur)
  | .gthread => x.gthread.setWidth 64
  | .grpmap => x.grpmap.setWidth 64
  | .vfid => w64 x.vfid
  | .home => x.home.setWidth 64
  | .gcycle => s.gcycle
  | .status => statusVal s
  | .cause => t.cause
  | .epc => t.epc
  | .tval => t.tval
  | .upvec => t.upvec
  | .uivec => t.uivec
  | .ax => x.ax.setWidth 64
  | .fillv => x.fillv.setWidth 64
  | .spillsz => x.spillsz.setWidth 64
  | .ovfptr => x.ovfptr
  | .tdmask => x.tdmask.setWidth 64
  | .lflags => x.lflags.setWidth 64
  | .fstat => x.fstat.setWidth 64
  | .wdesc5 => x.wdesc5.setWidth 64
  | .wdesc6 => x.wdesc6.setWidth 64
  | .fbvec => t.fbvec
  | .meter => x.meter
  | .mlimit => x.mlimit
  | .evsel i => (x.evsel[i]).setWidth 64
  | .evc i => x.evc[i]
  | .cadence => w64 (cadenceOf (cellOf s.cur) s)
  | .budget => w64 ((s.trans.acct? s.vfid).map (·.budget) |>.getD 0)
  | .energy => ((s.trans.acct? s.vfid).map (·.energy)).getD 0
  | .stallr => (stallrOf (clusterOf (cellOf s.cur)) s).setWidth 64
  | .occupy => w64 (occupy s s.vfid (cellOf s.cur))
  | .vshare => (vshareOf (cellOf s.cur) s).setWidth 64
  | .scopecap => w64 s.scopecap.code
  | .waymask => (wayMask s s.vfid (cellOf s.cur)).setWidth 64
  | .sepc => t.sepc
  | .scause => t.scause
  | .stval => t.stval
  | .svec => s.svec

/-- Read-only at every privilege (R102). -/
def sysReadOnly (r : SysReg) : Bool :=
  match r with
  | .cellx | .celly | .celld | .rank | .gthread | .grpmap | .vfid | .gcycle | .tdmask | .cadence | .budget | .energy
  | .stallr | .occupy | .scopecap | .waymask => true
  | _ => false

/-- Not to be named at user privilege (R102). -/
def sysSupOnly (r : SysReg) : Bool :=
  match r with
  | .stallr | .vshare | .scopecap | .waymask | .sepc | .scause | .stval | .svec => true
  | _ => false

/-- Readable but not writable at user privilege (R102). -/
def sysUserReadOnly (r : SysReg) : Bool :=
  match r with
  | .home | .spillsz => true
  | _ => false

/-- The write of STATUS (R103): PIN, VKEEP and SD, and SPP at supervisor privilege. -/
def statusWrite (v : W64) (s : State) : State :=
  setSt (fun t => { t with
    pin := v.getLsbD 10, vkeep := v.getLsbD 8, sd := v.getLsbD 1
    spp := if t.mode then v.getLsbD 5 else t.spp }) s

/-- Set a cell's VSHARE. -/
def setVshare (cell : Nat) (v : W32) (s : State) : State :=
  setFab (fun f => { f with vshare :=
    let rest := f.vshare.filter fun e => e.1 != cell
    if v = 0x01010101 then rest else rest ++ [(cell, v)] }) s

/-- The write of a system register, in the bits that exist (R5, R102, R350). -/
def sysWrite (r : SysReg) (v : W64) (s : State) : State :=
  match r with
  | .home => setSys (fun x => { x with home := BitVec.ofNat 37 (fld v.toNat 24 13 * 2 ^ 24) }) s
  | .status => statusWrite v s
  | .cause => setTr (fun t => { t with cause := (v.setWidth 24).setWidth 64 }) s
  | .epc => setTr (fun t => { t with epc := v }) s
  | .tval => setTr (fun t => { t with tval := v }) s
  | .upvec => setTr (fun t => { t with upvec := v }) s
  | .uivec => setTr (fun t => { t with uivec := v }) s
  | .ax => setSys (fun x => { x with ax := v.setWidth 9 }) s
  | .fillv => setSys (fun x => { x with fillv := v.setWidth 32 }) s
  | .spillsz => setSys (fun x => { x with spillsz := BitVec.ofNat 17 (Nat.min (fld v.toNat 10 7 * 1024) 65536) }) s
  | .ovfptr => setSys (fun x => { x with ovfptr := v }) s
  | .lflags => setSys (fun x => { x with lflags := v.setWidth 5 }) s
  | .fstat => setSys (fun x => { x with fstat := v.setWidth 5 }) s
  | .wdesc5 => setSys (fun x => { x with wdesc5 := v.setWidth 40 }) s
  | .wdesc6 => setSys (fun x => { x with wdesc6 := v.setWidth 40 }) s
  | .fbvec => setTr (fun t => { t with fbvec := v }) s
  | .meter => setSys (fun x => { x with meter := v }) s
  | .mlimit => setSys (fun x => { x with mlimit := v }) s
  | .evsel i => setSys (fun x => { x with evsel := x.evsel.set i (BitVec.ofNat 16 (v.toNat % 256)) }) s
  | .evc i => setSys (fun x => { x with evc := x.evc.set i v }) s
  | .vshare => setVshare (cellOf s.cur) (v.setWidth 32) s
  | .sepc => setTr (fun t => { t with sepc := v }) s
  | .scause => setTr (fun t => { t with scause := (v.setWidth 25).setWidth 64 }) s
  | .stval => setTr (fun t => { t with stval := v }) s
  | .svec => setVf s s.vfid fun f => { f with svec := v }
  | _ => s

/-- The checks of R104, in its order; `w` says that the operation writes. -/
def sysCheck (w : Bool) (r : SysReg) (s : State) : Res Unit := do
  must (!(w && sysReadOnly r)) cILL s.insn
  must (!(sysSupOnly r && !s.ctx.st.mode)) cPRIV s.insn
  must (!(w && sysUserReadOnly r && !s.ctx.st.mode)) cILL s.insn

/-- Every earlier instruction of the thread has completed (R104): no fence is pending and no AMO, and the results of windows are
written. Commands in the queues of engines have issued and no more (R105). -/
def sysReady (s : State) : Res State :=
  let t := settleFences s
  if t.ctx.amo.isSome || !t.ctx.fences.isEmpty then wait else .ok { t with ctx := t.ctx.writeLa }

/-- SWR, SSET and SCLR (R104): every earlier result is in, the register is written, rd takes the old value. -/
def sysOp (f : W64 → W64 → W64) (rd : Reg) (sr : SysReg) (rs1 : Reg) (s0 : State) : Outcome State Fault Refusal :=
  finish4 s0 do
    sysCheck true sr s0
    let s ← sysReady s0
    let v ← readReg rs1 s
    let old := sysRead sr s
    putPlain rd old [rs1] (sysWrite sr (f old v) s)

/-- SRD (R104). -/
def execSrd (rd : Reg) (sr : SysReg) (s : State) : Outcome State Fault Refusal :=
  finish4 s do
    sysCheck false sr s
    let s ← sysReady s
    putPlain rd (sysRead sr s) [] s

def execSwr (rd : Reg) (sr : SysReg) (rs1 : Reg) (s : State) : Outcome State Fault Refusal :=
  sysOp (fun _ v => v) rd sr rs1 s

def execSset (rd : Reg) (sr : SysReg) (rs1 : Reg) (s : State) : Outcome State Fault Refusal :=
  sysOp (fun old v => old ||| v) rd sr rs1 s

def execSclr (rd : Reg) (sr : SysReg) (rs1 : Reg) (s : State) : Outcome State Fault Refusal :=
  sysOp (fun old v => old &&& ~~~v) rd sr rs1 s

/-! ### Trap and return instructions (R132-R137) -/

/-- TRAP (R132). -/
def execTrap (code : BitVec 6) (s : State) : Outcome State Fault Refusal :=
  finish s (raise cTRAP (code.setWidth 64))

/-- BREAK (R133). -/
def execBrk (s : State) : Outcome State Fault Refusal := finish s (raise cBREAK 0)

/-- URET (R134). -/
def execUret (s : State) : Outcome State Fault Refusal :=
  finish s do
    must (s.ctx.st.uh && !s.ctx.tr.uhInt) cILL s.insn
    .ok (closeUser s)

/-- UIRET (R134). -/
def execUiret (s : State) : Outcome State Fault Refusal :=
  finish s do
    must (s.ctx.st.uh && s.ctx.tr.uhInt) cILL s.insn
    .ok (closeUser s)

/-- SRET (R135). -/
def execSret (s : State) : Outcome State Fault Refusal :=
  finish s do
    needSup s
    .ok (closeSup s)

/-- The slice of the acting core's node ends, or a stop has reached it (R136, R342). -/
def stopReached (s : State) : Bool :=
  s.sch.nodes.any fun n => (nodeFrame n.num).hasCell (cellOf s.cur) &&
    (match n.phase with
     | .stopping _ _ => true
     | _ => false)

/-- WFI completes (R136). -/
def wfiDone (s : State) : Bool :=
  !s.ctx.qs.qnt.isEmpty || !s.ctx.qs.qcs.isEmpty || !s.ctx.qs.qso.isEmpty ||
    (!s.ctx.qs.pendUi.isEmpty && s.ctx.st.uien) || stopReached s

/-- WFI (R136). -/
def execWfi (s : State) : Outcome State Fault Refusal :=
  if wfiDone s then finish4 s (.ok s) else .next { s with ctx := { s.ctx with waitQ := false, wfi := true } }

/-- UIEN (R137). -/
def execUien (rs1 : Reg) (s : State) : Outcome State Fault Refusal :=
  finish4 s do
    let a ← readReg rs1 s
    .ok (setSt (fun t => { t with uien := a.getLsbD 0 }) (popAll [rs1] s))

end Sys2Proof.Machine
end

