-- ==== Sys2Proof/Machine/Vector.lean ====
section
/-!
DEFINITION. The vector unit: the command queue, gangs, lane operations, reductions, vector memory instructions, and the
grants and completions of the unit (R140-R162).
-/

namespace Sys2Proof.Machine

open Host (Outcome)

/-! ### Lane functions (R150) -/

def vshift (b : W32) : Nat := b.toNat % 32

/-- The result of a lane of two operands, with `d` the old lane of vd. -/
def VBin.lane (f : VBin) (d a b : W32) : W32 × LFlags :=
  match f with
  | .addW => (a + b, 0)
  | .subW => (a - b, 0)
  | .mulW => (a * b, 0)
  | .mulhW => (BitVec.ofInt 32 (a.toInt * b.toInt / 2 ^ 32), 0)
  | .minW => (if a.slt b then a else b, 0)
  | .maxW => (if a.slt b then b else a, 0)
  | .minuW => (if a.ult b then a else b, 0)
  | .maxuW => (if a.ult b then b else a, 0)
  | .and => (a &&& b, 0)
  | .or => (a ||| b, 0)
  | .xor => (a ^^^ b, 0)
  | .sll => (a <<< vshift b, 0)
  | .srl => (a >>> vshift b, 0)
  | .sra => (a.sshiftRight (vshift b), 0)
  | .dot4 => Machine.dot4 true d a b
  | .dot4u => Machine.dot4 false d a b
  | .fadd => (vfadd a b, 0)
  | .fsub => (vfsub a b, 0)
  | .fmul => (vfmul a b, 0)
  | .fma => (vffma d a b, 0)
  | .fmin => (vfmin a b, 0)
  | .fmax => (vfmax a b, 0)
  | .lmulH =>
    let r := lnsMul 15 (lns16 (a.toNat % 65536)) (lns16 (b.toNat % 65536))
    (w32 r.1, r.2)
  | .mov => (b, 0)

/-- The result of a lane of one operand. -/
def VUn.lane (f : VUn) (a : W32) : W32 × LFlags :=
  match f with
  | .frcp => (Machine.frcp a, 0)
  | .frsq => (Machine.frsq a, 0)
  | .exp2 => (fexp2 a, 0)
  | .log2 => (flog2 a, 0)
  | .fabs => (a &&& 0x7FFFFFFF, 0)
  | .fneg => (a ^^^ 0x80000000, 0)
  | .mov => (a, 0)
  | .cvtSW => ((ofInt32 a.toInt).1, 0)
  | .cvtWS => (BitVec.ofInt 32 (toSigned 32 (flush32 a)).1, 0)
  | .cvtSH => (vwiden fp16 (a.toNat % 65536), 0)
  | .cvtHS => (w32 (vnarrow fp16 a), 0)
  | .cvtSBf => (vwiden bf16 (a.toNat % 65536), 0)
  | .cvtBfS => (w32 (vnarrow bf16 a), 0)
  | .linH => lin16 true (lns16 (a.toNat % 65536))
  | .logH => let r := log16 true a; (w32 r.1, r.2)
  | .linB => (lin8 (lns8 (a.toNat % 256)), 0)
  | .logB => let r := log8 true a; (w32 r.1, r.2)

/-- A comparison of two lanes; a NaN gives 0 (R150). -/
def VCmp.lane (f : VCmp) (a b : W32) : Bool :=
  match f with
  | .eqW => a == b
  | .ltW => a.slt b
  | .ltuW => a.ult b
  | .feq => (feq32 (flush32 a) (flush32 b)).1
  | .flt => (flt32 (flush32 a) (flush32 b)).1
  | .fle => (fle32 (flush32 a) (flush32 b)).1

/-! ### Registers and lanes -/

/-- Bit `i` of a mask; vm0 reads all ones (R95). -/
def VecRegs.mbit (v : VecRegs) (vm : VMask) (i : Nat) : Bool := decide (vm.val = 0) || (v.vm[vm]).getLsbD i

/-- A lane of an instruction is active (R148). -/
def VTask.active (t : VTask) (v : VecRegs) (vm : VMask) (i : Nat) : Bool := decide (i < t.width) && v.mbit vm i

/-- The lanes of a core or gang. -/
def VecRegs.lanes (v : VecRegs) : Nat := 16 * v.gang

/-- A lane of a register, whatever its number. -/
def VecRegs.lane (v : VecRegs) (r : VReg) (i : Nat) : W32 := (v.v[r]).toList.getD i 0

/-- Set the lanes of a register where `p` holds. -/
def VecRegs.setLanes (v : VecRegs) (r : VReg) (p : Nat → Bool) (f : Nat → W32) : VecRegs :=
  { v with v := v.v.set r (Vector.ofFn fun i => if p i.val then f i.val else (v.v[r])[i]) }

/-- Set the bits of a mask where `p` holds; nothing writes vm0. -/
def VecRegs.setMask (v : VecRegs) (m : VMask) (p : Nat → Bool) (f : Nat → Bool) : VecRegs :=
  let old := v.vm[m]
  let bits := ((List.range 128).map fun i => if (if p i then f i else old.getLsbD i) then 2 ^ i else 0).sum
  { v with vm := if m.val = 0 then v.vm else v.vm.set m (BitVec.ofNat 128 bits) }

/-- OR the flags of the lanes where `p` holds. -/
def laneFlags (n : Nat) (p : Nat → Bool) (f : Nat → LFlags) : LFlags :=
  (List.range n).foldl (fun a i => if p i then a ||| f i else a) 0

/-! ### Reductions (R93, R151) -/

def VRed.identity (f : VRed) : W32 :=
  match f with
  | .sumW => 0
  | .sumS => 0
  | .maxS => 0xFF800000
  | .minS => 0x7F800000
  | .maxW => 0x80000000

/-- An FP32 pattern is a NaN. -/
def isNan32 (a : W32) : Bool := decide (0x7F800000 < a.toNat % 2 ^ 31)

/-- FP32 minimum or maximum of a reduction step: any NaN gives the canonical NaN. -/
def redMinMax (isMax : Bool) (a b : W32) : W32 :=
  if isNan32 a || isNan32 b then 0x7FC00000 else if isMax then vfmax a b else vfmin a b

def VRed.step (f : VRed) (a b : W32) : W32 :=
  match f with
  | .sumW => a + b
  | .sumS => vfadd a b
  | .maxS => redMinMax true a b
  | .minS => redMinMax false a b
  | .maxW => if a.slt b then b else a

/-- Combine neighbours. -/
def redPairs (f : VRed) : List W32 → List W32
  | a :: b :: t => f.step a b :: redPairs f t
  | t => t

/-- The fixed pairwise tree, `k` levels. -/
def redTree (f : VRed) : Nat → List W32 → W32
  | 0, l => l.headD f.identity
  | k + 1, l => redTree f k (redPairs f l)

/-- The qvs entry of a reduction: INT32 sign-extended, FP32 zero-extended. -/
def VRed.entry (f : VRed) (r : W32) : W64 :=
  match f with
  | .sumW => r.signExtend 64
  | .maxW => r.signExtend 64
  | _ => r.setWidth 64

/-! ### Instructions that touch registers only -/

/-- The effect of a queued instruction without memory access: registers, flags, the qvs entry. -/
def VTask.regEffect (t : VTask) (v : VecRegs) : VecRegs × LFlags × Option W64 :=
  let n := v.lanes
  match t.op with
  | .bin f vd vs1 src vm =>
    let b := fun i => match src with
      | .reg r => v.lane r i
      | .scalar => t.x.setWidth 32
    let r := fun i => f.lane (v.lane vd i) (v.lane vs1 i) (b i)
    let p := fun i => decide (i < n) && t.active v vm i
    (v.setLanes vd p fun i => (r i).1, laneFlags n p fun i => (r i).2, none)
  | .un f vd vs1 vm =>
    let p := fun i => decide (i < n) && t.active v vm i
    (v.setLanes vd p fun i => (f.lane (v.lane vs1 i)).1, laneFlags n p fun i => (f.lane (v.lane vs1 i)).2, none)
  | .cmp f vmd vs1 vs2 vm =>
    (v.setMask vmd (fun i => decide (i < n) && t.active v vm i) fun i => f.lane (v.lane vs1 i) (v.lane vs2 i), 0, none)
  | .sel vd vs1 vs2 vm =>
    (v.setLanes vd (fun i => decide (i < n) && decide (i < t.width)) fun i =>
      if v.mbit vm i then v.lane vs1 i else v.lane vs2 i, 0, none)
  | .perm vd vs1 vs2 vm =>
    (v.setLanes vd (fun i => decide (i < n) && t.active v vm i) fun i => v.lane vs1 ((v.lane vs2 i).toNat % n), 0, none)
  | .red f vs1 vm =>
    let ls := (List.range n).map fun i => if t.active v vm i then v.lane vs1 i else f.identity
    (v, 0, some (f.entry (redTree f 7 ls)))
  | .bcast vd vm => (v.setLanes vd (fun i => decide (i < n) && t.active v vm i) fun _ => t.x.setWidth 32, 0, none)
  | .movs vd => (v, 0, some ((v.lane vd (t.y.toNat % n)).setWidth 64))
  | .ins vd => (v.setLanes vd (fun i => decide (i = t.y.toNat % n)) fun _ => t.x.setWidth 32, 0, none)
  | .iota vd vm => (v.setLanes vd (fun i => decide (i < n) && t.active v vm i) fun i => w32 i, 0, none)
  | .rand vd vm =>
    let acts := (List.range n).filter (t.active v vm)
    let val := fun i => match acts.findIdx? (· == i) with
      | some k =>
        let r := t.rnd.getD (k / 2) 0
        if k % 2 = 0 then r.setWidth 32 else (r >>> 32).setWidth 32
      | none => 0
    (v.setLanes vd (fun i => decide (i < n) && t.active v vm i) val, 0, none)
  | .mand d a b => (v.setMask d (fun i => decide (i < n)) fun i => v.mbit a i && v.mbit b i, 0, none)
  | .mor d a b => (v.setMask d (fun i => decide (i < n)) fun i => v.mbit a i || v.mbit b i, 0, none)
  | .mnot d a => (v.setMask d (fun i => decide (i < n)) fun i => !v.mbit a i, 0, none)
  | .popc a =>
    ({ v with popc := some (some (w64 ((List.range n).filter fun i => decide (i < t.width) && v.mbit a i).length)) }, 0, none)
  | .load _ _ => (v, 0, none)
  | .store _ => (v, 0, none)
  | .setw => (v, 0, none)
  | .ungang => (v, 0, none)

/-! ### Vector memory at completion (R157-R159) -/

/-- The value of one element, its flags, and whether its data is poisoned; a lost home reads 0 (R362). An element of a page that was
lost since its issue is poisoned (log 48). -/
def vecReadElem (p : Place) (s : State) : W32 × LFlags × Bool × State :=
  let a := forward s p.addr
  let n := winBytes p.win 4
  if dieLost s (homeOf a).die then (0, 0, false, s)
  else if s.mem.anyPoison a n || descPoisoned p s || addrLost a s then (0, 0, true, setMem (·.noted a n) s)
  else
    let (bs, s1) := readMem a n s
    let r := elemDecode true p.win (elemRaw p bs) (memDesc p s)
    (r.1, r.2, false, s1)

/-- Read the elements of a load, lowest lane first: lane values, flags, the lowest poisoned pointer. -/
def vecReadAll : List (Nat × Place) → State → List (Nat × W32) × LFlags × Option W64 × State
  | [], s => ([], 0, none, s)
  | (i, p) :: es, s =>
    let r := vecReadElem p s
    let rest := vecReadAll es r.2.2.2
    ((i, r.1) :: rest.1, r.2.1 ||| rest.2.1, if r.2.2.1 then some p.ptr else rest.2.2.1, rest.2.2.2)

/-- Write stored bytes of one element, at once for its die (R158, R224). -/
def vecWriteBytes (p : Place) (x : W32) (s : State) : State × LFlags :=
  let a := forward s p.addr
  if dieLost s (homeOf a).die || pageLost s (scratchCore a) (scratchByte a / 4096) && !isGlobal a then (s, 0)
  else
    let r := elemEncode true p.win x (memDesc p s)
    let bs := if winRaw p.win then bytesOf 4 x.toNat
      else if p.win = 6 ∨ p.win = 8 then
        let old := (s.mem.byte a).toNat
        bytesOf 1 (if p.hi then setFld old 4 4 r.1 else setFld old 0 4 r.1)
      else bytesOf (winBytes p.win 4) r.1
    let s1 := ownLine a (cellOf s.cur) s
    (placeWrite s.cur s.ctx.ownerKey none p.ptr false a bs (settleShown (dieOf s.cur) a bs.length s1), r.2.1)

/-- Write the elements of a store in lane order. -/
def vecWriteAll (lane : Nat → W32) : List (Nat × Place) → State → State × LFlags
  | [], s => (s, 0)
  | (i, p) :: es, s =>
    let r := vecWriteBytes p (lane i) s
    let rest := vecWriteAll lane es r.1
    (rest.1, r.2 ||| rest.2)

/-- Active lanes of a task that lie outside the capability (R157). -/
def VTask.outside (t : VTask) (v : VecRegs) (vm : VMask) : Nat :=
  ((List.range v.lanes).filter fun i => t.active v vm i && !(t.elems.any fun e => e.1 == i)).length

/-- The effect of the instruction at the head of the acting core's queue. -/
def vecRun (t : VTask) (s : State) : State :=
  match t.op with
  | .load vd vm =>
    let r := vecReadAll t.elems s
    let v := s.ctx.vec
    let p := fun i => decide (i < v.lanes) && t.active v vm i
    let val := fun i => match r.1.find? fun e => e.1 == i with
      | some e => e.2
      | none => t.fillv
    let s1 := setVec (fun v => v.setLanes vd p val) r.2.2.2
    let s2 := match r.2.2.1 with
      | some a => setTr (fun x => { x with pendEcc := x.pendEcc ++ [a] }) s1
      | none => s1
    { orLflags r.2.1 s2 with ctx := (orLflags r.2.1 s2).ctx.addEventBy t.sel 0x0B (t.outside v vm) }
  | .store vd =>
    let r := vecWriteAll (s.ctx.vec.lane vd) t.elems s
    { orLflags r.2 r.1 with ctx := (orLflags r.2 r.1).ctx.addEventBy t.sel 0x0B t.y.toNat }
  | _ =>
    let r := t.regEffect s.ctx.vec
    let s1 := orLflags r.2.1 (setVec (fun _ => r.1) s)
    match r.2.2 with
    | some e => setVec (fun v => { v with qvs := v.qvs ++ [e] }) s1
    | none => s1

/-! ### Issue (R141, R157) -/

/-- Entries that qvs holds or is owed (R155). -/
def qvsOwed (v : VecRegs) : Nat :=
  v.qvs.length + (v.q.filter fun t => match t.op with
    | .red _ _ _ => true
    | .movs _ => true
    | _ => false).length

/-- The number by which a memory instruction's earlier accesses are told from its later ones is taken at its issue (R160). -/
def takeStamp (s : State) : State := setMem (fun m => { m with nextMsg := m.nextMsg + 1 }) s

/-- Place an instruction in the queue; a full queue waits (R141). -/
def vecIssue (op : VOp) (x y : W64) (elems : List (Nat × Place)) (rnd : List W64) (s : State) : Res State :=
  if 16 ≤ s.ctx.vec.q.length then wait
  else
    let t : VTask := ⟨op, s.ctx.vec.width, x, y, elems, s.ctx.sys.fillv, rnd, s.ctx.sys.evsel, s.mem.nextMsg, false⟩
    .ok (setVec (fun v => { v with q := v.q ++ [t] }) s)

/-- Issue of an instruction without scalar operands. -/
def vecPlain (op : VOp) (s : State) : Outcome State Fault Refusal := finish4 s (vecIssue op 0 0 [] [] s)

/-- Issue of an instruction whose result goes to qvs: ILL when qvs can take no more (R155). -/
def vecToQvs (op : VOp) (y : W64) (s : State) : Res State := do
  must (decide (qvsOwed s.ctx.vec < 16)) cILL s.insn
  vecIssue op 0 y [] [] s

/-- A short form (2 bytes). -/
def vecShort (op : VOp) (x : W64) (s : State) : Outcome State Fault Refusal :=
  finish s ((vecIssue op x 0 [] [] s).map (retire 2))

/-- A queued instruction writes a vector register. -/
def VTask.writes (t : VTask) (r : VReg) : Bool :=
  match t.op with
  | .bin _ vd _ _ _ => vd == r
  | .un _ vd _ _ => vd == r
  | .sel vd _ _ _ => vd == r
  | .perm vd _ _ _ => vd == r
  | .load vd _ => vd == r
  | .bcast vd _ => vd == r
  | .ins vd => vd == r
  | .iota vd _ => vd == r
  | .rand vd _ => vd == r
  | _ => false

/-- A queued instruction writes a mask. -/
def VTask.writesMask (t : VTask) (m : VMask) : Bool :=
  match t.op with
  | .cmp _ d _ _ _ => d == m
  | .mand d _ _ => d == m
  | .mor d _ _ => d == m
  | .mnot d _ => d == m
  | _ => false

/-- The address of a capability offset: a pointer with its VA, or the fault of a sum that leaves the window (R157). -/
inductive CapAddr where
  | coord (p : W64)
  | glob (va : Nat)
deriving DecidableEq, Repr

def capAddr (lo hi : W64) (off : Int) : Res CapAddr :=
  if capC hi then
    let o := (ptrOff lo : Int) + off
    if o < 0 ∨ 2 ^ 20 ≤ o then raise cCOORD (ptrWithOff lo (o % 2 ^ 20).toNat true)
    else .ok (.coord (ptrWithOff lo o.toNat false))
  else
    .ok (.glob (((fld hi.toNat 0 9 * 2 ^ 63 + lo.toNat % 2 ^ 63 : Nat) + off) % 2 ^ 72).toNat)

/-- The checks of one element, for the core `core` whose lane it is (R157, R145): window 14 names no element (log 89), and the
descriptor of a window-5 or window-6 element is asked for whether its page has moved or not (R72). -/
def vecElem (core : Nat) (a : CapAddr) (k : AKind) (s : State) : Res (Target × State) := do
  match a with
  | .coord p =>
    must (decide (p.toNat % 4 = 0)) cMISALIGN p
    must (decide (ptrWin p ≠ 14)) cCOORD p
    let (t, s1) ← resolve p 4 k .scalar true s
    let t ← keepWalk s1 (withDesc t p s)
    .ok (t, s1)
  | .glob va =>
    let p := w64 (va % 2 ^ 63)
    must (decide (va % 4 = 0)) cMISALIGN p
    resolveVa (cellOf core) va p k true s

/-- Check the elements of the lanes, lowest first: their targets, the sum of charges, the dies. -/
def vecElems (lo hi : W64) (off : Nat → Int) (k : AKind) :
    List Nat → State → Res (List (Nat × Target) × Nat × BitVec 13 × State)
  | [], s => .ok ([], 0, 0, s)
  | i :: is, s => do
    let a ← keepWalk s (capAddr lo hi (off i))
    let core := s.cur + i / 16
    let (t, s1) ← keepWalk s (vecElem core a k s)
    let (ts, n, d, s2) ← vecElems lo hi off k is s1
    .ok ((i, t) :: ts, n + chargeOf s (.core core) t.home 4, d ||| diesOf (dieOf core) t.home, s2)

/-- The flits of the elements of a vector memory instruction that lie in scratchpads, and of their group descriptors (R240). -/
def vecFlits (ts : List (Nat × Target)) (s : State) : State :=
  ts.foldl (fun s t =>
    let core := s.cur + t.1 / 16
    if isGlobal t.2.place.addr then s
    else descFlits core t.2.place (addEvent 0x09 (flits s (.core core) t.2.home 4) s)) s

/-- The checks, charge and issue of a vector memory instruction (R157), once no earlier fence holds it (R212). -/
def vecMem (op : VOp) (k : Cap) (vm : VMask) (off : Nat → Int) (isStore : Bool) (s0 : State) : Res State := do
  let s ← fenceGate (!isStore) isStore s0
  let lo := s.ctx.g.capLo k
  let hi := s.ctx.g.capHi k
  must (s.ctx.g.capTag k) cCAPVIOL 0
  must (!capMalformed lo hi) cCAPVIOL 2
  must (if isStore then capW hi else capR hi) cCAPVIOL 1
  let v := s.ctx.vec
  if vm.val ≠ 0 ∧ v.q.any (fun t => t.writesMask vm) then wait
  else
    let act := (List.range v.lanes).filter fun i => decide (i < v.width) && v.mbit vm i
    let ins := act.filter fun i => decide (0 ≤ off i ∧ off i + 4 ≤ (capLength hi : Int))
    let (ts, n, d, s1) ← vecElems lo hi off (if isStore then .write else .read) ins s
    let s2 ← keepWalk s1 (charge n s1)
    let s3 := touch d s2
    match ts.find? fun t => t.2.stale.isSome with
    | some (_, t) => .error (.trap cSTALE 0 (t.stale.getD 0) (some s3))
    | none =>
      let es := (ts.filter fun t => !t.2.lost).map fun t => (t.1, t.2.place)
      (vecIssue op 0 (w64 (act.length - ins.length)) es [] (vecFlits ts s3)).map takeStamp

end Sys2Proof.Machine
end

