-- ==== Sys2Proof/Machine/Copy.lean ====
section
/-!
DEFINITION. The copy engine: CPQ and CPQT, chunks, credits, ring slots and completions (R247-R258, R393).
-/

namespace Sys2Proof.Machine

open Host (Outcome)

/-! ### Objects in scratchpad (R257, R260, R402) -/

/-- The head of a ring or barrier access: window 0 only, then R166 with the object's size. -/
def objTarget (h : W64) (size : Nat) (s : State) : Res (Target × State) := do
  must (isCoord h && decide (ptrWin h = 0)) cCOORD h
  resolveCoord h size .amo (.big false) true s

/-- A 32-bit field of an object. -/
def objGet (a i : Nat) (s : State) : W32 := w32 (ofBytes (s.mem.bytes (a + i) 4))

/-- Write a 32-bit field of an object, as one access of its owning cell. -/
def objSet (a i : Nat) (v : W32) (s : State) : State := setMem (fun m => m.writeAll (a + i) (bytesOf 4 v.toNat)) s

/-- The check that follows every update of a barrier (R260). -/
def barCheck (a : Nat) (s : State) : State :=
  if objGet a 4 s = 0 ∧ objGet a 12 s = 0 then
    objSet a 4 (objGet a 8 s) (objSet a 0 (objGet a 0 s + 1) s)
  else s

/-- A change of a barrier's transfer bytes pending, with the check. -/
def barBytes (a : Nat) (d : W32) (s : State) : State := barCheck a (objSet a 12 (objGet a 12 s + d) s)

/-- The credits of several chunks, each an update with its check (R254, R260). -/
def barCredits (a : Nat) (ns : List Nat) (s : State) : State := ns.foldl (fun t n => barBytes a (-(w32 n)) t) s

/-! Fields of a ring header (R257). -/
def ringFilled (a : Nat) (s : State) : W32 := objGet a 0 s
def ringClaimed (a : Nat) (s : State) : W32 := objGet a 4 s
def ringReleased (a : Nat) (s : State) : W32 := objGet a 8 s
def ringTaken (a : Nat) (s : State) : W32 := objGet a 12 s
def ringSize (a : Nat) (s : State) : Nat := (objGet a 16 s).toNat
def ringCount (a : Nat) (s : State) : Nat := (objGet a 20 s).toNat
def ringBase (a : Nat) (s : State) : W64 := w64 (ofBytes (s.mem.bytes (a + 24) 8))

/-- The offset of slot `i` in the base's window. -/
def slotOff (a i : Nat) (s : State) : Nat :=
  ptrOff (ringBase a s) + (if ringCount a s = 0 then 0 else i % ringCount a s) * ringSize a s

/-- The pointer of slot `i` (R257). -/
def slotPtr (a i : Nat) (s : State) : W64 := ptrWithOff (ringBase a s) (slotOff a i s % 2 ^ 20) (decide (2 ^ 20 ≤ slotOff a i s))

/-! ### Command words (R248, R249) -/

def cmdLen (w2 : W64) : Nat := fld w2.toNat 0 32
def cmdKind (w2 : W64) : Nat := fld w2.toNat 48 2
def cmdPeer (w2 : W64) : Bool := w2.getLsbD 44
def cmdCaps (w2 : W64) : Bool := w2.getLsbD 40
def cmdUi (w2 : W64) : Bool := w2.getLsbD 41
def cmdSk (w2 : W64) : Cap := Fin.ofNat 16 (fld w2.toNat 32 4)
def cmdDk (w2 : W64) : Cap := Fin.ofNat 16 (fld w2.toNat 36 4)
def cmdScope (w2 : W64) : Scope :=
  match fld w2.toNat 42 2 with
  | 0 => .die
  | 1 => .cell
  | 2 => .pkg
  | _ => .sys

/-- No reserved field and no combination R249 excludes. -/
def cmdOk (w1 w2 : W64) : Bool :=
  decide (fld w2.toNat 50 14 = 0 ∧ fld w2.toNat 45 3 = 0) &&
    (cmdCaps w2 || decide (fld w2.toNat 32 8 = 0)) &&
    (!cmdPeer w2 || (decide (cmdKind w2 = 0 ∨ cmdKind w2 = 3) && decide (fld w2.toNat 36 4 = 0) &&
      decide (fld w1.toNat 20 44 = 0))) &&
    (decide (cmdKind w2 ≠ 2) || (decide (w1 = 0) && decide (fld w2.toNat 36 4 = 0)))

/-! ### Sides (R249, R250) -/

/-- A side that nothing names. -/
def CopySide.none : CopySide := ⟨false, false, 0, 0, 0, 0, 0, 0⟩

/-- A side through windows 1-8 converts elements (R249). -/
def CopySide.decodes (d : CopySide) : Bool := d.coord && decide (1 ≤ d.win ∧ d.win ≤ 8)

/-- A side from a pointer, with bounds `lo` to `hi`. -/
def sideOfPtr (p : W64) (off : Int) (lo hi : Int) (s : State) : CopySide :=
  if isCoord p then ⟨true, false, ptrCore p s, ptrWin p, (ptrOff p : Int) + off, lo, hi, p⟩
  else ⟨false, true, 0, 0, (plainVa s.ctx.sys.ax p : Int) + off, lo, hi, p⟩

/-- A side from a capability and a byte offset, taken as signed (R157, R250). -/
def sideOfCap (k : Cap) (w : W64) (s : State) : CopySide :=
  let lo := s.ctx.g.capLo k
  let hi := s.ctx.g.capHi k
  let b : Int := -w.toInt
  let e : Int := (capLength hi : Int) - w.toInt
  if capC hi then { sideOfPtr lo w.toInt b e s with ptr := lo }
  else ⟨false, false, 0, 0, ((fld hi.toNat 0 9 * 2 ^ 63 + lo.toNat % 2 ^ 63 : Nat) : Int) + w.toInt, b, e, lo⟩

/-- The first command byte in bounds and the first after them; whole elements on a decoding side (R250). -/
def CopySide.span (d : CopySide) (len : Nat) : Nat × Nat :=
  let a := (max d.lo 0).toNat
  let b := (min d.hi len).toNat
  if d.decodes then ((a + 3) / 4 * 4, b / 4 * 4) else (a, b)

/-- A command byte is in bounds on a side; an element is judged whole on a decoding side. -/
def CopySide.inb (d : CopySide) (pos : Nat) : Bool :=
  let p : Int := if d.decodes then (pos / 4 * 4 : Nat) else (pos : Nat)
  let n : Int := if d.decodes then 4 else 1
  decide (d.lo ≤ p ∧ p + n ≤ d.hi)

/-- The virtual address of a command byte of a global side. -/
def CopySide.va (d : CopySide) (pos : Nat) : Nat :=
  let a := (d.base + pos) % 2 ^ 72
  if d.plain then (d.base / 2 ^ 63 * 2 ^ 63 + (d.base % 2 ^ 63 + pos) % 2 ^ 63).toNat else a.toNat

/-- The window offset of a command byte of a coordinate side. -/
def CopySide.off (d : CopySide) (pos : Nat) : Int := d.base + pos

/-- The pointer that names a command byte of a side. -/
def CopySide.at (d : CopySide) (pos : Nat) : W64 :=
  if d.coord then ptrWithOff d.ptr (d.off pos % 2 ^ 20).toNat (decide (d.off pos < 0 ∨ 2 ^ 20 ≤ d.off pos))
  else w64 (d.va pos % 2 ^ 63)

/-- Where one command byte of a side lies. -/
inductive SideLoc where
  /-- a byte of a core's storage: core, byte -/
  | scratch (core b : Nat)
  | global (va : Nat)
  | nowhere
deriving DecidableEq, Repr

/-- Where a command byte lies, with the HOME, SPILLSZ and OVFPTR read at push (R105, R170). -/
def CopySide.loc (d : CopySide) (x : SysRegs) (pos : Nat) (s : State) : SideLoc :=
  if !d.coord then .global (d.va pos)
  else
    let o := (d.off pos).toNat
    if d.win = 15 then
      let sp := x.spillsz.toNat
      if o < sp then
        let f := vfFrame s x.vfid
        let h := x.home.toNat
        if f.holds (fld h 34 3) (fld h 30 4) (fld h 26 4) then
          .scratch (f.cell (fld h 34 3) (fld h 30 4) (fld h 26 4) * 4 + fld h 24 2) (0x30000 - sp + o)
        else .nowhere
      else if x.ovfptr.getLsbD 63 then .nowhere
      else .global (x.ax.toNat * 2 ^ 63 + (x.ovfptr.toNat + (o - sp)) % 2 ^ 63)
    else .scratch d.core (o / winScale d.win)

/-- Command bytes from one up to the next boundary of a page of 4 KiB of storage or of addresses. -/
def CopySide.room (d : CopySide) (x : SysRegs) (pos : Nat) (s : State) : Nat :=
  match d.loc x pos s with
  | .scratch _ b =>
    let sc := winScale d.win
    let left := (4096 - b % 4096) * sc - (d.off pos).toNat % sc
    if d.win = 15 then Nat.max 1 (Nat.min left (x.spillsz.toNat - (d.off pos).toNat)) else left
  | .global va => 4096 - va % 4096
  | .nowhere => 1

/-- What the resolution of a side finds: translations, dies of its homes, the new pointer of the lowest moved byte. -/
structure SideInfo where
  xl : List Xlat
  dies : BitVec 13
  stale : Option W64
deriving DecidableEq, Repr

/-- Resolve one page of a side that holds command byte `pos` (R250). -/
def resolvePage (d : CopySide) (x : SysRegs) (k : AKind) (user : Bool) (pos : Nat) (i : SideInfo) (s : State) :
    Res (SideInfo × State) := do
  let p := d.at pos
  match d.loc x pos s with
  | .nowhere => raise cCOORD p
  | .scratch core b =>
    must (ownsPage s x.vfid core (b / 4096)) cCOORD p
    let die (c : Nat) : BitVec 13 := diesOf (dieOf s.cur) (.core c)
    match tombOf s core (b / 4096) with
    | some t =>
      if d.win = 15 then
        alive (.core core) p s
        alive (.core t.newCore) p s
        .ok ({ i with dies := i.dies ||| die t.newCore }, s)
      else
        alive (.core core) p s
        let o := t.newPage * 4096 * winScale d.win + (d.off pos).toNat % (4096 * winScale d.win)
        let np := ptrWithOff (mkPtr (vfFrame s x.vfid) t.newCore d.win 0) (o % 2 ^ 20) (decide (winEnd d.win ≤ o))
        .ok ({ i with dies := i.dies ||| die core, stale := i.stale.or (some np) }, s)
    | none =>
      alive (.core core) p s
      .ok ({ i with dies := i.dies ||| die core }, s)
  | .global va =>
    let q := if d.coord then w64 ((x.ovfptr.toNat + ((d.off pos).toNat - x.spillsz.toNat)) % 2 ^ 63) else p
    let (r, s1) ← translateNow s (dieOf s.cur) x.vfid va user k q
    if reservedPa r.pa then .error (.fault (.reservedAddress r.pa))
    else
      keepWalk s1 (alive (homeOf r.pa) q s)
      let ta := match s.trans.vf? x.vfid with
        | some f => (tagAddr f va).getD va
        | none => va
      let ent : Xlat := ⟨va / 65536, r.pa / 65536, ta / 65536, genAt s x.vfid ta⟩
      .ok ({ i with
        xl := if i.xl.contains ent then i.xl else i.xl ++ [ent]
        dies := i.dies ||| diesOf (dieOf s.cur) (homeOf r.pa) }, s1)

/-- Resolve the pages of a side from a command byte on, ascending. -/
def resolvePages (d : CopySide) (x : SysRegs) (k : AKind) (user : Bool) :
    Nat → Nat → Nat → SideInfo → State → Res (SideInfo × State)
  | 0, _, _, i, s => .ok (i, s)
  | fuel + 1, pos, hi, i, s =>
    if hi ≤ pos then .ok (i, s)
    else do
      let (i1, s1) ← keepWalk s (resolvePage d x k user pos i s)
      resolvePages d x k user fuel (pos + d.room x pos s) hi i1 s1

/-- The descriptors of a side's first and last elements exist (R72). -/
def sideDescOk (d : CopySide) (x : SysRegs) (a b : Nat) (s : State) : Bool :=
  let wd := if d.win = 5 then x.wdesc5.toNat else x.wdesc6.toNat
  !(d.coord && decide (d.win = 5 ∨ d.win = 6)) ||
    ((descIn x.vfid d.win (d.off a).toNat wd s).isSome && (descIn x.vfid d.win (d.off (b - 4)).toNat wd s).isSome)

/-- Resolution of a side (R249, R250): windows, frame, alignment when either side decodes, End, then page by page. A side with no byte
in bounds has no page, but its pointer is checked (log 96). -/
def resolveSide (d : CopySide) (k : AKind) (len : Nat) (decode : Bool) (s : State) : Res (SideInfo × State) := do
  let p := d.ptr
  let (a, b) := d.span len
  let x := s.ctx.sys
  if d.coord then
    must (decide (fld p.toNat 37 26 = 0)) cCOORD p
    must (decide (d.win ≤ 8 ∨ d.win = 15)) cCOORD p
    must (decide (d.win = 15) || (vfFrame s x.vfid).holds (ptrDie p) (ptrY p) (ptrX p)) cCOORD p
  else .ok ()
  must (!decode || decide (d.base % 4 = 0)) cMISALIGN (d.at 0)
  if b ≤ a then .ok (⟨[], 0, none⟩, s)
  else
    if d.coord then
      must (decide (0 ≤ d.off a)) cCOORD (d.at a)
      must (decide (d.off b ≤ winEnd d.win)) cCOORD (if d.off (b - 1) < 2 ^ 20 then p else d.at (b - 1))
      must (sideDescOk d x a b s) cCOORD p
    else .ok ()
    resolvePages d x k (!s.ctx.st.mode) (len / 1024 + 8) a b ⟨[], 0, none⟩ s

/-- The physical address a translation of the push gives (R195). -/
def xlPa (xl : List Xlat) (va : Nat) : Option Nat :=
  (xl.find? fun e => e.va == va / 65536).map fun e => e.pa * 65536 + va % 65536

/-- The home a byte of a side is charged for. A moved page is charged to its tombstone's cell, through window 15 to its new
place (R176). -/
def sideHome (d : CopySide) (x : SysRegs) (xl : List Xlat) (pos : Nat) (s : State) : Home :=
  match d.loc x pos s with
  | .scratch core b => if d.win = 15 then homeOf (forward s (scratchAddr core b)) else .core core
  | .global va => homeOf ((xlPa xl va).getD 0)
  | .nowhere => .hive

/-- The charge of the bytes from `pos` up to `hi`, run by run, `cost n p` being that of `n` bytes from `p` on (R236). -/
def copyCharge (cost : Nat → Nat → Nat) (room : Nat → Nat) : Nat → Nat → Nat → Nat
  | 0, _, _ => 0
  | fuel + 1, pos, hi =>
    if hi ≤ pos then 0
    else
      let n := Nat.max 1 (Nat.min (room pos) (hi - pos))
      cost n pos + copyCharge cost room fuel (pos + n) hi

/-! ### CPQ and CPQT (R250) -/

/-- The four words of a command. -/
def cmdWords (q : Fin 8) (s : State) : W64 × W64 × W64 × W64 :=
  let m := fun (i : Nat) => s.ctx.g.m.toList.getD (4 * q.val + i) 0
  (m 0, m 1, m 2, m 3)

/-- The capability checks of a copy (R172, R250). -/
def copyCap (k : Cap) (write : Bool) (s : State) : Res Unit := do
  let lo := s.ctx.g.capLo k
  let hi := s.ctx.g.capHi k
  must (s.ctx.g.capTag k) cCAPVIOL 0
  must (!capMalformed lo hi) cCAPVIOL 2
  must (if write then capW hi else capR hi) cCAPVIOL 1
  must (capEng hi) cCAPVIOL 3

/-- Resolve a completion target (R250): its storage, the dies, the new pointer of a moved page. -/
def copyTarget (w2 w3 : W64) (s : State) : Res (Option Target × State) := do
  if cmdKind w2 = 1 then
    let (t, s1) ← objTarget w3 16 s
    .ok (some t, s1)
  else if cmdKind w2 = 2 then
    let (t, s1) ← objTarget w3 32 s
    .ok (some t, s1)
  else .ok (none, s)

/-- A package or system field, `sc` once demoted, also drains for the command's reads, which the core's die makes; FENCE.E later observes
the command at the scope it asked for, demoted then (R215, R228). -/
def drainReads (asked sc : Scope) (s : State) : State :=
  let t := if 3 ≤ sc.code then drainDie (dieOf s.cur) s else s
  let wide := match s.ctx.cmdScope with
    | some x => if x.code ≤ asked.code then asked else x
    | none => asked
  { t with ctx := { t.ctx with cmdScope := some wide } }

/-- What a push decides: the FIFO is full, or the state after acceptance. DESIGN CHOICE (log 106): the MISALIGN of LEN, with TVAL w2,
comes after both ranges and before the completion target; R249 and R250 order the ranges alone. -/
def copyPush (q : Fin 8) (s : State) : Res (Option State) := do
  let (w0, w1, w2, w3) := cmdWords q s
  must (cmdOk w1 w2) cILL w2
  let out := s.ctx.qs.outstanding
  must (decide (out + s.ctx.qs.qcs.length < 32 ∧ out + s.ctx.qs.pendUi.length < 32)) cILL s.insn
  let caps := cmdCaps w2
  let peer := cmdPeer w2
  let ring := decide (cmdKind w2 = 2)
  if caps then copyCap (cmdSk w2) false s else .ok ()
  if caps && !peer && !ring then copyCap (cmdDk w2) true s else .ok ()
  let len := cmdLen w2
  let full : Int := len
  let src := if caps then sideOfCap (cmdSk w2) w0 s else sideOfPtr w0 0 0 full s
  let dst := if peer || ring then CopySide.none
    else if caps then sideOfCap (cmdDk w2) w1 s else sideOfPtr w1 0 0 full s
  let decode := src.decodes || dst.decodes
  let empty : SideInfo := ⟨[], 0, none⟩
  let (si, s1) ← if len = 0 then .ok (empty, s) else resolveSide src .engRead len decode s
  let (di, s2) ← keepWalk s1 (if len = 0 ∨ peer ∨ ring then .ok (empty, s1) else resolveSide dst .engWrite len decode s1)
  keepWalk s2 (must (decide (len = 0) || !decode || decide (len % 4 = 0)) cMISALIGN w2)
  let (t, s3) ← keepWalk s2 (copyTarget w2 w3 s2)
  if 8 ≤ (fifoOf s.cur s).length then .ok none
  else
    let x := s.ctx.sys
    let (a, b) := src.span len
    let (c, d) := if peer || ring then (0, len) else dst.span len
    let thome := (t.map (·.home)).getD .hive
    let srcHome := fun p => sideHome src x si.xl p s3
    let dstHome := fun p => if ring then thome else sideHome dst x di.xl p s3
    let cost := fun m p =>
      if peer then m * 8 * (leg s3 (srcHome p) + 32) else chargeOf s3 (srcHome p) (dstHome p) m
    let room := fun p => if peer || ring then src.room x p s3 else Nat.min (src.room x p s3) (dst.room x p s3)
    let n := if len = 0 then 0 else copyCharge cost room (len / 512 + 16) (Nat.max a c) (Nat.min b d)
    let s4 ← releaseReady (demote (cmdScope w2) s3).1 s3
    let s5 ← keepWalk s4 (charge n s4)
    let tdies := match t with
      | some t => diesOf (dieOf s.cur) t.home
      | none => 0
    let pdie : BitVec 13 := if peer then 0x1000 else 0
    let s6 := touch (si.dies ||| di.dies ||| tdies ||| pdie) s5
    match si.stale.or (di.stale.or (t.bind (·.stale))) with
    | some np => .error (.trap cSTALE 0 np (some s6))
    | none =>
      let dm0 := demote (cmdScope w2) s6
      let dm := (dm0.1, drainReads (cmdScope w2) dm0.1 dm0.2)
      let both := fun (y : CopySide) => !y.decodes
      let carry := caps && capLC (s.ctx.g.capHi (cmdSk w2)) && capSC (s.ctx.g.capHi (cmdDk w2)) && both src && both dst &&
        !peer && !ring
      let cmd : CopyCmd := {
        id := dm.2.cp.nextId
        core := s.cur
        owner := s.ctx.claimKey
        svc := inService s
        user := !s.ctx.st.mode
        w2 := w2
        w3 := w3
        scope := dm.1
        src := src
        dst := dst
        peer := if peer then some (fld w1.toNat 0 4, fld w1.toNat 4 16) else none
        target := (t.map (·.place.addr)).getD 0
        sys := x
        xlats := si.xl ++ di.xl
        place := .fifo
        chunk := 0
        moving := none
        slot := none
        status := 0
        badChunk := 0
        carryTags := carry
        credit := []
        area := none }
      let s7 := setQs (fun q => { q with outstanding := q.outstanding + 1 }) dm.2
      .ok (some { s7 with cp := { s7.cp with cmds := s7.cp.cmds ++ [cmd], nextId := s7.cp.nextId + 1 } })

/-- CPQ (R250). DESIGN CHOICE (log 105): its wait on a full copy FIFO is no wait on a queue register, and is not counted as 0x0D. -/
def execCpq (q : Fin 8) (s : State) : Outcome State Fault Refusal :=
  finish4 s do
    match ← copyPush q s with
    | some t => .ok t
    | none => wait

/-- CPQT (R250). -/
def execCpqt (rd : Reg) (q : Fin 8) (s : State) : Outcome State Fault Refusal :=
  finish4 s do
    match ← copyPush q s with
    | some t => putPlain rd 0 [] t
    | none => putPlain rd 1 [] s

/-! ### The engine's accesses -/

/-- The continuation that pushed a command, under the key of its own accesses (R353). -/
def CopyCmd.pusher (c : CopyCmd) : Key := if c.svc then ⟨c.owner.vf, c.owner.rva + serviceOffset⟩ else c.owner

def setCmd (id : Nat) (f : CopyCmd → CopyCmd) (s : State) : State :=
  { s with cp := { s.cp with cmds := s.cp.cmds.map fun c => if c.id == id then f c else c } }

def cmdOf (id : Nat) (s : State) : Option CopyCmd := s.cp.cmds.find? fun c => c.id == id

/-- Act on the context that pushed a command; a service run's pushes end with it. -/
def toPusher (c : CopyCmd) (f : Ctx → Ctx) (s : State) : State :=
  if c.svc then
    let mine := fun (x : Ctx) => x.info.service == some c.owner
    if s.cur = c.core ∧ s.live then (if mine s.ctx then { s with ctx := f s.ctx } else s)
    else { s with parked := s.parked.map fun p => if p.1 == c.core && mine p.2 then (p.1, f p.2) else p }
  else syncCounters c.owner (onKey c.owner f s)

/-- Credit an event of a command to its pusher, by the selectors at push; to the counter area of a pusher that has exited
(R241). -/
def creditCmd (c : CopyCmd) (code n : Nat) (s : State) : State :=
  if n = 0 then s
  else match c.area with
  | some ctr => creditArea c.owner.vf ctr c.sys.evsel code n s
  | none => toPusher c (·.addEventBy c.sys.evsel code n) s

/-- The physical address that the push's translation gives, while the slot's generation is that of the push (R195), and in
compatibility mode the registers name the same address (R196). -/
def pushXl (c : CopyCmd) (va : Nat) (s : State) : Option Nat :=
  let ta := match s.trans.vf? c.sys.vfid with
    | some f => (tagAddr f va).getD va
    | none => va
  (c.xlats.find? fun e => e.va == va / 65536 && e.tag == ta / 65536 && e.gen == genAt s c.sys.vfid ta).map fun e =>
    e.pa * 65536 + va % 65536

/-- The kind of an engine's access. -/
def engKind (write : Bool) : AKind := if write then .engWrite else .engRead

/-- The storage address of a command byte now: the push's translation, or afresh when that no longer stands (R195); moved pages are
forwarded (R176). -/
def cmdAddr (c : CopyCmd) (d : CopySide) (write : Bool) (pos : Nat) (s : State) : Option Nat :=
  match d.loc c.sys pos s with
  | .nowhere => none
  | .scratch core b => some (forward s (scratchAddr core b))
  | .global va =>
    match pushXl c va s with
    | some a => some a
    | none =>
      match translate s (dieOf c.core) c.sys.vfid va c.user (engKind write) 0 with
      | .ok (x, _) => if reservedPa x.pa then none else some x.pa
      | .error _ => none

/-- The command bytes of the chunk a command is at (R251). -/
def CopyCmd.range (c : CopyCmd) : Nat × Nat := (4096 * c.chunk, Nat.min (4096 * c.chunk + 4096) (cmdLen c.w2))

def CopyCmd.chunks (c : CopyCmd) : Nat := (cmdLen c.w2 + 4095) / 4096

/-- A command byte whose translation of the push no longer stands is translated anew, as a miss of the engine's die (R190, R191,
R195). -/
def refreshAt (c : CopyCmd) (d : CopySide) (write : Bool) (pos : Nat) (s : State) : State :=
  match d.loc c.sys pos s with
  | .global va =>
    if (pushXl c va s).isSome then s
    else match translateFor (creditCmd c) s c.core (dieOf c.core) c.sys.vfid va c.user (engKind write) 0 with
      | .ok (_, t) => t
      | .error e => e.left s
  | _ => s

/-- The pages of a side that the chunk in turn meets are translated anew where they must be; a chunk meets at most three. -/
def refreshXl (c : CopyCmd) (d : CopySide) (write : Bool) (s : State) : State :=
  let sp := d.span (cmdLen c.w2)
  let p0 := Nat.max c.range.1 sp.1
  let p1 := p0 + d.room c.sys p0 s
  let p2 := p1 + d.room c.sys p1 s
  ([p0, p1, p2].filter fun p => decide (p < Nat.min c.range.2 sp.2)).foldl (fun t p => refreshAt c d write p t) s

/-- Every in-bounds byte of the chunk on a side translates, page by page. -/
def chunkOk (c : CopyCmd) (d : CopySide) (write : Bool) (s : State) : Bool :=
  let r := c.range
  (List.range (r.2 - r.1)).all fun i =>
    let pos := r.1 + i
    !d.inb pos || (decide (i ≠ 0) && decide ((d.base + pos) % 4096 ≠ 0) && d.inb (pos - 1) && decide (d.win ≠ 15)) ||
      (cmdAddr c d write pos s).isSome

/-- Some in-bounds byte of a side from `pos` up to `hi` has its home on a die declared lost (R362): one look for each page. -/
def sideLost (c : CopyCmd) (d : CopySide) (write : Bool) (s : State) : Nat → Nat → Nat → Bool
  | 0, _, _ => false
  | fuel + 1, pos, hi =>
    if hi ≤ pos then false
    else
      let n := Nat.max 1 (Nat.min (d.room c.sys pos s) (hi - pos))
      (match cmdAddr c d write pos s with
       | some a => dieLost s (homeOf a).die
       | none => false) || sideLost c d write s fuel (pos + n) hi

/-- A source, destination or completion-target home of command bytes `lo` up to `hi` lies on a lost die (R362). -/
def cmdLost (c : CopyCmd) (lo hi : Nat) (s : State) : Bool :=
  let side := fun (d : CopySide) (w : Bool) =>
    let sp := d.span (cmdLen c.w2)
    let a := Nat.max lo sp.1
    let b := Nat.min hi sp.2
    sideLost c d w s ((b - a) / 512 + 16) a b
  decide (s.fab.lost ≠ 0) &&
    (side c.src false || (c.peer.isNone && (cmdKind c.w2 != 2 || c.slot.isSome) && side c.dst true) ||
      (decide (cmdKind c.w2 = 1 ∨ cmdKind c.w2 = 2) && dieLost s (homeOf (forward s c.target)).die))

/-- Read up to 16 bytes of one granule as an agent of the engine's die does, with the granule's tag (R224). -/
def engRead (die a n : Nat) (s : State) : List Byte × Bool × State :=
  if isGlobal a then readDie die none a n s else (s.mem.bytes a n, s.mem.tag a, s)

def engPoison (a n : Nat) (s : State) : Bool :=
  s.mem.anyPoison a n || addrLost a s || dieLost s (homeOf a).die

/-- The group descriptor of a window-5 or window-6 element of a side, with poison (R72). DESIGN CHOICE (log 87): WDESC is the
push's (R105), the descriptor's bytes are read with the element; a poisoned one poisons the element (R181). -/
def sideDesc (c : CopyCmd) (d : CopySide) (pos : Nat) (s : State) : (Nat × Nat) × Bool :=
  if d.win = 5 ∨ d.win = 6 then
    let wd := if d.win = 5 then c.sys.wdesc5.toNat else c.sys.wdesc6.toNat
    match descIn c.sys.vfid d.win (d.off pos).toNat wd s with
    | some a =>
      let v := ofBytes (s.mem.bytes a 4)
      ((if d.win = 5 then fld v 16 8 else fld v 16 4, fld v 0 16), engPoison a 4 s)
    | none => ((0, 0), true)
  else ((0, 0), false)

/-- The nibble of a window-6 or window-8 element is the high one. -/
def CopySide.hiNib (d : CopySide) (pos : Nat) : Bool :=
  decide (d.win = 6 ∨ d.win = 8) && decide ((d.off pos).toNat / 4 % 2 = 1)

/-- FILLV's bytes as a raw side reads them out of bounds (R250). -/
def fillByte (c : CopyCmd) (pos : Nat) : Byte := BitVec.ofNat 8 (c.sys.fillv.toNat / 2 ^ (8 * (pos % 4)))

/-- Read one decoding element at `pos`: its four bytes, with poison. -/
def readElem (c : CopyCmd) (pos : Nat) (s : State) : List MoveByte × State :=
  let d := c.src
  let out := fun (v : Nat) (bad : Bool) => (bytesOf 4 v).map fun b => (⟨b, bad, none⟩ : MoveByte)
  if !d.inb pos then (out c.sys.fillv.toNat false, s)
  else match cmdAddr c d false pos s with
    | none => (out 0 true, s)
    | some a =>
      let n := winBytes d.win 4
      let r := engRead (dieOf c.core) a n s
      let pl : Place := ⟨a, d.win, d.hiNib pos, 0, 0⟩
      let ds := sideDesc c d pos s
      let v := elemDecode true d.win (elemRaw pl r.1) ds.1
      (out v.1.toNat (engPoison a n s || ds.2), setMem (·.noted a n) r.2.2)

/-- The bytes of a raw side from `pos` up to `hi` that lie in one granule and one page: how many. -/
def CopySide.runLen (d : CopySide) (x : SysRegs) (a pos hi : Nat) (s : State) : Nat :=
  Nat.max 1 (Nat.min (Nat.min (16 - a % 16) (d.room x pos s)) (Nat.min (hi - pos) (d.hi - pos).toNat))

/-- Read raw bytes from `pos` on that lie in one granule, with its tag when the whole granule is in bounds. -/
def readRaw (c : CopyCmd) (pos hi : Nat) (s : State) : List MoveByte × State :=
  let d := c.src
  if !d.inb pos then ([⟨fillByte c pos, false, none⟩], s)
  else match cmdAddr c d false pos s with
    | none => ([⟨0, true, none⟩], s)
    | some a =>
      let n := d.runLen c.sys a pos hi s
      let r := engRead (dieOf c.core) a n s
      let tag := if c.carryTags && decide (n = 16) then some r.2.1 else none
      let bs := r.1.zipIdx.map fun b => (⟨b.1, engPoison (a + b.2) 1 s, if b.2 = 0 then tag else none⟩ : MoveByte)
      (bs, setMem (·.noted a n) r.2.2)

/-- Read a chunk from `pos` up to `hi` (R251). -/
def readChunk (c : CopyCmd) : Nat → Nat → Nat → State → List MoveByte × State
  | 0, _, _, s => ([], s)
  | fuel + 1, pos, hi, s =>
    if hi ≤ pos then ([], s)
    else
      let r := if c.src.decodes then readElem c pos s else readRaw c pos hi s
      let rest := readChunk c fuel (pos + Nat.max 1 r.1.length) hi r.2
      (r.1 ++ rest.1, rest.2)

/-- Write bytes of one granule as the engine does at its command's scope: at package scope or above, and in scratchpads, seen
by all; else first on the engine's die (R224, R254). `bad` says which bytes are poisoned (R181). DESIGN CHOICE (log 10): no slice
keeps a copy of the line, and none is dirty after it. -/
def engWrite (c : CopyCmd) (ea : W64) (a : Nat) (bs : List Byte) (bad : List Bool) (s : State) : State :=
  if addrLost a s || dieLost s (homeOf a).die then s
  else
    let s1 := settleShown (dieOf c.core) a bs.length (if isGlobal a then dropOthers a none s else s)
    let s2 := placeCopy c.core c.pusher ea (decide (3 ≤ c.scope.code)) a bs s1
    setMem (fun m => bad.zipIdx.foldl (fun m b => if b.1 then m.setPoison (a + b.2) else m) m) s2

/-- Write one decoding element at `pos`. -/
def writeElem (c : CopyCmd) (pos : Nat) (bs : List MoveByte) (s : State) : State :=
  let d := c.dst
  if !d.inb pos then s
  else match cmdAddr c d true pos s with
    | none => s
    | some a =>
      let v : W32 := w32 (ofBytes (bs.map (·.b)))
      let ds := sideDesc c d pos s
      let r := elemEncode true d.win v ds.1
      let out := if d.win = 6 ∨ d.win = 8 then
          let old := (s.mem.byte a).toNat
          bytesOf 1 (if d.hiNib pos then setFld old 4 4 r.1 else setFld old 0 4 r.1)
        else bytesOf (winBytes d.win 4) r.1
      engWrite c (d.at pos) a out (out.map fun _ => bs.any (·.bad) || ds.2) s

/-- Write raw bytes from `pos` on that lie in one granule; how many. A whole granule whose first byte carries a tag gets it with
its bytes (R173). -/
def writeRaw (c : CopyCmd) (bs : List MoveByte) (pos hi : Nat) (s : State) : Nat × State :=
  let d := c.dst
  if !d.inb pos then (1, s)
  else match cmdAddr c d true pos s with
    | none => (1, s)
    | some a =>
      let n := d.runLen c.sys a pos hi s
      let run := bs.take n
      let t := engWrite c (d.at pos) a (run.map (·.b)) (run.map (·.bad)) s
      let tag := match run with
        | b :: _ => if n = 16 then b.gran else none
        | [] => none
      (n, match tag with
        | some g => if addrLost a s || dieLost s (homeOf a).die then t else setMem (·.setTag (a / 16) g) t
        | none => t)

/-- Write a chunk from `pos` up to `hi`. -/
def writeChunk (c : CopyCmd) : Nat → List MoveByte → Nat → Nat → State → State
  | 0, _, _, _, s => s
  | fuel + 1, bs, pos, hi, s =>
    if hi ≤ pos then s
    else if c.dst.decodes then writeChunk c fuel (bs.drop 4) (pos + 4) hi (writeElem c pos (bs.take 4) s)
    else
      let r := writeRaw c bs pos hi s
      writeChunk c fuel (bs.drop r.1) (pos + r.1) hi r.2

/-- The half bytes a chunk from `pos` on writes with good data. -/
def chunkHalves (c : CopyCmd) (s : State) : Nat → List MoveByte → Nat → List (Nat × Nat)
  | 0, _, _ => []
  | fuel + 1, bs, pos =>
    match bs with
    | [] => []
    | b :: rest =>
      let d := c.dst
      let n := if d.decodes then 4 else 1
      let one := match cmdAddr c d true pos s with
        | some a => if d.inb pos && !((b :: rest).take n).any (·.bad) then
            [halvesOf (if d.decodes then d.win else 0) (d.hiNib pos) a (if d.decodes then winBytes d.win 4 else 1)] else []
        | none => []
      one ++ chunkHalves c s fuel ((b :: rest).drop n) (pos + n)

/-- Write a chunk: a unit it writes whole and good is poisoned no more (R180, R181). -/
def writeWhole (c : CopyCmd) (bs : List MoveByte) (pos : Nat) (s : State) : State :=
  let t := writeChunk c 4096 bs pos (pos + bs.length) s
  if t.mem.poison.isEmpty then t else setMem (fun m => m.cleanCovered (chunkHalves c s 4096 bs pos)) t

/-! ### What a chunk moves (R240, R250) -/

/-- Command bytes from one up to the next edge of a side's bounds, or up to `hi`. -/
def CopySide.edge (d : CopySide) (len pos hi : Nat) : Nat :=
  let sp := d.span len
  if pos < sp.1 then sp.1 - pos else if pos < sp.2 then sp.2 - pos else hi - pos

/-- The runs of a chunk whose bytes are read: each in one page of both sides, one line of a global source, and wholly in or out of bounds
on either side; the first byte, the number of bytes and the source address of each. -/
def chunkRuns (c : CopyCmd) (s : State) : Nat → Nat → Nat → List (Nat × Nat × Nat)
  | 0, _, _ => []
  | fuel + 1, pos, hi =>
    if hi ≤ pos then []
    else
      let far := if c.peer.isSome then hi - pos else Nat.min (c.dst.room c.sys pos s) (c.dst.edge (cmdLen c.w2) pos hi)
      let near := Nat.min (Nat.min (c.src.room c.sys pos s) (c.src.edge (cmdLen c.w2) pos hi)) (hi - pos)
      match if c.src.inb pos then cmdAddr c c.src false pos s else none with
      | none => chunkRuns c s fuel (pos + Nat.max 1 (Nat.min far near)) hi
      | some a =>
        let n := Nat.max 1 (Nat.min (Nat.min far near) (if isGlobal a then 64 - a % 64 else near))
        (pos, n, a) :: chunkRuns c s fuel (pos + n) hi

/-- The HBM bytes that a chunk reads: those of lines that no slice holds (R240, log 18). -/
def chunkHbm (c : CopyCmd) (lo hi : Nat) (s : State) : Nat :=
  ((chunkRuns c s 4096 lo hi).map fun r => match homeOf r.2.2 with
    | .stack _ => if s.fab.slices.any fun l => l.pa == r.2.2 / 64 * 64 then 0 else r.2.1
    | _ => 0).sum

/-- The flits that a chunk moves from its source to its destination (R240, log 18). -/
def chunkFlits (c : CopyCmd) (lo hi : Nat) (s : State) : Nat :=
  ((chunkRuns c s 4096 lo hi).map fun r =>
    let goal := if c.peer.isSome then some Home.hive
      else if c.dst.inb r.1 then (cmdAddr c c.dst true r.1 s).map homeOf else none
    match goal with
    | some g => flits s (homeOf r.2.2) g r.2.1
    | none => 0).sum

/-- Elements of a chunk that hold a byte out of bounds on a side (R250). -/
def outsideElems (d : CopySide) (lo hi : Nat) : Nat :=
  ((List.range ((hi + 3) / 4 - lo / 4)).filter fun j =>
    (List.range 4).any fun b => decide ((lo / 4 + j) * 4 + b < hi) && !d.inb ((lo / 4 + j) * 4 + b)).length

/-! ### Choosing the next chunk (R252, R253, R256, R258) -/

/-- The VF's slice runs on its node, so its commands may start chunks (R253). -/
def vfRuns (vf : Nat) (s : State) : Bool :=
  match s.trans.vf? vf with
  | none => false
  | some f => s.sch.nodes.any fun n => n.num == f.node &&
    (match n.phase with
     | .slice v _ => v == vf
     | .stopping v t => v == vf && decide (s.now < t)
     | _ => false)

def budgetOf (vf : Nat) (s : State) : Nat := ((s.trans.acct? vf).map (·.budget)).getD 0

/-- Nothing more of a command moves: it has ended, or its last chunk has moved. Its record or credits may still wait for those of
earlier commands (R256). -/
def CopyCmd.moved (c : CopyCmd) : Bool := c.moving.isNone && (decide (2 ≤ c.status) || decide (c.chunks ≤ c.chunk))

/-- The FIFO command of a core that runs, else the first of its FIFO (R251). -/
def fifoHead (core : Nat) (s : State) : Option CopyCmd :=
  (s.cp.cmds.find? fun c => c.core == core && c.place == .running false && !c.moved && vfRuns c.owner.vf s).or
    (s.cp.cmds.find? fun c => c.core == core && c.place == .fifo && vfRuns c.owner.vf s)

/-- A ring is full (R258). -/
def ringFull (a : Nat) (s : State) : Bool :=
  decide ((ringClaimed a s - ringReleased a s).toNat = ringCount a s)

/-- Two commands fill slots of one ring: of this chip by its header as it lies now, of a peer by link and number. -/
def sameRing (c d : CopyCmd) (s : State) : Bool :=
  match c.peer, d.peer with
  | some p, some q => p == q
  | none, none => decide (cmdKind c.w2 = 2 ∧ cmdKind d.w2 = 2) && forward s c.target == forward s d.target
  | _, _ => false

/-- An older command for the same ring waits for its slot, on the same core or of the same continuation: slots are claimed in
push order, and the hold list serves a ring in the order its commands arrived (R256). -/
def behind (c : CopyCmd) (s : State) : Bool :=
  s.cp.cmds.any fun d => decide (d.id < c.id) && (d.core == c.core || (d.owner == c.owner && d.svc == c.svc)) &&
    d.slot.isNone && decide (d.status < 2) && decide (d.chunk = 0) && d.moving.isNone &&
    (d.place == .hold || d.place == .fifo) && sameRing c d s

/-- A command of KIND 2 or PEER that has not started meets a full ring, or waits behind an older one of its ring. -/
def meetsFull (c : CopyCmd) (s : State) : Bool :=
  c.chunk == 0 && c.slot.isNone && (behind c s || (match c.peer with
    | some _ => Config.peerAnswer c.id s.turnNo == 1
    | none => decide (cmdKind c.w2 = 2) && ringFull (forward s c.target) s))

/-- The hold list of a core, of the VF whose slice runs: another VF's entries are saved with its engine state (R247). -/
def holdsOf (core vf : Nat) (s : State) : List CopyCmd :=
  s.cp.cmds.filter fun c => c.core == core && c.owner.vf == vf && c.place == .hold

/-- The commands of a core's hold list that may go on: a running one, else the oldest of each ring with room. -/
def holdReady (core : Nat) (s : State) : Option CopyCmd :=
  match s.cp.cmds.find? fun c => c.core == core && c.place == .running true && vfRuns c.owner.vf s &&
      c.moving.isNone && c.status < 2 && decide (c.chunk < c.chunks) && decide (0 < budgetOf c.owner.vf s) with
  | some c => some c
  | none =>
    s.cp.cmds.find? fun c => c.core == core && c.place == .hold && vfRuns c.owner.vf s && !meetsFull c s &&
      (decide (c.chunks = 0) || decide (0 < budgetOf c.owner.vf s))

/-- A command's next chunk can start, or it can begin with nothing to move, or move to the hold list. -/
def canStart (c : CopyCmd) (s : State) : Bool :=
  c.moving.isNone && c.status < 2 &&
    (if c.place == .fifo then decide (c.chunks = 0) || decide (0 < budgetOf c.owner.vf s) ||
        (meetsFull c s && decide ((holdsOf c.core c.owner.vf s).length < 8))
      else decide (c.chunk < c.chunks) && decide (0 < budgetOf c.owner.vf s)) &&
    !(c.place == .fifo && meetsFull c s && decide (8 ≤ (holdsOf c.core c.owner.vf s).length))

/-- The ready command of queue `q` of a cluster's engine: the FIFOs and hold lists of its 64 cores in turn (R10). DEDUCED (log 97): the
words before R248 speak of sixteen FIFOs; R10 gives a cluster 16 cells and R247 a FIFO to each of their 64 cores. -/
def queueReady (engine q : Nat) (s : State) : Option CopyCmd :=
  let j := q / 8
  let cell := engine / 16 * 256 + (engine / 4 % 4 * 4 + j / 4) * 16 + engine % 4 * 4 + j % 4
  let core := cell * 4 + q / 2 % 4
  if q % 2 = 0 then
    match fifoHead core s with
    | some c => if canStart c s then some c else none
    | none => none
  else holdReady core s

def weightOf (vf : Nat) (s : State) : Nat := Nat.max 1 (((s.trans.acct? vf).map (·.weight)).getD 1)

/-- The command whose chunk an engine starts next (R252), with the new position of its round robin. -/
def nextChunk (engine : Nat) (s : State) : Option (CopyCmd × Nat × Nat) :=
  let pos := ((s.cp.drr.find? fun e => e.1 == engine).map fun e => e.2).getD (127, 0)
  match if 0 < pos.2 then queueReady engine pos.1 s else none with
  | some c => some (c, pos.1, pos.2 - 1)
  | none =>
    let qs := (List.range 128).map fun i => (pos.1 + 1 + i) % 128
    match qs.find? fun q => (queueReady engine q s).isSome with
    | none => none
    | some q =>
      match queueReady engine q s with
      | none => none
      | some c => some (c, q, weightOf c.owner.vf s - 1)

/-- When BUDGET first falls below one eighth of the period's allocation, notice 0x05 goes to the VF's running and runnable
continuations (R243). -/
def lowBudget (vf : Nat) (s : State) : State :=
  match s.trans.acct? vf with
  | none => s
  | some a =>
    if decide (a.granted ≤ 8 * a.budget) || a.lowPosted then s
    else
      let run := (if s.live then [s.ctx] else []) ++ s.parked.map (·.2)
      let ks := (run.filterMap (·.info.key)).filter (fun k => k.vf == vf) ++
        (s.sch.runq.filter fun e => e.vf == vf).map fun e => ⟨e.vf, e.rva⟩
      postAll ks.eraseDups 0x05 a.budget (setAcct s vf fun a => { a with lowPosted := true })

/-- Consume one BUDGET unit (R243). -/
def spendBudget (vf : Nat) (s : State) : State := lowBudget vf (setAcct s vf fun a => { a with budget := a.budget - 1 })

/-- The slot of a ring as a destination side, or a status (R258). A slot through window 5 or 6 whose group descriptor R72 calls
COORD is unusable (log 87). -/
def ringSide (c : CopyCmd) (s : State) : Except Nat CopySide :=
  let a := forward s c.target
  let len := cmdLen c.w2
  let p := ringBase a s
  let i := (ringClaimed a s).toNat
  let o := slotOff a i s
  let f := vfFrame s c.sys.vfid
  if ringSize a s < len then .error 3
  else if !isCoord p || decide (8 < ptrWin p) || !f.holds (ptrDie p) (ptrY p) (ptrX p) ||
      decide (fld p.toNat 37 26 ≠ 0) then .error 6
  else
    let core := f.cell (ptrDie p) (ptrY p) (ptrX p) * 4 + ptrRank p
    let d : CopySide := ⟨true, false, core, ptrWin p, o, 0, len, p⟩
    if core ≠ scratchCore a ∨ winEnd (ptrWin p) < o + len then .error 6
    else if 0 < len && !sideDescOk d c.sys 0 ((len + 3) / 4 * 4) s then .error 6
    else if (c.src.decodes || d.decodes) && (decide (len % 4 ≠ 0) || decide (c.src.base % 4 ≠ 0) || decide (o % 4 ≠ 0)) then
      .error 6
    else .ok d

/-- A command ends early: nothing more of it moves. -/
def endCmd (id status : Nat) (s : State) : State :=
  setCmd id (fun c => { c with
    status := status
    badChunk := if status = 2 ∨ status = 4 then c.chunk else 0
    moving := none
    place := match c.place with
      | .fifo => .running false
      | .hold => .running true
      | p => p }) s

/-- Begin a command: take it out of its queue and claim its ring slot or ask its peer; some when it goes on to a chunk. A peer
refuses with status 3 or 6, as R258 gives, or 5; with 5 also a later chunk, when the ring has been unpublished (R393). -/
def beginCmd (c : CopyCmd) (s : State) : State × Option CopyCmd :=
  let placed := match c.place with
    | .fifo => CopyPlace.running false
    | .hold => .running true
    | p => p
  let r := Config.peerAnswer c.id s.turnNo
  if c.chunk ≠ 0 ∧ c.peer.isSome ∧ r = 5 then (endCmd c.id 5 s, none)
  else if c.chunk ≠ 0 ∨ c.slot.isSome then (s, some c)
  else if c.peer.isSome then
    if r = 0 then
      let c' := { c with place := placed }
      (setCmd c.id (fun _ => c') s, some c')
    else (endCmd c.id (if r = 3 ∨ r = 6 then r else 5) s, none)
  else if cmdKind c.w2 = 2 then
    match ringSide c s with
    | .error st => (endCmd c.id st s, none)
    | .ok d =>
      let a := forward s c.target
      let i := ringClaimed a s
      let c' := { c with place := placed, slot := some i.toNat, dst := d }
      (setCmd c.id (fun _ => c') (objSet a 4 (i + 1) s), some c')
  else
    let c' := { c with place := placed }
    (setCmd c.id (fun _ => c') s, some c')

/-- COPY_CHUNK_START (R251, R252, R256, R258): with no chunk in progress, the engine takes the next command in turn; a
ring-full one moves to the hold list, an ended or empty one moves nothing, else its chunk is read. -/
def copyChunkStart (engine : Nat) (s : State) : Option State :=
  if s.cp.cmds.any fun c => clusterOf (cellOf c.core) == engine && c.moving.isSome then none
  else match nextChunk engine s with
    | none => none
    | some (c, q, left) =>
      if c.place == .fifo && meetsFull c s then some (setCmd c.id (fun c => { c with place := .hold }) s)
      else
        let s1 := { s with cp := { s.cp with drr := (s.cp.drr.filter fun e => e.1 != engine) ++ [(engine, q, left)] } }
        match beginCmd c s1 with
        | (s2, none) => some s2
        | (s2, some c) =>
          if c.chunks = 0 then some s2
          else
            let s3 := refreshXl c c.dst true (refreshXl c c.src false (spendBudget c.owner.vf s2))
            if cmdLost c c.range.1 c.range.2 s3 then some (endCmd c.id 4 s3)
            else if chunkOk c c.src false s3 && (c.peer.isSome || chunkOk c c.dst true s3) then
              let r := c.range
              let m := readChunk c 4096 r.1 r.2 s3
              some (creditCmd c 0x0A (chunkHbm c r.1 r.2 s3) (setCmd c.id (fun c => { c with moving := some m.1 }) m.2))
            else some (endCmd c.id 2 s3)

def execCopyChunkStart (engine : Nat) (s : State) : Outcome State Fault Refusal :=
  .next ((copyChunkStart engine s).getD s)

/-! ### Chunks and completions -/

/-- An earlier command of the same pusher still has credits to give to the same barrier (R256). -/
def creditsBefore (c : CopyCmd) (s : State) : Bool :=
  decide (cmdKind c.w2 = 1) && s.cp.cmds.any fun d => decide (d.id < c.id) && d.owner == c.owner && d.svc == c.svc &&
    decide (cmdKind d.w2 = 1) && forward s d.target == forward s c.target && d.place != .done

/-- A command credits its barrier with all it has moved, chunk by chunk, unless earlier commands of its pusher credit it first (R254,
R256). -/
def payCredit (s : State) (id : Nat) : State :=
  match cmdOf id s with
  | none => s
  | some c =>
    if c.credit.isEmpty || creditsBefore c s then s
    else barCredits (forward s c.target) c.credit (setCmd id (fun c => { c with credit := [] }) s)

/-- Every command that may credits its barrier, in push order. -/
def payCredits (s : State) : State := (s.cp.cmds.map (·.id)).foldl payCredit s

/-- COPY_CHUNK_DONE (R254): the writes of the chunk in progress are performed; a KIND 1 command credits its barrier with them, or
leaves the credit until the earlier commands of its pusher have credited it (R256). A destination that no longer translates ends the
command with status 2 (R195), one on a die lost meanwhile with status 4 (R362). -/
def copyChunkDone (id : Nat) (s0 : State) : Option State :=
  match cmdOf id s0 with
  | none => none
  | some c =>
    match c.moving with
    | none => none
    | some bs =>
      let r := c.range
      let s := refreshXl c c.dst true s0
      if cmdLost c r.1 r.2 s then some (endCmd id 4 s)
      else if !(c.peer.isSome || chunkOk c c.dst true s) then some (endCmd id 2 s)
      else
        let n := r.2 - r.1
        let s1 := if c.peer.isSome then s else writeWhole c bs r.1 s
        let bad := bs.any (·.bad) && c.status == 0
        let s2 := setCmd id (fun c => { c with
          chunk := c.chunk + 1
          moving := none
          credit := if cmdKind c.w2 = 1 then c.credit ++ [n] else []
          status := if bad then 1 else c.status
          badChunk := if bad then c.chunk else c.badChunk }) s1
        let s3 := payCredit s2 id
        let oob := outsideElems c.src r.1 r.2 + (if c.peer.isSome then 0 else outsideElems c.dst r.1 r.2)
        some (creditCmd c 0x09 (chunkFlits c r.1 r.2 s) (creditCmd c 0x0B oob (creditCmd c 0x08 n s3)))

def execCopyChunkDone (id : Nat) (s : State) : Outcome State Fault Refusal := .next ((copyChunkDone id s).getD s)

/-- Fill the slots of a ring that have ended, from FILLED on (R258). The scope a command asked for is kept with its slot: whoever takes
it acquires there, demoted at that point as R215 gives. -/
def fillSlots : Nat → Nat → State → State
  | 0, _, s => s
  | fuel + 1, target, s =>
    let a := forward s target
    let f := (ringFilled a s).toNat
    match s.cp.cmds.find? fun c => c.place == .done && c.peer.isNone && forward s c.target == a && c.slot == some f with
    | none => s
    | some c =>
      let s1 := objSet a 0 (w32 (f + 1)) s
      fillSlots fuel target { s1 with cp := { s1.cp with
        cmds := s1.cp.cmds.filter (·.id != c.id)
        filled := s1.cp.filled ++ [(a, f, cmdScope c.w2)] } }

/-- The record of a command (R255). -/
def CopyCmd.record (c : CopyCmd) : W64 :=
  w64 (c.status * 2 ^ 60 + (if c.status = 1 ∨ c.status = 2 ∨ c.status = 4 then c.badChunk % 2 ^ 20 else 0) * 2 ^ 40 +
    c.w3.toNat % 2 ^ 40)

/-- COPY_COMPLETION (R254-R256, R258): a command that has ended or moved its last chunk delivers what its KIND says; a
KIND 3 record waits for the earlier KIND 3 records of its pusher. -/
def copyCompletion (id : Nat) (s : State) : Option State :=
  match cmdOf id s with
  | none => none
  | some c =>
    let running := match c.place with
      | .running _ => true
      | _ => false
    let ready := running && c.moved
    let earlier := decide (cmdKind c.w2 = 3) && s.cp.cmds.any fun d => decide (d.id < c.id) && d.owner == c.owner &&
      d.svc == c.svc && decide (cmdKind d.w2 = 3) && d.place != .done
    let unmoved := cmdLen c.w2 - Nat.min (cmdLen c.w2) (4096 * c.chunk)
    let owed := if cmdKind c.w2 = 1 then c.credit ++ (if unmoved = 0 then [] else [unmoved]) else []
    if !ready || earlier || (!owed.isEmpty && creditsBefore c s) then none
    else
      let s1 := payCredit (setCmd id (fun c => { c with credit := owed }) s) id
      let s2 := if c.slot.isSome then
          fillSlots (s1.cp.cmds.length + 1) c.target (setCmd id (fun c => { c with place := .done }) s1)
        else { s1 with cp := { s1.cp with cmds := s1.cp.cmds.filter (·.id != id) } }
      let rec' := cmdKind c.w2 = 3 ∨ c.status ≠ 0
      some (toPusher c (fun x => { x with qs := { x.qs with
        outstanding := x.qs.outstanding - 1
        qcs := if rec' then x.qs.qcs ++ [c.record] else x.qs.qcs
        qcsScope := if rec' then x.qs.qcsScope ++ [cmdScope c.w2] else x.qs.qcsScope
        pendUi := if cmdUi c.w2 then x.qs.pendUi ++ [c.w3] else x.qs.pendUi
        pendUiScope := if cmdUi c.w2 then x.qs.pendUiScope ++ [cmdScope c.w2] else x.qs.pendUiScope } }) (payCredits s2))

def execCopyCompletion (id : Nat) (s : State) : Outcome State Fault Refusal := .next ((copyCompletion id s).getD s)

/-! ### Commands of peer chips (R393) -/

/-- A command that stands for a peer's, as the ring's own VF sees it: destination windows, slots and scope (R258, R393). A slot
through window 5 or 6 takes the group descriptors that an all-zero WDESC names (log 87). -/
def peerCmd (vf core target len chunk : Nat) (d : CopySide) (slot : Option Nat) (s : State) : CopyCmd where
  id := s.cp.nextId
  core := core
  owner := nobody vf
  svc := false
  user := false
  w2 := w64 (len + 2 * 2 ^ 42)
  w3 := 0
  scope := .pkg
  src := CopySide.none
  dst := d
  peer := none
  target := target
  area := none
  sys := { Ctx.blank.sys with vfid := vf }
  xlats := []
  place := .done
  chunk := chunk
  moving := none
  slot := slot
  status := 0
  badChunk := 0
  carryTags := false
  credit := []

/-- The slot's side, as `ringSide` gives it for the next slot to be claimed. -/
def slotSide (vf a len i : Nat) (s : State) : CopySide :=
  let p := ringBase a s
  let f := vfFrame s vf
  ⟨true, false, f.cell (ptrDie p) (ptrY p) (ptrX p) * 4 + ptrRank p, ptrWin p, slotOff a i s, 0, len, p⟩

/-- A peer's command has ended, completed or not: its slot fills when its turn comes (R258). -/
def fillPeer (c : CopyCmd) (target : Nat) (s : State) : State :=
  let t := { s with cp := { s.cp with cmds := s.cp.cmds ++ [c], nextId := s.cp.nextId + 1 } }
  fillSlots (t.cp.cmds.length + 1) target t

/-- Commands of peers under way end before their last chunk: each fills the slot it has claimed, which keeps what has arrived (R258). -/
def endPeers (p : Nat × Nat × Nat × Nat × Nat → Bool) (s : State) : State :=
  let stop := fun (s : State) (e : Nat × Nat × Nat × Nat × Nat) =>
    match s.cp.rings.find? fun r => r.1 == e.2.1 with
    | some (_, own, target, _, _) =>
      fillPeer (peerCmd own (scratchCore (forward s target)) target 0 0 CopySide.none (some e.2.2.2.2) s) target s
    | none => s
  (s.cp.peerSlots.filter p).foldl stop { s with cp := { s.cp with peerSlots := s.cp.peerSlots.filter fun e => !p e } }

end Sys2Proof.Machine
end

