-- ==== Sys2Proof/Machine/Rings.lean ====
section
/-!
DEFINITION. Ring, barrier and group instructions (R257-R261, R328, R329).
-/

namespace Sys2Proof.Machine

open Host (Outcome)

/-- A ring or barrier access (R257, R402): earlier loads have their values (R35, R226), resolution, the charge of Dist(pointer, 8), the
dies, STALE, and the thread's own accesses to the object first. It reads and may write, so a pending fence that holds either comes
before it (R212, R226). The storage address and the state after the charge. -/
def objAccess (h : W64) (size : Nat) (s00 : State) : Res (Nat × State) := do
  let s ← fenceGate true true (fixReads s00)
  let (t, s1) ← objTarget h size s
  let s2 ← charge (accessCharge s t.home 8) s1
  let s3 := addEvent 0x09 (flits s (.core s.cur) t.home 8) (touchHome t.home s2)
  match t.stale with
  | some np => .error (.trap cSTALE 0 np (some s3))
  | none =>
    let a := t.place.addr
    let x : Span := ⟨a, size, true, true⟩
    accessWaits x s
    if (ownStores s).any fun e => x.meets (e.span s) then wait
    else if s.mem.anyPoison a size then eccAt t.place a size s3
    else .ok (a, s3)

/-- A release at package scope, demoted as R215 gives: what it waits for, and the state with SD. -/
def releasePkg (s : State) : Res State := do
  let t ← releaseReady (demote .pkg s).1 s
  .ok (demote .pkg t).2

/-- An acquire at package scope, demoted as R215 gives. -/
def acquirePkg (s : State) : State := let d := demote .pkg s; acquire d.1 d.2

/-! ### Rings (R257, R259) -/

/-- The header describes a ring that may be set up (R257, R259). -/
def ringOk (a : Nat) (s : State) : Bool :=
  let p := ringBase a s
  let n := ringCount a s
  let sz := ringSize a s
  let w := ptrWin p
  let f := vfFrame s s.vfid
  let last := ptrOff p + n * sz
  decide (n ≠ 0) && decide (2 ^ n.log2 = n) && decide (n ≤ 2 ^ 31) && decide (sz ≠ 0) && decide (sz % 4 = 0) &&
    isCoord p && decide (fld p.toNat 37 26 = 0) && decide (w ≤ 8) && f.holds (ptrDie p) (ptrY p) (ptrX p) &&
    decide (ptrCore p s = scratchCore a) && (decide (w = 0) || decide (ptrOff p % 4 = 0)) && decide (last ≤ winEnd w) &&
    (List.range ((last + winScale w - 1) / winScale w / 4096 + 1)).all fun g =>
      decide (g < ptrOff p / winScale w / 4096) || decide ((last + winScale w - 1) / winScale w ≤ g * 4096) ||
        ownsPage s s.vfid (ptrCore p s) g

/-- RINIT (R259). -/
def execRinit (rs1 : Reg) (s : State) : Outcome State Fault Refusal :=
  finish4 s do
    let h ← readReg rs1 s
    let (a, s1) ← objAccess h 32 s
    must (ringOk a s) cCOORD h
    let s2 := setMem (fun m => m.writeAll a (List.replicate 16 0)) s1
    .ok (popAll [rs1] { s2 with cp := { s2.cp with filled := s2.cp.filled.filter fun e => e.1 != a } })

/-- RAWAIT (R259): takes the oldest filled slot, acquiring its command's writes. -/
def execRawait (rd rs1 : Reg) (s : State) : Outcome State Fault Refusal :=
  finish4 s do
    let h ← readReg rs1 s
    let (a, s1) ← objAccess h 32 s
    let i := ringTaken a s
    if i = ringFilled a s then wait
    else
      let sc := ((s.cp.filled.find? fun e => e.1 == a && e.2.1 == i.toNat).map fun e => e.2.2).getD .cell
      let s2 := objSet a 12 (i + 1) s1
      let s3 := { s2 with cp := { s2.cp with filled := s2.cp.filled.filter fun e => !(e.1 == a && e.2.1 == i.toNat) } }
      let d := demote sc s3
      putPlain rd (slotPtr a i.toNat s) [rs1] (acquire d.1 d.2)

/-- RREL (R259): a release at package scope. -/
def execRrel (rs1 : Reg) (s : State) : Outcome State Fault Refusal :=
  finish4 s do
    let h ← readReg rs1 s
    let s0 ← releasePkg s
    let (a, s1) ← objAccess h 32 s0
    let r := ringReleased a s
    .ok (popAll [rs1] (if r = ringTaken a s then s1 else objSet a 8 (r + 1) s1))

/-- RPEEK (R259). -/
def execRpeek (rd rs1 : Reg) (s : State) : Outcome State Fault Refusal :=
  finish4 s do
    let h ← readReg rs1 s
    let (a, s1) ← objAccess h 32 s
    let i := ringTaken a s
    putPlain rd (if i = ringFilled a s then BitVec.allOnes 64 else slotPtr a i.toNat s) [rs1] s1

/-! ### Barriers (R260, R261) -/

/-- The bytes of a barrier that BINIT sets (R261). -/
def barBytes0 (e : Nat) : List Byte := bytesOf 4 0 ++ bytesOf 4 e ++ bytesOf 4 e ++ bytesOf 4 0

/-- BINIT (R261). -/
def execBinit (rs1 rs2 : Reg) (s : State) : Outcome State Fault Refusal :=
  finish4 s do
    let b ← readReg rs1 s
    let v ← readReg rs2 s
    let e := fld v.toNat 0 32
    must (decide (e ≠ 0 ∧ e < 2 ^ 31)) cILL (w64 e)
    let (a, s1) ← objAccess b 16 s
    .ok (popAll [rs1, rs2] (setMem (fun m => m.writeAll a (barBytes0 e)) s1))

/-- An arrival on the barrier at a pointer: the generation before it (R261). -/
def barArrive (rd : Reg) (b : W64) (pops : List Reg) (s : State) : Res State := do
  let s0 ← releasePkg s
  let (a, s1) ← objAccess b 16 s0
  putPlain rd ((objGet a 0 s).setWidth 64) pops (barCheck a (objSet a 4 (objGet a 4 s - 1) s1))

/-- BARV (R261): a release at package scope. -/
def execBarv (rd rs1 : Reg) (s : State) : Outcome State Fault Refusal :=
  finish4 s do
    let b ← readReg rs1 s
    barArrive rd b [rs1] s

/-- BEXP (R261). -/
def execBexp (rs1 rs2 : Reg) (s : State) : Outcome State Fault Refusal :=
  finish4 s do
    let b ← readReg rs1 s
    let v ← readReg rs2 s
    let (a, s1) ← objAccess b 16 s
    .ok (popAll [rs1, rs2] (barBytes a (v.setWidth 32) s1))

/-- The named phase has completed (R261). -/
def phaseDone (a : Nat) (v : W64) (s : State) : Bool := !(objGet a 0 s - v.setWidth 32).msb

/-- Wait for a phase of the barrier at a pointer, acquiring (R228, R261). -/
def barWait (rd : Reg) (b v : W64) (pops : List Reg) (s : State) : Res State := do
  let (a, s1) ← objAccess b 16 s
  if phaseDone a v s then putPlain rd ((objGet a 0 s).setWidth 64) pops (acquirePkg s1) else wait

/-- BWAIT (R261). -/
def execBwait (rd rs1 rs2 : Reg) (s : State) : Outcome State Fault Refusal :=
  finish4 s do
    let b ← readReg rs1 s
    let v ← readReg rs2 s
    barWait rd b v [rs1, rs2] s

/-- BTEST (R261). -/
def execBtest (rd rs1 rs2 : Reg) (s : State) : Outcome State Fault Refusal :=
  finish4 s do
    let b ← readReg rs1 s
    let v ← readReg rs2 s
    let (a, s1) ← objAccess b 16 s
    if phaseDone a v s then putPlain rd 1 [rs1, rs2] (acquirePkg s1) else putPlain rd 0 [rs1, rs2] s1

/-! ### Groups (R329) -/

/-- The launch of the acting continuation. -/
def ownLaunch (s : State) : Option Launch := s.sch.launches.find? fun l => l.id == s.ctx.info.launch

/-- The group id of an operand; ILL when its higher bits are not zero (R329). -/
def groupId (v : W64) (s : State) : Res Nat := do
  must (decide (v.toNat < 256)) cILL s.insn
  .ok v.toNat

/-- A valid group of the launch. -/
def groupOf (g : Nat) (s : State) : Option Group := (ownLaunch s).bind fun l => l.groups[g]?

/-- The continuation is a member of a valid group (R329). -/
def isMember (g : Nat) (s : State) : Bool :=
  let m := s.ctx.sys.grpmap
  (groupOf g s).isSome &&
    (if g = 255 then m.getLsbD 32 else (List.range 4).any fun i => fld m.toNat (8 * i) 8 == g)

/-- The number of set bits below bit `n`. -/
def popBelow (b n : Nat) : Nat := ((List.range n).filter fun i => bitAt b i).length

/-- NTHREAD of a launch: 0 means 2^24 (R324). -/
def Launch.threads (l : Launch) : Nat :=
  let n := ofBytes ((l.copy.drop 10).take 3)
  if n = 0 then 2 ^ 24 else n

/-- GRANK (R329). -/
def execGrank (rd rs1 : Reg) (s : State) : Outcome State Fault Refusal :=
  finish4 s do
    let v ← readReg rs1 s
    let g ← groupId v s
    let r := match groupOf g s, ownLaunch s with
      | some x, some l =>
        if isMember g s then w64 (popBelow x.bitmap (Nat.min s.ctx.sys.gthread.toNat l.threads)) else BitVec.allOnes 64
      | _, _ => BitVec.allOnes 64
    putPlain rd r [rs1] s

/-- GSIZE (R329). -/
def execGsize (rd rs1 : Reg) (s : State) : Outcome State Fault Refusal :=
  finish4 s do
    let v ← readReg rs1 s
    let g ← groupId v s
    let r := match groupOf g s with
      | some x => w64 x.count
      | none => BitVec.allOnes 64
    putPlain rd r [rs1] s

/-- The barrier of a group the continuation belongs to; ILL otherwise (R329). -/
def memberBarrier (v : W64) (s : State) : Res W64 := do
  let g ← groupId v s
  must (isMember g s) cILL s.insn
  .ok (((groupOf g s).map (·.barrier)).getD 0)

/-- GARV (R329). -/
def execGarv (rd rs1 : Reg) (s : State) : Outcome State Fault Refusal :=
  finish4 s do
    let v ← readReg rs1 s
    let b ← memberBarrier v s
    barArrive rd b [rs1] s

/-- GWAIT (R329). -/
def execGwait (rs1 rs2 : Reg) (s : State) : Outcome State Fault Refusal :=
  finish4 s do
    let v ← readReg rs1 s
    let p ← readReg rs2 s
    let b ← memberBarrier v s
    barWait .z b p [rs1, rs2] s

end Sys2Proof.Machine
end

