-- ==== Sys2Proof/Machine/Boundary.lean ====
section
/-!
DEFINITION. The pop and push rows of the queue registers, results and stores that arrive, acknowledgements, the allowance of
R224, and what is entered at an instruction boundary (R35, R107, R137, R200, R205, R209, R224, R230, R265, R357, R358).
-/

namespace Sys2Proof.Machine

open Host (Outcome)

/-! ### Queue registers (R24, R107) -/

/-- A pop of a queue register on its own: the value goes to `latch`. -/
def popRow (r : Reg) (s : State) : Outcome State Fault Refusal :=
  finish s do
    let v ← readReg r s
    .ok { popReg r s with latch := v }

def execQrnPop (s : State) : Outcome State Fault Refusal := popRow .qrn s
def execQcsPop (s : State) : Outcome State Fault Refusal := popRow .qcs s
def execQntPop (s : State) : Outcome State Fault Refusal := popRow .qnt s
def execQvsPop (s : State) : Outcome State Fault Refusal := popRow .qvs s
def execQmoPop (s : State) : Outcome State Fault Refusal := popRow .qmo s
def execQsoPop (s : State) : Outcome State Fault Refusal := popRow .qso s

/-- A push to qmi (R286). -/
def execQmiPush (v : W64) (s : State) : Outcome State Fault Refusal := finish s (writeReg .qmi v s)

/-- A push to qsa (R304, R306). -/
def execQsaPush (v : W64) (s : State) : Outcome State Fault Refusal := finish s (writeReg .qsa v s)

/-! ### Results (R35, R36) -/

/-- A leading load whose value is still open fixes it now, where its bytes can be read (R226); else it keeps the value of its
issue. -/
def LaEnt.reread (e : LaEnt) (s : State) : LaEnt × State :=
  match e.done, e.read, e.dests with
  | false, some r, d :: ds =>
    let p := { r.place with addr := forward s r.place.addr }
    if addrLost p.addr s || dieLost s (homeOf p.addr).die then (e, s)
    else if r.cap then
      if s.mem.anyPoison p.addr 16 || (ownStores s).any (fun x => (⟨p.addr, 16, true, true⟩ : Span).meets (x.span s)) then (e, s)
      else
        let v := readCap p.addr s
        let vs := [w64 (ofBytes (v.1.take 8)), w64 (ofBytes (v.1.drop 8))]
        ({ e with dests := (d :: ds).zipWith (fun x y => (x.1, y)) vs, tag := some v.2.1 }, v.2.2)
    else match readPlace p r.size s with
      | .ok (v, lf, t) => ({ e with dests := (d.1, loadVal r.signed r.size v) :: ds, lflags := lf }, t)
      | .error _ => (e, s)
  | _, _, _ => (e, s)

/-- LOOKAHEAD_RESULT: the `i`-th outstanding result is written; its window goes on (R34). -/
def execLookaheadResult (i : Nat) (s : State) : Outcome State Fault Refusal :=
  match s.ctx.la[i]? with
  | none => .next s
  | some e =>
    let r := e.reread s
    let c := r.1.write r.2.ctx
    .next { r.2 with ctx := { c with la := c.la.map fun x => if x == e then { x with done := true, read := none } else x } }

/-! ### Stores (R200, R224, R230) -/

/-- The `i`-th queued store of the core, when its earlier stores that overlap it are gone (R226). -/
def storeNext (i : Nat) (s : State) : Option StoreEnt :=
  match (ownStores s)[i]? with
  | none => none
  | some e => if ((ownStores s).take i).any fun d => (d.span s).meets (e.span s) then none else some e

/-- Another store of the die to its bytes is seen by the die's agents already and comes first (R223). -/
def shownFirst (e : StoreEnt) (s : State) : Bool :=
  (shownStores (dieOf e.core) e.addr e.bytes.length s).any fun d =>
    d.id != e.id && decide (e.shown.isNone ∨ d.shown.getD 0 < e.shown.getD 0)

/-- STORE_ORDERED: the `i`-th queued store of the core takes its place, after its earlier stores that overlap it (R226). -/
def storeOrdered (i : Nat) (s : State) : Option State :=
  match storeNext i s with
  | none => none
  | some e => if shownFirst e s then none else some (storeWrite e s)

/-- The agents of the writer's die begin to see the `i`-th queued store, to a global line, before it has its place (R224,
R230). -/
def storeShown (i : Nat) (s : State) : State :=
  match storeNext i s with
  | none => s
  | some e =>
    if !isGlobal e.addr || e.shown.isSome then s
    else setMem (fun m => { m with
      stores := m.stores.map fun x => if x.id == e.id then { x with shown := some m.nextMsg } else x
      nextMsg := m.nextMsg + 1 }) s

def execStoreOrdered (i : Nat) (s : State) : Outcome State Fault Refusal := .next ((storeOrdered i s).getD s)

/-- ACKNOWLEDGEMENT: the `i`-th acknowledgement arrives, once its store or AMO has taken its place (R205, R224). -/
def acknowledge (i : Nat) (s : State) : Option State :=
  match s.ctx.acks[i]? with
  | none => none
  | some k =>
    if (ownStores s).any (fun e => e.id == k.id) || s.ctx.amo.any (fun m => m.id == k.id) then none
    else some { s with ctx := { s.ctx with acks := s.ctx.acks.eraseIdx i } }

def execAcknowledgement (i : Nat) (s : State) : Outcome State Fault Refusal := .next ((acknowledge i s).getD s)

/-- AMO_RESULT: the pending AMO with destination z is performed (R208, R209). -/
def execAmoResult (s : State) : Outcome State Fault Refusal :=
  match s.ctx.amo with
  | none => .next s
  | some m =>
    let s1 := { s with ctx := { s.ctx with amo := none } }
    let a := forward s m.place.addr
    .next (if addrLost a s || dieLost s (homeOf a).die then s1 else (amoPerform m s1).2)

/-! ### Performance at package scope (R224) -/

/-- No agent reads a value older than write `id` any more: its entry goes, and with it what older writes replaced there. -/
def msgsEnd (id : Nat) : List WriteMsg → List WriteMsg
  | [] => []
  | w :: ws =>
    if w.id = id then
      (ws.map fun x => { x with cells := x.cells.filter fun c => !(w.cells.any fun d => d.addr == c.addr) }).filter
        fun x => !x.cells.isEmpty
    else w :: msgsEnd id ws

/-- ALLOWANCE_END: 1 µs after write `id` was performed, no die reads an older value (R224). -/
def execAllowanceEnd (id : Nat) (s : State) : Outcome State Fault Refusal :=
  match s.mem.msgs.find? fun w => w.id == id with
  | none => .next s
  | some w =>
    match w.performedAt with
    | none => .next s
    | some t =>
      if t + 1250 ≤ s.now then
        .next (setMem (fun m => { m with msgs := msgsEnd id m.msgs }) (dropOld (List.range 12) [w] s))
      else .next s

/-! ### Instruction boundaries (R357, R358, R361, R364) -/

/-- The dies of a mask, lowest first. -/
def diesIn (m : BitVec 13) : List Nat := (List.range 13).filter fun i => m.getLsbD i

/-- The asynchronous trap due at this boundary, in the order of R358: its code, DETAIL, value, and the state in which it is no
longer pending. -/
def asyncDue (s : State) : Option (Nat × Nat × W64 × State) :=
  let t := s.ctx.tr
  if t.pendDie ≠ 0 then some (cDIELOSS, t.pendDie.toNat, 0, setTr (fun t => { t with pendDie := 0 }) s)
  else
    match (if t.ackDue then t.pendAck else none) with
    | some (a, dies) =>
      some (cACKLOSS, dies.toNat, a, setTr (fun t => { t with pendAck := none, ackDue := false }) s)
    | none =>
      match t.pendEcc with
      | a :: rest => some (cECC, 1, a, setTr (fun t => { t with pendEcc := rest }) s)
      | [] => none

/-- ASYNCHRONOUS_TRAP: the first pending one is entered when no supervisor trap is open (R356, R358); a gang's queue drains
first. -/
def execAsynchronousTrap (s : State) : Outcome State Fault Refusal :=
  if !s.live || supOpen s then .next s
  else match asyncDue s with
    | none => .next s
    | some (code, detail, tval, s1) => .next ((takeTrap code detail tval s1).getD s)

/-- A user interrupt is due at this boundary (R265). -/
def interruptDue (s : State) : Bool :=
  s.ctx.st.uien && !s.ctx.st.uh && !supOpen s && !s.ctx.wfi && (asyncDue s).isNone

/-- USER_INTERRUPT: the oldest pending value is taken (R265, R358). -/
def execUserInterrupt (s : State) : Outcome State Fault Refusal :=
  match s.ctx.qs.pendUi with
  | [] => .next s
  | v :: _ => if s.live && interruptDue s then .next (enterInterrupt v s) else .next s

end Sys2Proof.Machine
end

