-- ==== Sys2Proof/Machine/Branch.lean ====
section
/-!
DEFINITION. Branches and jumps (R120, R121, R401).
-/

namespace Sys2Proof.Machine

open Host (Outcome)

def execBeq (rs1 rs2 : Reg) (off : BitVec 10) (s : State) : Outcome State Fault Refusal :=
  branch2 (fun a b => a == b) rs1 rs2 off s

def execBne (rs1 rs2 : Reg) (off : BitVec 10) (s : State) : Outcome State Fault Refusal :=
  branch2 (fun a b => a != b) rs1 rs2 off s

def execBlt (rs1 rs2 : Reg) (off : BitVec 10) (s : State) : Outcome State Fault Refusal :=
  branch2 (fun a b => a.slt b) rs1 rs2 off s

def execBge (rs1 rs2 : Reg) (off : BitVec 10) (s : State) : Outcome State Fault Refusal :=
  branch2 (fun a b => b.sle a) rs1 rs2 off s

def execBltu (rs1 rs2 : Reg) (off : BitVec 10) (s : State) : Outcome State Fault Refusal :=
  branch2 (fun a b => a.ult b) rs1 rs2 off s

def execBgeu (rs1 rs2 : Reg) (off : BitVec 10) (s : State) : Outcome State Fault Refusal :=
  branch2 (fun a b => b.ule a) rs1 rs2 off s

def execBeqz (rs1 : Reg) (off : BitVec 16) (s : State) : Outcome State Fault Refusal :=
  branch1 (fun a => a == 0) rs1 off s

def execBnez (rs1 : Reg) (off : BitVec 16) (s : State) : Outcome State Fault Refusal :=
  branch1 (fun a => a != 0) rs1 off s

def execBltz (rs1 : Reg) (off : BitVec 16) (s : State) : Outcome State Fault Refusal :=
  branch1 (fun a => a.slt 0) rs1 off s

def execBgez (rs1 : Reg) (off : BitVec 16) (s : State) : Outcome State Fault Refusal :=
  branch1 (fun a => (0 : W64).sle a) rs1 off s

def execBgtz (rs1 : Reg) (off : BitVec 16) (s : State) : Outcome State Fault Refusal :=
  branch1 (fun a => (0 : W64).slt a) rs1 off s

def execBlez (rs1 : Reg) (off : BitVec 16) (s : State) : Outcome State Fault Refusal :=
  branch1 (fun a => a.sle 0) rs1 off s

/-- The link value: the next instruction's address, bits 62:0 (R121, R401). -/
def linkVal (s : State) : W64 := w64 ((pcAdd s.ctx.pc 4).toNat % 2 ^ 63)

def execJal (rd : Reg) (off : BitVec 19) (s : State) : Outcome State Fault Refusal :=
  finish s do
    let s1 ← putPlain rd (linkVal s) [] s
    .ok (branchTo (brOff 19 off.toNat) s1)

def execJalr (rd rs1 : Reg) (imm : BitVec 13) (s : State) : Outcome State Fault Refusal :=
  finish s do
    let a ← readReg rs1 s
    let t := (a + imm13 imm) &&& ~~~(1 : W64)
    let s1 ← putPlain rd (linkVal s) [rs1] s
    .ok (retireJump (xferPc t (flushLa s1)))

end Sys2Proof.Machine
end

