-- ==== Sys2Proof/Machine/Coord.lean ====
section
/-!
DEFINITION. The coordinate instructions (R113-R117).
-/

namespace Sys2Proof.Machine

open Host (Outcome)

/-- The lowest bit and width of a coordinate-pointer field (R113). -/
def crdField (f : CrdField) : Nat × Nat :=
  match f with
  | .die => (34, 3)
  | .y => (30, 4)
  | .x => (26, 4)
  | .rank => (24, 2)
  | .window => (20, 4)
  | .offset => (0, 20)

/-- The pointer to the running core's own scratchpad (R114). -/
def crdSelf (s : State) : W64 :=
  let c := selfCoords s
  w64 (2 ^ 63 + coordBits c.1 c.2.1 c.2.2 (rankOf s.cur) * 2 ^ 24)

def crdMk (a b : W64) : W64 := w64 (2 ^ 63 + fld a.toNat 0 13 * 2 ^ 24 + fld b.toNat 0 24)

/-- CRDSET (R116). -/
def crdSet (f : CrdField) (a b : W64) : W64 :=
  let lw := crdField f
  let p := w64 (setFld a.toNat lw.1 lw.2 b.toNat) ||| ((1 : W64) <<< 63)
  if 2 ^ lw.2 ≤ b.toNat then p ||| ((1 : W64) <<< 62) else p

/-- CRDADD (R117). -/
def crdAdd (a b : W64) : W64 :=
  let p := a.toNat
  let d := b.toNat
  let nx := (fld p 26 4 : Int) + sxInt d 8
  let ny := (fld p 30 4 : Int) + sxInt (d / 2 ^ 8) 8
  let nd := (fld p 34 3 : Int) + sxInt (d / 2 ^ 16) 8
  let q := setFld (setFld (setFld p 26 4 (nx % 16).toNat) 30 4 (ny % 16).toNat) 34 3 (nd % 8).toNat
  let r := w64 q ||| ((1 : W64) <<< 63)
  if nx < 0 ∨ 15 < nx ∨ ny < 0 ∨ 15 < ny ∨ nd < 0 ∨ 7 < nd then r ||| ((1 : W64) <<< 62) else r

def execCrdself (rd : Reg) (s : State) : Outcome State Fault Refusal := finish4 s (putOne rd (crdSelf s) [] s)

def execCrdmk (rd rs1 rs2 : Reg) (s : State) : Outcome State Fault Refusal := one2 crdMk rd rs1 rs2 s

def execCrdget (rd rs1 : Reg) (field : CrdField) (s : State) : Outcome State Fault Refusal :=
  one1 (fun a => w64 (fld a.toNat (crdField field).1 (crdField field).2)) rd rs1 s

def execCrdset (rd rs1 rs2 : Reg) (field : CrdField) (s : State) : Outcome State Fault Refusal :=
  one2 (crdSet field) rd rs1 rs2 s

def execCrdadd (rd rs1 rs2 : Reg) (s : State) : Outcome State Fault Refusal := one2 crdAdd rd rs1 rs2 s

end Sys2Proof.Machine
end

