-- ==== Sys2Proof/Machine/Mx.lean ====
section
/-!
DEFINITION. The matrix engine: MX instructions, plane loads, row injections, row completions, and the completion of the
other queued instructions (R268-R295).
-/

namespace Sys2Proof.Machine

open Host (Outcome)

/-! ### Formats and the state at a claim -/

/-- The format of an operand window (R275). -/
def fmtOf (w : Nat) : MxFmt :=
  match w with
  | 1 => .lns8
  | 2 => .lns16
  | 5 => .int8g
  | 6 => .int4g
  | _ => .none

def MxFmt.isInt (f : MxFmt) : Bool := f == .int8g || f == .int4g

/-- Elements of a K row (R275). -/
def MxFmt.elems (f : MxFmt) : Nat :=
  match f with
  | .lns16 => 24
  | .int4g => 96
  | _ => 48

/-- The group size of a code (R283). -/
def groupSize (code : Nat) : Nat := if code = 0 then 48 else if code = 1 then 96 else 192

/-- A closed group (R284). -/
def MxGroup.clear : MxGroup := ⟨0, 0, 0, List.replicate 64 0, List.replicate 64 0, List.replicate 64 false⟩

/-- The engine after a claim (R269). -/
def MxState.claimed : MxState where
  plane0 := List.replicate 3072 0
  plane1 := List.replicate 3072 0
  poison0 := List.replicate 3072 false
  poison1 := List.replicate 3072 false
  fmt0 := .none
  fmt1 := .none
  active := false
  acc := Vector.replicate 64 (Vector.replicate 64 0)
  groups := Vector.replicate 64 MxGroup.clear
  q := false
  tables := none
  flags := 0
  queue := []
  rows := []
  qmi := []
  qmo := []
  cut := 0
  cutWords := 0
  lastInj := none
  claim := (0, 0)
  rowNo := 0
  far := false

/-- Every earlier matrix instruction has completed. -/
def MxState.idle (x : MxState) : Bool := x.queue.isEmpty && x.rows.isEmpty

/-! ### The state the queued instructions will leave (R273) -/

/-- What the checks at issue read: ACTIVE, plane formats, Q, tables, and each row's position and index. -/
structure MxPred where
  active : Bool
  fmt0 : MxFmt
  fmt1 : MxFmt
  q : Bool
  tables : Option (Nat × Nat × Nat)
  grp : List (Nat × Nat)
deriving DecidableEq, Repr

/-- The position and index after `n` blocks of 48 elements, with group size `g` (R284). -/
def grpAdvance (g : Nat) : Nat → Nat × Nat → Nat × Nat
  | 0, p => p
  | n + 1, p => grpAdvance g n (if p.1 + 48 = g then (0, p.2 + 1) else (p.1 + 48, p.2))

def MxPred.size (p : MxPred) : Nat := (p.tables.map fun t => groupSize t.2.2).getD 48

/-- One more row of a format into accumulator row `a`. -/
def MxPred.addRow (p : MxPred) (f : MxFmt) (a : Nat) : MxPred :=
  if f.isInt then { p with grp := p.grp.modify a (grpAdvance p.size (f.elems / 48)) } else p

/-- Rows `a` to `a + n - 1` cleared. -/
def MxPred.zero (p : MxPred) (a n : Nat) : MxPred :=
  { p with grp := p.grp.mapIdx fun i g => if a ≤ i ∧ i < a + n then (0, 0) else g }

def MxPred.fmt (p : MxPred) : MxFmt := if p.active then p.fmt1 else p.fmt0

/-- The effect of one queued instruction on what the checks read. -/
def MxPred.after (p : MxPred) (t : MxTask) : MxPred :=
  match t with
  | .mldw _ _ f _ => if p.active then { p with fmt0 := f } else { p with fmt1 := f }
  | .mswap => { p with active := !p.active }
  | .mstream _ _ _ n a0 z _ next _ =>
    let p' := if z && next == 0 then p.zero a0 n else p
    (List.range (n - next)).foldl (fun p i => p.addRow p.fmt (a0 + next + i)) p'
  | .mzero f c => p.zero f c
  | .mstore _ _ _ _ _ _ _ => p
  | .mmode q => { p with q := q }
  | .mscale w a c => { p with tables := some (w, a, c) }

/-- The state that the rows in flight and the queued instructions will leave. -/
def MxState.pred (x : MxState) : MxPred :=
  let now : MxPred := ⟨x.active, x.fmt0, x.fmt1, x.q, x.tables, x.groups.toList.map fun g => (g.gp, g.gi)⟩
  x.queue.foldl MxPred.after (x.rows.foldl (fun p r => p.addRow r.fmt r.acc) now)

/-! ### Checks at issue (R272) -/

/-- The owner's engine, or MXFAULT 1 (R271). -/
def needEngine (s : State) : Res Engine :=
  match ownEngine s with
  | some e => .ok e
  | none => raise cMXFAULT 1

/-- Ranges of stored bytes of an operand: the first byte and the length of each. -/
abbrev Ranges := List (Nat × Nat)

/-- The pages the ranges meet, in order. -/
def rangePages (rs : Ranges) : List Nat :=
  (rs.flatMap fun r => (List.range ((r.1 + r.2 + 4095) / 4096 - r.1 / 4096)).map (r.1 / 4096 + ·)).eraseDups

/-- The pointer to the first byte of the ranges that lies in a page, at the page's new place (R176). In the byte the operand's pointer
names it is the same element: its place within the byte goes with it. -/
def movedPtr (p : W64) (rs : Ranges) (page : Nat) (t : Tomb) (s : State) : W64 :=
  let w := ptrWin p
  let b := ((rs.find? fun r => decide (r.1 < (page + 1) * 4096 ∧ page * 4096 < r.1 + r.2)).map fun r =>
    Nat.max r.1 (page * 4096)).getD (page * 4096)
  let part := if b = ptrOff p / winScale w then ptrOff p % winScale w else 0
  let o := (t.newPage * 4096 + b % 4096) * winScale w + part
  ptrWithOff (mkPtr (vfFrame s s.vfid) t.newCore w 0) (o % 2 ^ 20) (decide (winEnd w ≤ o))

/-- Resolution, release (demoted as R215 gives), charge, dies and STALE of an operand of `stored` charged bytes (R272, R276, R277). `last` is the
end of the operand in window bytes from the pointer's offset; `align` its alignment in window bytes. -/
def mxOperand (p : W64) (align last : Nat) (rs : Ranges) (stored : Nat) (s : State) : Res (Nat × State) := do
  coordHead p s
  must (decide (ptrOff p % align = 0)) cMISALIGN p
  must (decide (ptrOff p + last ≤ winEnd (ptrWin p))) cCOORD p
  let core := ptrCore p s
  must ((rangePages rs).all fun g => ownsPage s s.vfid core g) cCOORD p
  alive (.core core) p s
  let sc := mxScope (dieOf core != dieOf s.cur)
  let t ← releaseReady (demote sc s).1 s
  let s1 := (demote sc t).2
  let s2 ← charge (chargeOf s (.core s.cur) (.core core) stored) s1
  let s3 := addEvent 0x09 (flits s (.core s.cur) (.core core) stored) (touchHome (.core core) s2)
  match (rangePages rs).find? fun g => (tombOf s core g).isSome with
  | some g =>
    match tombOf s core g with
    | some t => .error (.trap cSTALE 0 (movedPtr p rs g t s) (some s3))
    | none => .ok (core, s3)
  | none => .ok (core, s3)

/-- Enter the command queue, as an engine push: earlier loads have their values, no fence holds it, and every acknowledgement owed has
come (R205, R212, R226). With 8 entries the core waits, and for a pending AMO (R209, R272). -/
def mxEnqueue (e : Engine) (t : MxTask) (s0 : State) : Res State := do
  let s1 ← fenceGate false true (fixReads s0)
  let s ← acksDone s1
  if s.ctx.amo.isSome || decide (8 ≤ e.mx.queue.length) then wait
  else .ok (setEngine e.cell (fun x => { x with queue := x.queue ++ [t] }) s)

/-- The operand pointer's stored byte. -/
def ptrByte (p : W64) : Nat := ptrOff p / winScale (ptrWin p)

/-! ### Ownership (R269, R270) -/

/-- MCLAIM (R269). -/
def execMclaim (rd : Reg) (s : State) : Outcome State Fault Refusal :=
  finish4 s do
    match cellEngine s with
    | none =>
      let cell := cellOf s.cur
      let n := ((s.claims.find? fun e => e.1 == cell).map (·.2)).getD 0
      let e : Engine := ⟨cell, s.ctx.claimKey, s.cur, { MxState.claimed with claim := (cell, n) }⟩
      putPlain rd 0 [] (setSt (fun t => { t with mclaimed := true }) { s with
        engines := s.engines ++ [e]
        claims := (cell, n + 1) :: s.claims.filter fun e => e.1 != cell })
    | some _ => putPlain rd (if (ownEngine s).isSome then 0 else 1) [] s

/-- The wait of MFREE and of an owner's EXIT (R270): from its issue the engine only finishes what it can finish. -/
def freeEngine (s : State) : Option State :=
  match ownEngine s with
  | none => some s
  | some e =>
    if e.mx.idle then
      some (setSt (fun t => { t with mclaimed := false }) { s with engines := s.engines.filter (·.cell != e.cell) })
    else none

/-- The state in which MFREE or EXIT has issued and waits for its engine: what is queued now comes before it. -/
def drainEngine (s : State) : State :=
  match ownEngine s with
  | none => s
  | some e => setEngine e.cell (fun x => { x with cut := x.queue.length, cutWords := x.qmi.length }) s

/-- MFREE (R270). -/
def execMfree (s : State) : Outcome State Fault Refusal :=
  match needEngine s with
  | .error e => finish4 s (.error e)
  | .ok _ =>
    match freeEngine s with
    | some t => finish4 s (.ok t)
    | none => .next (drainEngine s)

/-! ### Planes (R278, R279) -/

/-- An operand pointer of MLDW or MSTREAM names an allowed window (R275). -/
def mxPtrOk (p : W64) : Bool := isCoord p && fmtOf (ptrWin p) != .none

/-- MLDW (R278). -/
def execMldw (rs1 : Reg) (s : State) : Outcome State Fault Refusal :=
  finish4 s do
    let p ← readReg rs1 s
    let e ← needEngine s
    must (mxPtrOk p) cMXFAULT 2
    let sc := winScale (ptrWin p)
    let (core, s1) ← mxOperand p (16 * sc) (3072 * sc) [(ptrByte p, 3072)] 3072 s
    let s2 ← mxEnqueue e (.mldw core (ptrByte p) (fmtOf (ptrWin p)) false) s1
    .ok (popAll [rs1] s2)

/-- MSWAP (R279). -/
def execMswap (s : State) : Outcome State Fault Refusal :=
  finish4 s do
    let e ← needEngine s
    mxEnqueue e .mswap s

/-! ### Streams (R280, R285) -/

/-- The byte offset of the descriptor of a table word (R284). -/
def tableOff (tab i : Nat) : Nat := fld tab 0 20 + 4 * i

/-- A table word as a pointer. -/
def tablePtr (tab : Nat) : W64 := w64 (2 ^ 63 + tab)

/-- A descriptor lies in its table core's storage, and that core in the frame. -/
def tableFits (s : State) (tab i : Nat) : Bool :=
  (vfFrame s s.vfid).holds (fld tab 34 3) (fld tab 30 4) (fld tab 26 4) && decide (tableOff tab i + 4 ≤ 0x30000)

/-- The descriptors the closing groups of a stream will read lie in their table core's storage and frame (R285): the largest
index of each row's closing groups, for the activation table with its row, for the weight table with column 63. DESIGN CHOICE (log
107): the rows are checked in order, each for its activation descriptor and then for its weight descriptors, and TVAL names the table of
the first that lies outside. -/
def tablesOk (s : State) (p : MxPred) (e : Nat) (a0 n : Nat) : Res Unit :=
  match p.tables with
  | none => raise cMXFAULT 6
  | some (wt, act, code) =>
    let g := groupSize code
    (List.range n).foldlM (fun _ i =>
      let st := p.grp.getD (a0 + i) (0, 0)
      let closes := (grpAdvance g (e / 48) st).2 - st.2
      if closes = 0 then .ok ()
      else do
        let gi := st.2 + closes - 1
        must (tableFits s act (64 * gi + a0 + i)) cCOORD (tablePtr act)
        must (tableFits s wt (64 * gi + 63)) cCOORD (tablePtr wt)) ()

/-- The INT and LNS group checks of R285. -/
def streamGroups (s : State) (p : MxPred) (f : MxFmt) (a0 n : Nat) (pb : Bool) : Res Unit :=
  if f.isInt then do
    must (!p.q && p.tables.isSome) cMXFAULT 6
    let after := (List.range n).map fun i => grpAdvance p.size (f.elems / 48) (p.grp.getD (a0 + i) (0, 0))
    must (!(pb && after.any fun g => g.1 != 0)) cMXFAULT 7
    tablesOk s p f.elems a0 n
  else must ((List.range n).all fun i => (p.grp.getD (a0 + i) (0, 0)).1 == 0) cMXFAULT 7

/-- MSTREAM (R280). A base of z takes the rows from qmi. DESIGN CHOICE (log 107): the group checks of R285 find the rows as the stream's
own Z leaves them, so that a stream with Z = 1 raises no MXFAULT 7 for a group that an earlier one left open. -/
def execMstream (rs1 rs2 : Reg) (s : State) : Outcome State Fault Refusal :=
  finish4 s do
    let p ← readReg rs1 s
    let v ← readReg rs2 s
    let e ← needEngine s
    must (decide (fld v.toNat 40 24 = 0 ∧ fld v.toNat 26 6 = 0)) cMXFAULT 5
    let n := fld v.toNat 0 16
    let a0 := fld v.toNat 16 8
    let st := if fld v.toNat 32 8 = 0 then 1 else fld v.toNat 32 8
    let z := v.getLsbD 24
    let pb := v.getLsbD 25
    must (decide (a0 + n ≤ 64)) cMXFAULT 4
    if n = 0 then .ok (popAll [rs2] s)
    else
      let pr0 := e.mx.pred
      let f := pr0.fmt
      must (f != .none) cMXFAULT 3
      must (rs1 == .z || mxPtrOk p) cMXFAULT 2
      must (rs1 == .z || fmtOf (ptrWin p) == f) cMXFAULT 3
      let pr := if z then pr0.zero a0 n else pr0
      streamGroups s pr f a0 n pb
      if rs1 = .z then
        let s1 ← mxEnqueue e (.mstream none 0 st n a0 z pb 0 s.ctx.sys.evsel) s
        .ok (popAll [rs2] s1)
      else
        let sc := winScale (ptrWin p)
        let rs := (List.range n).map fun i => (ptrByte p + i * st * 48, 48)
        let (core, s1) ← mxOperand p (16 * sc) (((n - 1) * st * 48 + 48) * sc) rs (n * 48) s
        let s2 ← mxEnqueue e (.mstream (some core) (ptrByte p) st n a0 z pb 0 s.ctx.sys.evsel) s1
        .ok (popAll [rs2] s2)

/-! ### Zeroing, storing, modes, status (R282, R283, R288-R291) -/

/-- MZERO (R289). -/
def execMzero (rs1 rs2 : Reg) (s : State) : Outcome State Fault Refusal :=
  finish4 s do
    let a ← readReg rs1 s
    let c ← readReg rs2 s
    let e ← needEngine s
    must (decide (a.toNat + c.toNat ≤ 64)) cMXFAULT 4
    if c = 0 then .ok (popAll [rs1, rs2] s)
    else
      let s1 ← mxEnqueue e (.mzero a.toNat c.toNat) s
      .ok (popAll [rs1, rs2] s1)

/-- The group size code and the group descriptors of a destination range through window 5 or 6, read at issue (R72, R290); other
windows need none. A descriptor may be poisoned or lost (log 87). -/
def mstoreDesc (p : W64) (last : Nat) (s : State) : Res (Nat × List (Nat × Nat × Bool)) :=
  let w := ptrWin p
  let wd := if w = 5 then s.ctx.sys.wdesc5.toNat else s.ctx.sys.wdesc6.toNat
  if w = 5 ∨ w = 6 then
    let code := fld wd 37 3
    let g := groupSize code
    let first := ptrOff p / 4 / g
    match (List.range ((ptrOff p + last - 4) / 4 / g + 1 - first)).mapM fun i => descAddr w (4 * g * (first + i)) wd s with
    | none => raise cCOORD p
    | some as =>
      .ok (code, as.map fun a =>
        let v := ofBytes (s.mem.bytes a 4)
        (if w = 5 then fld v 16 8 else fld v 16 4, fld v 0 16,
          s.mem.anyPoison a 4 || addrLost a s || dieLost s (homeOf a).die))
  else .ok (0, [])

/-- MSTORE (R290). -/
def execMstore (rs1 rs2 : Reg) (s : State) : Outcome State Fault Refusal :=
  finish4 s do
    let p ← readReg rs1 s
    let v ← readReg rs2 s
    let e ← needEngine s
    let f := fld v.toNat 0 8
    let c := fld v.toNat 8 8
    must (decide (fld v.toNat 16 48 = 0)) cMXFAULT 5
    must (decide (f + c ≤ 64)) cMXFAULT 4
    must (isCoord p && decide (ptrWin p ≤ 8)) cMXFAULT 2
    let pr := e.mx.pred
    must ((List.range c).all fun i => (pr.grp.getD (f + i) (0, 0)).1 == 0) cMXFAULT 7
    if c = 0 then .ok (popAll [rs1, rs2] s)
    else
      let w := ptrWin p
      let o := ptrOff p
      let last := 256 * c
      let sc := winScale w
      coordHead p s
      must (decide (o % 4 = 0)) cMISALIGN p
      must (decide (o + last ≤ winEnd w)) cCOORD p
      let d ← mstoreDesc p last s
      let b := o / sc
      let n := (o + last + sc - 1) / sc - b
      let (core, s1) ← mxOperand p 4 last [(b, n)] (last / sc) s
      let s2 ← mxEnqueue e (.mstore core o w f c d.1 d.2) s1
      let s3 := setEngine e.cell (fun x => { x with far := x.far || dieOf core != dieOf s.cur }) s2
      .ok (popAll [rs1, rs2] s3)

/-- MWAIT (R288). -/
def execMwait (s : State) : Outcome State Fault Refusal :=
  finish4 s do
    let e ← needEngine s
    must (decide (e.mx.qmiNeed ≤ e.mx.qmi.length)) cMXFAULT 8
    must (decide (e.mx.qmoOwed + e.mx.qmo.length ≤ 64)) cMXFAULT 8
    if e.mx.idle then .ok (acquireEngine s) else wait

/-- MMODE (R282). -/
def execMmode (rs1 : Reg) (s : State) : Outcome State Fault Refusal :=
  finish4 s do
    let v ← readReg rs1 s
    let e ← needEngine s
    must (decide (v.toNat / 2 = 0)) cMXFAULT 5
    let s1 ← mxEnqueue e (.mmode (v.getLsbD 0)) s
    .ok (popAll [rs1] s1)

/-- Both descriptor tables' bases resolve as 4-byte accesses, then their dies enter TDMASK, then a moved one raises STALE (R272,
R283). -/
def tableBases (wt act : Nat) (s : State) : Res State := do
  let (t, s1) ← resolveCoord (tablePtr wt) 4 .engRead .scalar true s
  let (u, s2) ← resolveCoord (tablePtr act) 4 .engRead .scalar true s1
  let s3 := touchHome u.home (touchHome t.home s2)
  match t.stale.or u.stale with
  | some np => .error (.trap cSTALE 0 np (some s3))
  | none => .ok s3

/-- MSCALE (R283). -/
def execMscale (rs1 rs2 : Reg) (s : State) : Outcome State Fault Refusal :=
  finish4 s do
    let a ← readReg rs1 s
    let b ← readReg rs2 s
    let e ← needEngine s
    must (decide (fld a.toNat 40 24 = 0 ∧ fld b.toNat 37 27 = 0)) cMXFAULT 5
    let code := fld a.toNat 37 3
    must (decide (code ≤ 2)) cMXFAULT 6
    must (decide (fld a.toNat 20 4 = 0 ∧ fld b.toNat 20 4 = 0)) cMXFAULT 2
    must (e.mx.pred.grp.all fun g => g.1 == 0) cMXFAULT 7
    let wt := fld a.toNat 0 37
    let act := fld b.toNat 0 37
    let s1 ← tableBases wt act s
    let s2 ← mxEnqueue e (.mscale wt act code) s1
    .ok (popAll [rs1, rs2] s2)

/-- MSTAT (R291). DESIGN CHOICE (log 111): behind a stream from qmi that lacks words it waits, as an instruction at a full queue does
(R272), with no MXFAULT 8, though no other agent can push them. -/
def execMstat (rd : Reg) (s : State) : Outcome State Fault Refusal :=
  finish4 s do
    let e ← needEngine s
    if e.mx.idle then
      putPlain rd (e.mx.flags.setWidth 64) [] (setEngine e.cell (fun x => { x with flags := 0 }) s)
    else wait

/-! ### The engine's own steps -/

def engineAt (cell : Nat) (s : State) : Option Engine := s.engines.find? fun e => e.cell == cell

/-- MXPOISON (R291). -/
def MxState.orFlags (x : MxState) (f : BitVec 6) : MxState := { x with flags := x.flags ||| f }

/-- The operand bytes the engine reads, each with whether it is poisoned, lies in a lost page or on a lost die (R292, R362). -/
def engBytes (core byte n : Nat) (s : State) : List (Byte × Bool) :=
  (List.range n).map fun i =>
    let a := forward s (scratchAddr core (byte + i))
    (s.mem.byte a, s.mem.poisoned a || addrLost a s || dieLost s (homeOf a).die)

/-- PLANE_LOAD (R278): an MLDW at the head of the queue reads its plane once no row on it is in flight. -/
def planeLoad (cell : Nat) (s : State) : Option State :=
  match engineAt cell s with
  | none => none
  | some e =>
    match e.mx.queue with
    | .mldw core byte f false :: rest =>
      let target := !e.mx.active
      if e.mx.rows.any fun r => r.plane == target then none
      else
        let bs := engBytes core byte 3072 s
        let data := bs.map Prod.fst
        let pois := bs.map Prod.snd
        let set := fun (x : MxState) =>
          if target then { x with plane1 := data, poison1 := pois, fmt1 := f }
          else { x with plane0 := data, poison0 := pois, fmt0 := f }
        let fl : BitVec 6 := if bs.any (·.2) then 32 else 0
        some (setEngine cell (fun x => (set { x with queue := MxTask.mldw core byte f true :: rest }).orFlags fl) s)
    | _ => none

def execPlaneLoad (cell : Nat) (s : State) : Outcome State Fault Refusal := .next ((planeLoad cell s).getD s)

/-- The clock of a cell's cluster, in eighths of a cycle. -/
def clusterClock (cell : Nat) (s : State) : Nat := (clusterAt (clusterOf cell) s).clock s

/-- Cycles of a cell's cluster clock from one value of it to now reach `n` (R11). -/
def cyclesPast (cell start n : Nat) (s : State) : Bool := decide (n * 8 ≤ clusterClock cell s - start)

/-- Rows `a` to `a + n - 1` set to +0 with their group state cleared (R280, R289). -/
def MxState.zeroRows (x : MxState) (a n : Nat) : MxState :=
  { x with
    acc := x.acc.mapIdx fun i r => if a ≤ i ∧ i < a + n then Vector.replicate 64 0 else r
    groups := x.groups.mapIdx fun i g => if a ≤ i ∧ i < a + n then MxGroup.clear else g }

/-- The bytes of six qmi words, without poison (R286). -/
def qmiRow (ws : List W64) : List (Byte × Bool) := (ws.flatMap fun w => bytesOf 8 w.toNat).map fun b => (b, false)

/-- ROW_INJECTION (R280, R281, R293): the next row of the stream at the head of the queue, when its cadence, its bytes and
room in qmo allow; a stream before a waiting MFREE or EXIT ends when the words pushed before it hold no whole row (R270). DESIGN CHOICE
(log 108): Z clears its rows with the stream's first row, so that a stream that ends before that row clears none. -/
def rowInject (cell : Nat) (s : State) : Option State :=
  match engineAt cell s with
  | none => none
  | some e =>
    let x := e.mx
    match x.queue with
    | .mstream src byte st n a0 z p next sel :: rest =>
      let early := decide (0 < x.cut)
      let paced := match x.lastInj with
        | some t => cyclesPast cell t (cadenceOf cell s) s
        | none => true
      let clear := !(z && next == 0) || !x.rows.any fun r => decide (a0 ≤ r.acc ∧ r.acc < a0 + n)
      let room := !p || early || decide (x.qmo.length + 32 * (x.rows.filter (·.deliver)).length + 32 ≤ 64)
      let bytes? := match src with
        | some core => some (engBytes core (byte + next * st * 48) 48 s, x.qmi)
        | none => if 6 ≤ (if early then x.cutWords else x.qmi.length) then some (qmiRow (x.qmi.take 6), x.qmi.drop 6)
          else none
      match bytes? with
      | none => if early then some (setEngine cell (fun x => { x with queue := rest, cut := x.cut - 1 }) s) else none
      | some (bs, qmi) =>
        if paced && clear && room then
          let plane := x.active
          let row : MxRow := ⟨a0 + next, plane, if plane then x.fmt1 else x.fmt0, bs.map (·.1), bs.map (·.2), p, x.q,
            clusterClock cell s⟩
          let x1 := if z && next == 0 then x.zeroRows a0 n else x
          let fl : BitVec 6 := if bs.any (·.2) then 32 else 0
          let x2 := { x1 with
            rows := x1.rows ++ [row]
            queue := if next + 1 = n then rest else .mstream src byte st n a0 z p (next + 1) sel :: rest
            cut := if next + 1 = n then x.cut - 1 else x.cut
            qmi := qmi
            cutWords := x.cutWords - (x.qmi.length - qmi.length)
            lastInj := some (clusterClock cell s) }
          some (creditBy e.owner sel 0x0C 1 (setEngine cell (fun _ => x2.orFlags fl) s))
        else none
    | _ => none

def execRowInjection (cell : Nat) (s : State) : Outcome State Fault Refusal := .next ((rowInject cell s).getD s)

/-! ### Row completion (R281, R284, R287, R91, R92) -/

/-- One addition to an accumulator (R91): a subnormal sum becomes a zero of its sign. -/
def accAdd (acc t : W32) : W32 := flush32 (fadd32 acc t).1

/-- The product of two LNS elements, none where one is zero, with LRANGE (R281). -/
def lnsProduct (is16 : Bool) (a b : Nat) : Option (W32 × LFlags) :=
  let d := fun c => if is16 then lns16 c else lns8 c
  match d a, d b with
  | .nar, _ => some (w32 fp32.qnan, 0)
  | _, .nar => some (w32 fp32.qnan, 0)
  | .zero, _ => none
  | _, .zero => none
  | .num sa la, .num sb lb =>
    if is16 then some (lin16 true (.num (sa != sb) (la + lb))) else some (lin8 (.num (sa != sb) (la + lb)), 0)

/-- Insert by rank. -/
def rankIns (r : Nat) (v : W32) : List (Nat × W32) → List (Nat × W32)
  | [] => [(r, v)]
  | (k, w) :: t => if r ≤ k then (r, v) :: (k, w) :: t else (k, w) :: rankIns r v t

/-- The products of a row and one column (R281), in the order `rank` gives, with their flags. DESIGN CHOICE (log 110): with Q = 1 a NaR or a
poisoned byte outside the column's block is no element of K(j), and gives no NaN. -/
def columnProducts (row : MxRow) (plane : List Byte) (pois : List Bool) (j : Nat) (rank : Nat → Nat) :
    List (Nat × W32) × LFlags :=
  let is16 := row.fmt == .lns16
  let w := if is16 then 2 else 1
  let lo := if row.q then 12 * (j / 16) else 0
  let cnt := (if row.q then 12 else 48) / w
  let code := fun (l : List Byte) (i : Nat) => ofBytes ((l.drop i).take w)
  let bad := fun (l : List Bool) (i : Nat) => ((l.drop i).take w).any id
  let col := plane.drop (48 * j)
  let colP := pois.drop (48 * j)
  (List.range cnt).foldl (fun (acc : List (Nat × W32) × LFlags) k =>
    let i := lo + k * w
    if bad row.poison i || bad colP i then (rankIns (rank k) (w32 fp32.qnan) acc.1, acc.2)
    else match lnsProduct is16 (code row.bytes i) (code col i) with
      | none => acc
      | some (t, f) => (rankIns (rank k) t acc.1, acc.2 ||| f)) ([], 0)

/-- The update of an accumulator row by a row of an LNS stream; the claim and the row's number order the sums (R91, log 11). -/
def lnsRow (row : MxRow) (plane : List Byte) (pois : List Bool) (claim : Nat × Nat) (n : Nat) (acc : Vector W32 64) :
    Vector W32 64 × LFlags :=
  let cols := Vector.ofFn fun (j : Fin 64) => columnProducts row plane pois j (Config.accOrder claim n j)
  (Vector.ofFn fun j => cols[j].1.foldl (fun a t => accAdd a t.2) acc[j],
    cols.toList.foldl (fun f c => f ||| c.2) 0)

/-- Element `k` of a K row of an INT format (R70, R275). -/
def intElem (f : MxFmt) (bs : List Byte) (k : Nat) : Nat :=
  if f = .int4g then
    let v := (bs.getD (k / 2) 0).toNat
    if k % 2 = 1 then fld v 4 4 else fld v 0 4
  else (bs.getD k 0).toNat

/-- The descriptor at an index of a table of the owner's frame: zero point, scale, poison (R71, R284). -/
def tableDesc (f : MxFmt) (fr : Frame) (tab i : Nat) (s : State) : Nat × Nat × Bool :=
  let core := fr.cell (fld tab 34 3) (fld tab 30 4) (fld tab 26 4) * 4 + fld tab 24 2
  let bs := engBytes core (tableOff tab i) 4 s
  let d := ofBytes (bs.map (·.1))
  (if f = .int8g then fld d 16 8 else fld d 16 4, fld d 0 16, bs.any (·.2))

/-- The close of a group (R284, R92, R292), and whether a descriptor it read was poisoned. DESIGN CHOICE (log 109): such a descriptor is an
operand read, and sets MXPOISON. -/
def closeGroup (f : MxFmt) (fr : Frame) (tabs : Nat × Nat × Nat) (a : Nat) (g : MxGroup) (acc : Vector W32 64) (s : State) :
    Vector W32 64 × Bool :=
  let (za, sa, pa) := tableDesc f fr tabs.2.1 (64 * g.gi + a) s
  let ws := (List.range 64).map fun j => tableDesc f fr tabs.1 (64 * g.gi + j) s
  let bad := pa || ws.any (·.2.2)
  let size : Int := groupSize tabs.2.2
  (Vector.ofFn fun j =>
    if bad || g.poison.getD j false then w32 fp32.qnan
    else
      let (zw, sw, _) := ws.getD j (0, 0, false)
      let part : Int := g.s.getD j 0 - zw * g.sa - za * g.sw.getD j 0 + size * za * zw
      let scale := (mulFp (unpack fp16 sa) (unpack fp16 sw)).1
      accAdd acc[j] (pack32 (mulFp (intFp part) scale)).1,
    bad)

/-- The update of an accumulator row by a row of an INT stream, block of 48 elements by block (R284). -/
def intRow (row : MxRow) (plane : List Byte) (pois : List Bool) (fr : Frame) (tabs : Nat × Nat × Nat) (s : State) :
    Nat → Nat → MxGroup → Vector W32 64 → Bool → MxGroup × Vector W32 64 × Bool
  | 0, _, g, acc, bad => (g, acc, bad)
  | n + 1, k0, g, acc, bad =>
    let f := row.fmt
    let byteAt := fun k => if f = .int4g then k / 2 else k
    let ks := (List.range 48).map (k0 + ·)
    let xs := ks.map fun k => (intElem f row.bytes k : Int)
    let xBad := ks.any fun k => row.poison.getD (byteAt k) false
    let cols := (List.range 64).map fun j =>
      let col := plane.drop (48 * j)
      let colP := pois.drop (48 * j)
      let ws := ks.map fun k => (intElem f col k : Int)
      ((List.zipWith (· * ·) xs ws).sum, ws.sum, xBad || ks.any fun k => colP.getD (byteAt k) false)
    let g1 : MxGroup := { g with
      gp := g.gp + 48
      sa := g.sa + xs.sum
      s := List.zipWith (fun a c => a + c.1) g.s cols
      sw := List.zipWith (fun a c => a + c.2.1) g.sw cols
      poison := List.zipWith (fun a c => a || c.2.2) g.poison cols }
    if g1.gp = groupSize tabs.2.2 then
      let r := closeGroup f fr tabs row.acc g1 acc s
      intRow row plane pois fr tabs s n (k0 + 48) { MxGroup.clear with gi := g.gi + 1 } r.1 (bad || r.2)
    else intRow row plane pois fr tabs s n (k0 + 48) g1 acc bad

/-- The words of an accumulator row as qmo takes them (R287). -/
def qmoWords (acc : Vector W32 64) : List W64 :=
  (List.range 32).map fun w =>
    w64 ((acc.toList.getD (2 * w) 0).toNat + 2 ^ 32 * (acc.toList.getD (2 * w + 1) 0).toNat)

/-- ROW_COMPLETE (R281, R284, R287, R293): the oldest row in flight, 32 cycles after its injection. -/
def rowComplete (cell : Nat) (s : State) : Option State :=
  match engineAt cell s with
  | none => none
  | some e =>
    let x := e.mx
    match x.rows with
    | [] => none
    | row :: rest =>
      if !cyclesPast cell row.cyc 32 s then none
      else
        let plane := if row.plane then x.plane1 else x.plane0
        let pois := if row.plane then x.poison1 else x.poison0
        let a : Fin 64 := Fin.ofNat 64 row.acc
        let (g, acc, fl) : MxGroup × Vector W32 64 × BitVec 6 :=
          if row.fmt.isInt then
            let r := intRow row plane pois (vfFrame s e.owner.vf) (x.tables.getD (0, 0, 0)) s (row.fmt.elems / 48) 0
              x.groups[a] x.acc[a] false
            (r.1, r.2.1, if r.2.2 then 32 else 0)
          else
            let r := lnsRow row plane pois x.claim x.rowNo x.acc[a]
            (x.groups[a], r.1, r.2.setWidth 6)
        let qmo := if row.deliver then (x.qmo ++ qmoWords acc).take 64 else x.qmo
        let acc' := if row.deliver then Vector.replicate 64 0 else acc
        let x' := { x with
          rows := rest
          groups := x.groups.set a g
          acc := x.acc.set a acc'
          qmo := qmo
          rowNo := x.rowNo + 1 }
        some (setEngine cell (fun _ => x'.orFlags fl) s)

def execRowComplete (cell : Nat) (s : State) : Outcome State Fault Refusal := .next ((rowComplete cell s).getD s)

/-! ### Completion of the other queued instructions (R273, R290) -/

/-- Windows 7 and 8 of an MSTORE: rounded to the nearest even integer and saturated; a NaN gives 0 (R290). -/
def intStore (n : Nat) (x : W32) : Nat × LFlags :=
  let hi : Int := 2 ^ (n - 1) - 1
  let lo : Int := -(2 ^ (n - 1))
  match up x with
  | .nan _ => (0, lISAT)
  | .inf sg => if sg then (2 ^ (n - 1), lISAT) else (hi.toNat, lISAT)
  | .num sg m e =>
    let r := (toIntMag .rne sg m e).1
    let v : Int := if sg then -(r : Int) else r
    if hi < v then (hi.toNat, lISAT) else if v < lo then (2 ^ (n - 1), lISAT) else ((v % 2 ^ n).toNat, 0)

/-- The code an MSTORE writes through a window, with its flags; FP formats set none (R290). -/
def mstoreCode (w : Nat) (x : W32) (d : Nat × Nat) : Nat × LFlags :=
  if w = 7 then intStore 8 x
  else if w = 8 then intStore 4 x
  else let r := elemEncode false w x d; (r.1, r.2.1)

/-- One element of an MSTORE, with its group descriptor: a nibble rewrites its byte. A poisoned descriptor poisons what it encodes
(log 87); a lost page or die drops the write; each sets MXPOISON (R362). -/
def mstoreElem (core w o : Nat) (d : Nat × Nat × Bool) (x : W32) (s : State) : BitVec 6 × State :=
  let r := mstoreCode w x (d.1, d.2.1)
  let b := o / winScale w
  let a := forward s (scratchAddr core b)
  let bs := if w = 6 ∨ w = 8 then
      let old := (s.mem.byte a).toNat
      bytesOf 1 (if o / 4 % 2 = 1 then fld old 0 4 + 16 * r.1 else fld old 4 4 * 16 + r.1)
    else bytesOf (winBytes w 4) r.1
  let fl : BitVec 6 := r.2.setWidth 6
  if addrLost a s || dieLost s (homeOf a).die then (fl ||| 32, s)
  else
    let t := setMem (fun m => m.writeAll a bs) s
    if d.2.2 then (fl ||| 32, setMem (·.setPoison a) t) else (fl, t)

/-- The stores of an MSTORE, element by element. -/
def mstoreAll (core off w first count descCode : Nat) (descs : List (Nat × Nat × Bool)) (x : MxState) (s : State) :
    BitVec 6 × State :=
  let g := groupSize descCode
  (List.range (64 * count)).foldl (fun (p : BitVec 6 × State) i =>
    let v := ((x.acc.toList.getD (first + i / 64) (Vector.replicate 64 0)).toList).getD (i % 64) 0
    let o := off + 4 * i
    let r := mstoreElem core w o (descs.getD (o / 4 / g - off / 4 / g) (0, 0, false)) v p.2
    (p.1 ||| r.1, r.2)) (0, s)

/-- MATRIX_INSTRUCTION_COMPLETE (R273): the instruction at the head of the queue that is no stream. An MLDW finishes once
it has loaded; MSWAP waits for no row; the others wait for the rows in flight. -/
def mxComplete (cell : Nat) (s : State) : Option State :=
  match engineAt cell s with
  | none => none
  | some e =>
    let x := e.mx
    match x.queue with
    | [] => none
    | t :: rest =>
      let pop := fun (f : MxState → MxState) => setEngine cell (fun x => f { x with queue := rest, cut := x.cut - 1 }) s
      let calm := x.rows.isEmpty
      match t with
      | .mldw _ _ _ begun => if begun then some (pop id) else none
      | .mswap => some (pop fun x => { x with active := !x.active })
      | .mstream _ _ _ _ _ _ _ _ _ => none
      | .mzero f c => if calm then some (pop fun x => x.zeroRows f c) else none
      | .mmode q => if calm then some (pop fun x => { x with q := q }) else none
      | .mscale w a c => if calm then some (pop fun x => { x with tables := some (w, a, c) }) else none
      | .mstore core off w first count db dc =>
        if calm then
          let r := mstoreAll core off w first count db dc x s
          some (setEngine cell (fun x => { x with queue := rest, cut := x.cut - 1 }.orFlags r.1) r.2)
        else none

def execMatrixInstructionComplete (cell : Nat) (s : State) : Outcome State Fault Refusal :=
  .next ((mxComplete cell s).getD s)

end Sys2Proof.Machine
end

