-- ==== Sys2Proof/Machine/Tasks.lean ====
section
/-!
DEFINITION. Events and tasks: EVSIG, EVWAIT, EVTRY, EVSET, EVCLR, SPAWN, SUSPEND, YIELD, EXIT, RESUME, and the initial image of a
continuation (R99, R101, R330-R336).
-/

namespace Sys2Proof.Machine

open Host (Outcome)

/-! ### Events (R330-R332) -/

/-- An event of a VF; every name exists, with count 0 and latch clear until it is first changed (R330). -/
def evOf (vf name : Nat) (s : State) : EvEnt :=
  (s.sch.events.find? fun e => e.vf == vf && e.name == name).getD ⟨vf, name, 0, false, []⟩

/-- Write an event; an entry that holds nothing is freed. -/
def setEv (e : EvEnt) (s : State) : State :=
  let rest := s.sch.events.filter fun x => !(x.vf == e.vf && x.name == e.name)
  let free := decide (e.count = 0) && !e.latch && e.waiters.isEmpty
  setSch (fun t => { t with events := if free then rest else rest ++ [e] }) s

/-- Make waiters runnable, oldest first (R332). -/
def wakeAll (vf : Nat) (ws : List Nat) (s : State) : State := ws.foldl (fun s w => makeRunnable ⟨vf, w⟩ s) s

/-- Add to an event's count; while waiters remain and the count is not 0, the oldest takes one and wakes (R331, R332). -/
def signalEvent (vf name n : Nat) (s : State) : State :=
  let e := evOf vf name s
  let c := Nat.min (e.count + n) (2 ^ 32 - 1)
  let k := Nat.min c e.waiters.length
  wakeAll vf (e.waiters.take k) (setEv { e with count := c - k, waiters := e.waiters.drop k } s)

/-- The event name of an operand. -/
def evName (v : W64) : Nat := fld v.toNat 0 16

/-- EVSIG (R331): a release. -/
def execEvsig (rs1 rs2 : Reg) (s : State) : Outcome State Fault Refusal :=
  finish4 s do
    let a ← readReg rs1 s
    let b ← readReg rs2 s
    let s1 ← releasePkg s
    .ok (popAll [rs1, rs2] (signalEvent s.vfid (evName a) (fld b.toNat 0 32) (touch 0x1000 s1)))

/-- EVSET (R331): a release. -/
def execEvset (rs1 : Reg) (s : State) : Outcome State Fault Refusal :=
  finish4 s do
    let a ← readReg rs1 s
    let s1 ← releasePkg s
    let e := evOf s.vfid (evName a) s
    .ok (popAll [rs1] (wakeAll s.vfid e.waiters (setEv { e with latch := true, waiters := [] } (touch 0x1000 s1))))

/-- EVCLR (R331). -/
def execEvclr (rs1 : Reg) (s : State) : Outcome State Fault Refusal :=
  finish4 s do
    let a ← readReg rs1 s
    .ok (popAll [rs1] (setEv { evOf s.vfid (evName a) s with latch := false, count := 0 } (touch 0x1000 s)))

/-- Take what an event holds: the latch, or one count, as an acquire; none when it holds neither (R331). -/
def takeEvent (name : Nat) (s : State) : Option State :=
  let e := evOf s.vfid name s
  if e.latch then some (acquirePkg s)
  else if 1 ≤ e.count then some (acquirePkg (setEv { e with count := e.count - 1 } s))
  else none

/-- EVTRY (R331). -/
def execEvtry (rd rs1 : Reg) (s : State) : Outcome State Fault Refusal :=
  finish4 s do
    let a ← readReg rs1 s
    let s1 := touch 0x1000 s
    match takeEvent (evName a) s1 with
    | some s2 => putPlain rd 1 [rs1] s2
    | none => putPlain rd 0 [rs1] s1

/-- A record written back as waiting joins its event's waiters, and its EVENT field names the event (R331). -/
def joinWaiters (name : Nat) (k : Key) (s0 : State) : State :=
  let s := recSeen k s0
  match recRead k s with
  | none => s
  | some r =>
    if recState r ≠ 3 then s
    else
      let e := evOf k.vf name s
      setEv { e with waiters := e.waiters ++ [k.rva] } (hwTry k.vf k.rva (bytesOf 64 (setFld r 80 16 name)) s)

/-- EVWAIT (R331, R336): outstanding results are written and their windows end first (R33); it completes at once on a latch
or a count, else it suspends, and is demoted as its acquire is (R215); in a service run a wait is ILL (R353). -/
def execEvwait (rs1 : Reg) (s0 : State) : Outcome State Fault Refusal :=
  let s := flushLa s0
  match readReg rs1 s with
  | .error e => finish4 s (.error e)
  | .ok a =>
    let s1 := touch 0x1000 s
    match takeEvent (evName a) s1 with
    | some s2 => finish4 s (.ok (popAll [rs1] s2))
    | none =>
      finish s do
        suspendAllowed s
        must (!inService s) cILL s.insn
        leaveCore 3 (popAll [rs1] (demote .pkg s1).2) (joinWaiters (evName a))

/-! ### Tasks (R333-R336) -/

/-- The initial image of a continuation (R99, R101, R102): window-15 stack pointer at SPILLSZ with its core not yet filled in,
the argument in m4, the generator at its start, HOME not yet set, everything else 0. -/
def initialCtx (k : Key) (gthread : Nat) (ax : Nat) (code : Nat) (saveptr ctrptr arg : W64) (prio launch : Nat)
    (seed : W128) : Ctx :=
  let sp := w64 (2 ^ 63 + 15 * 2 ^ 20 + code * 1024)
  { Ctx.blank with
    g := { Ctx.blank.g with m := (Ctx.blank.g.m.set 2 sp).set 4 arg }
    sys := { Ctx.blank.sys with
      gthread := BitVec.ofNat 24 gthread
      vfid := k.vf
      home := BitVec.allOnes 37
      ax := BitVec.ofNat 9 ax
      spillsz := BitVec.ofNat 17 (code * 1024) }
    rng := rngStart seed gthread
    info := ⟨some k, saveptr, ctrptr, prio, launch, seed, none⟩ }

/-- A save or counter pointer is aligned, global with AX = 0, and its `n` bytes translate as writable (R321, R323). -/
def areaOk (vf : Nat) (p : W64) (align n : Nat) (s : State) : Bool :=
  !p.getLsbD 63 && decide (p.toNat % align = 0) && hwOk vf p.toNat n .write s

/-- The areas of a record have been looked up, as their checks ask (R190). -/
def areasWalked (vf : Nat) (r : Nat) (s : State) : State :=
  let walk := fun (p align n : Nat) (t : State) => if p < 2 ^ 63 ∧ p % align = 0 then hwWalked vf p n .write t else t
  walk (recCtr r) 32 160 (walk (recSave r) 64 106496 s)

/-- The two areas of a record (R320). -/
def areasOk (vf : Nat) (r : Nat) (s : State) : Bool :=
  areaOk vf (w64 (recSave r)) 64 106496 s && areaOk vf (w64 (recCtr r)) 32 160 s

/-- HOME is not yet set, or names a core of the frame (R333). -/
def homeOk (vf : Nat) (h : Nat) (s : State) : Bool :=
  decide (h = 2 ^ 37 - 1) || (vfFrame s vf).holds (fld h 34 3) (fld h 30 4) (fld h 26 4)

/-- Create a continuation: its initial image, its counter area, its place in a launch and in its queue (R326, R333). Its qnt is empty:
what an earlier continuation of the record had left over is gone (R247), and what that one still owes or is owed goes to nobody (R254,
R309). -/
def createCtx (k : Key) (c : Ctx) (s0 : State) : State :=
  let s := dropImage k (orphan k s0)
  let s1 := (hwVeil k.vf c.info.saveptr.toNat 106496 s).getD (hwWalked k.vf c.info.saveptr.toNat 106496 .write s)
  let s2 := hwTry k.vf c.info.ctrptr.toNat (List.replicate 160 0) s1
  let s3 := setSch (fun t => { t with
    fresh := t.fresh.filter (· != k) ++ [k]
    launches := t.launches.map fun l => if l.id == c.info.launch then { l with live := l.live + 1 } else l }) (putImage k c s2)
  enqueue k c.info.prio s3

/-- The access of SPAWN and RESUME to a record (R333, R335): its storage address, with the charge and dies, after the thread's
own accesses to it (R160, R209, R226), and after the fences that hold a read or a write (R212). It is atomic: the line is taken. -/
def recordAccess (p : W64) (s00 : State) : Res (Nat × State) := do
  let s ← fenceGate true true (fixReads s00)
  must (!isCoord p) cCOORD p
  must (decide (p.toNat % 64 = 0)) cMISALIGN p
  let (t, s1) ← resolveGlobal p 64 .write .scalar true s
  let s2 ← keepWalk s1 (charge (accessCharge s t.home 64) s1)
  let s3 := touchHome t.home s2
  let a := t.place.addr
  let x : Span := ⟨a, 64, true, true⟩
  accessWaits x s
  if (ownStores s).any fun e => x.meets (e.span s) then wait
  else if s.mem.anyPoison a 64 then .error (.trap cECC 1 p (some (setMem (·.noted a 64) s3)))
  else .ok (a, takeLine true a 64 s3)

/-- Write a record at its storage address, visible to every agent at once (R322). -/
def recordPut (a r : Nat) (s : State) : State := dropOthers a none (placeAll a (bytesOf 64 r) s)

/-- What SPAWN asks of a free record (R333). -/
def spawnOk (r : Nat) (s : State) : Bool :=
  recReservedOk r && decide (recSpill r ≤ 64) && !bitAt (recFlags r) 3 && areasOk s.vfid r s && homeOk s.vfid (recHome r) s

/-- SPAWN (R333): a release at package scope, never demoted (R215). -/
def execSpawn (rd rs1 : Reg) (s : State) : Outcome State Fault Refusal :=
  finish4 s do
    let p ← readReg rs1 s
    must (!isCoord p) cCOORD p
    must (decide (p.toNat % 64 = 0)) cMISALIGN p
    let s0 ← releaseReady .pkg s
    let (a, s1) ← recordAccess p s0
    let r := ofBytes (s1.mem.bytes a 64)
    if recState r ≠ 0 then putPlain rd 1 [rs1] s1
    else if !spawnOk r s then putPlain rd 2 [rs1] (areasWalked s.vfid r s1)
    else
      let h := if recHome r = 2 ^ 37 - 1 then recHome r else recHome r / 2 ^ 24 * 2 ^ 24
      let r1 := setFld (setFld (setFld (setFld (setFld r 152 10 s.vfid) 360 8 0) 80 16 0) 72 4 1) 320 37 h
      let l := ownLaunch s
      let ax := (l.map fun l => fld (ofBytes ((l.copy.drop 36).take 2)) 0 9).getD 0
      let k : Key := ⟨s.vfid, plainVa s.ctx.sys.ax p⟩
      let c0 := initialCtx k (fld r 128 24) ax (recSpill r) (w64 (recSave r)) (w64 (recCtr r)) p (recPrio r)
        s.ctx.info.launch s.ctx.info.seed
      let c := { c0 with sys := { c0.sys with tdmask := BitVec.ofNat 13 (fld r 168 13), home := BitVec.ofNat 37 h } }
      putPlain rd 0 [rs1] (createCtx k c (recordPut a r1 s1))

/-- The end of a thread or of a service run (R270, R334, R353): the matrix engine is freed first. -/
def exitCore (s : State) : Outcome State Fault Refusal :=
  match suspendAllowed s with
  | .error e => finish s (.error e)
  | .ok _ =>
    match freeEngine s with
    | some t => finish s (do
      let _ ← suspendReady s
      leaveCore 6 t fun _ t => t)
    | none => .next (drainEngine s)

/-- SUSPEND (R334). -/
def execSuspend (s : State) : Outcome State Fault Refusal :=
  if inService s then exitCore s
  else finish s do
    suspendAllowed s
    leaveCore 5 s fun _ t => t

/-- YIELD (R334): the tail of its queue. -/
def execYield (s : State) : Outcome State Fault Refusal :=
  if inService s then exitCore s
  else finish s do
    suspendAllowed s
    leaveCore 1 s requeue

/-- EXIT (R270, R334): it frees the matrix engine first. -/
def execExit (s : State) : Outcome State Fault Refusal := exitCore s

/-- RESUME (R335, R354): a record of this VF in STATE 4 or 5 becomes runnable; one in STATE 4 receives notice 0x01. -/
def execResume (rs1 : Reg) (s : State) : Outcome State Fault Refusal :=
  finish4 s do
    let p ← readReg rs1 s
    let (a, s1) ← recordAccess p s
    let r := ofBytes (s1.mem.bytes a 64)
    let k : Key := ⟨s.vfid, plainVa s.ctx.sys.ax p⟩
    let st := recState r
    if fld r 152 10 = s.vfid ∧ (st = 4 ∨ st = 5) then
      let s2 := enqueue k (recPrio r) (recordPut a (setFld r 72 4 1) s1)
      .ok (popAll [rs1] (if st = 4 then postNotice k 0x01 (k.rva % 2 ^ 56) s2 else s2))
    else .ok (popAll [rs1] s1)

end Sys2Proof.Machine
end

