-- ==== Sys2Proof/Machine/Moves.lean ====
section
/-!
DEFINITION. HMBUMP and RELACK, and the accesses that they wait for: those translated under an old generation, and those that a
tombstone holds or forwards (R176, R194, R218, R219).
-/

namespace Sys2Proof.Machine

open Host (Outcome)

/-- The continuations that run, each with its core. -/
def runningCtxs (s : State) : List (Nat × Ctx) := (if s.live then [(s.cur, s.ctx)] else []) ++ s.parked

/-- The continuations that run and the saved ones. The image of a record that runs is what its last save left, and counts no more. -/
def allCtxs (s : State) : List Ctx :=
  let run := (runningCtxs s).map (·.2)
  let away := s.sch.images.filter fun i => !run.any fun c => c.info.key == some ⟨i.vf, i.rva⟩
  run ++ away.map (·.ctx)

/-! ### HMBUMP (R194, R218) -/

/-- Advance a slot's generation by one, modulo 4,096; at 0 every line and entry of the slot is swept, the dirty lines checked on
their way home (R180, R194). -/
def bumpSlot (vf slot : Nat) (s : State) : State :=
  match s.trans.vf? vf with
  | none => s
  | some f =>
    let g := (genOf f slot + 1) % 4096
    let others := f.gens.filter fun e => e.1 != slot
    let s1 := setVf s vf fun f => { f with gens := if g = 0 then others else others ++ [(slot, g)] }
    if g ≠ 0 then s1
    else
      let keepLine := fun (l : CLine) => !(l.vf == vf && slotOf l.va == slot)
      let keepEnt := fun (e : TEnt) => !(e.vf == vf && slotOf e.tag == slot)
      let keepUpper := fun (e : WEnt) => !(e.vf == vf && e.va % 256 == slot)
      let s2 := sentHome (s1.fab.slices.filter fun l => !keepLine l) s1
      { s2 with
        fab := { s2.fab with slices := s2.fab.slices.filter keepLine, icache := s2.fab.icache.filter keepLine }
        trans := { s2.trans with tcache := s2.trans.tcache.filter keepEnt, wcache := s2.trans.wcache.filter keepUpper } }

/-- Some access of a VF to a global address whose pointer `named` holds of has not been performed: a queued store, a write that has its
place and is not performed at package scope, a pending AMO, a load whose value is still open, a queued vector element, a copy
chunk (R194 step 4). -/
def accessOpen (vf : Nat) (named : W64 → Bool) (s : State) : Bool :=
  let at' := fun (p : Place) => isGlobal p.addr && named p.ptr
  (s.mem.stores.any fun e => isGlobal e.addr && named e.ea && e.owner.vf == vf) ||
    (s.mem.msgs.any fun w => w.performedAt.isNone && named w.ea && w.owner.any fun k => k.vf == vf) ||
    ((allCtxs s).any fun c => c.sys.vfid == vf &&
      (c.amo.any (fun m => at' m.place) ||
        (c.la.any fun e => !e.done && e.read.any fun r => at' r.place) ||
        c.vec.q.any fun t => t.elems.any fun e => at' e.2)) ||
    s.cp.cmds.any fun c => c.owner.vf == vf && c.moving.isSome

/-- An access translated under a slot's generation is open. A window-15 access to the overflow area, and every one in
compatibility mode, counts for each slot. -/
def slotBusy (vf slot : Nat) (s : State) : Bool :=
  let compat := ((s.trans.vf? vf).map (·.compat)).getD false
  accessOpen vf (fun p => isCoord p || compat || slotOf p.toNat == slot) s

/-- Some access of a VF to a global address is open. -/
def vfBusy (vf : Nat) (s : State) : Bool := accessOpen vf (fun _ => true) s

/-- HMBUMP (R218): a package-scope release, then the bump, complete once every older access has been performed. -/
def execHmbump (rs1 : Reg) (s : State) : Outcome State Fault Refusal :=
  finish4 s do
    needSup s
    let p ← readReg rs1 s
    let t ← releaseReady .pkg s
    let slot := slotOf p.toNat
    if slotBusy s.vfid slot s then wait else .ok (bumpSlot s.vfid slot t)

/-- Bump all 256 slots of a VF (R194). -/
def bumpAll (vf : Nat) (s : State) : State := (List.range 256).foldl (fun s k => bumpSlot vf k s) s

/-! ### RELACK (R177, R219) -/

/-- The storage that a queued matrix instruction still reads or writes: core, first byte, length. -/
def MxTask.ranges (t : MxTask) : List (Nat × Nat × Nat) :=
  match t with
  | .mldw c b _ begun => if begun then [] else [(c, b, 3072)]
  | .mstream (some c) b st n _ _ _ next _ => (List.range (n - next)).map fun i => (c, b + (next + i) * st * 48, 48)
  | .mstore c o w _ n _ _ => [(c, o / winScale w, (o + 256 * n + winScale w - 1) / winScale w - o / winScale w)]
  | _ => []

/-- The table core and the first byte of a descriptor table's pages that a stream may read. -/
def tableMeets (fr : Frame) (tab core page : Nat) : Bool :=
  fr.cell (fld tab 34 3) (fld tab 30 4) (fld tab 26 4) * 4 + fld tab 24 2 == core && decide (fld tab 0 20 < (page + 1) * 4096)

/-- An engine's queue or rows still read or write a page. -/
def MxState.meetsPage (x : MxState) (fr : Frame) (core page : Nat) : Bool :=
  (x.queue.any fun t => t.ranges.any fun r => r.1 == core && rangesMeet r.2.1 r.2.2 (page * 4096) 4096) ||
    (!x.idle && x.tables.any fun t => tableMeets fr t.1 core page || tableMeets fr t.2.1 core page)

/-- The rest of a copy command reads or writes a page through a side, from command byte `pos` on. -/
def CopySide.meetsPage (d : CopySide) (x : SysRegs) (pos len core page : Nat) (s : State) : Bool :=
  let a := Nat.max pos (d.span len).1
  let b := (d.span len).2
  d.coord && decide (a < b) &&
    (match d.loc x a s, d.loc x (b - 1) s with
     | .scratch c lo, .scratch _ hi => c == core && rangesMeet lo (hi + 1 - lo) (page * 4096) 4096
     | .scratch c lo, _ => c == core && rangesMeet lo 0x30000 (page * 4096) 4096
     | _, _ => false)

/-- A copy side through window 5 or 6 still reads group descriptors in a page. -/
def CopySide.tableMeets (d : CopySide) (x : SysRegs) (core page : Nat) (s : State) : Bool :=
  d.coord && (decide (d.win = 5) && Machine.tableMeets (vfFrame s x.vfid) x.wdesc5.toNat core page ||
    decide (d.win = 6) && Machine.tableMeets (vfFrame s x.vfid) x.wdesc6.toNat core page)

/-- A copy command still reads, writes or updates a page. -/
def CopyCmd.meetsPage (c : CopyCmd) (core page : Nat) (s : State) : Bool :=
  let side := fun (d : CopySide) =>
    d.meetsPage c.sys (4096 * c.chunk) (cmdLen c.w2) core page s || d.tableMeets c.sys core page s
  (c.place != .done && (side c.src || side c.dst)) ||
    (decide (cmdKind c.w2 = 1 ∨ cmdKind c.w2 = 2) &&
      rangesMeet c.target 32 (scratchAddr core (page * 4096)) 4096)

/-- Accesses that a tombstone holds or forwards: queued stores, pending AMOs, open loads, vector elements with their group descriptors,
matrix operands and copy commands in the old page. -/
def pageBusy (core page : Nat) (s : State) : Bool :=
  let a := scratchAddr core (page * 4096)
  let inPage := fun (b : Nat) => decide (a ≤ b ∧ b < a + 4096)
  let uses := fun (p : Place) => inPage p.addr || decide (p.win = 5 ∨ p.win = 6) && inPage p.desc
  (s.mem.stores.any fun e => inPage e.addr) ||
    ((allCtxs s).any fun c =>
      c.amo.any (fun m => uses m.place) ||
      (c.la.any fun e => !e.done && e.read.any fun r => uses r.place) ||
      (c.vec.q.any fun t => t.elems.any fun e => uses e.2) ||
      c.engine.any fun x => x.meetsPage (vfFrame s c.sys.vfid) core page) ||
    (s.engines.any fun e => e.mx.meetsPage (vfFrame s e.owner.vf) core page) ||
    s.cp.cmds.any fun c => c.meetsPage core page s

/-- RELACK (R219). -/
def execRelack (rs1 : Reg) (s : State) : Outcome State Fault Refusal :=
  finish4 s do
    needSup s
    let p ← readReg rs1 s
    must (isCoord p && decide (fld p.toNat 37 26 = 0) && decide (ptrWin p ≤ 8)) cCOORD p
    must ((vfFrame s s.vfid).holds (ptrDie p) (ptrY p) (ptrX p)) cCOORD p
    must (decide (ptrOff p < winEnd (ptrWin p))) cCOORD p
    let core := ptrCore p s
    let page := ptrOff p / winScale (ptrWin p) / 4096
    must (ownsPage s s.vfid core page) cCOORD p
    if (tombOf s core page).isNone then .ok s
    else if pageBusy core page s then wait
    else
      let s1 := setFab (fun f => { f with tombs := f.tombs.filter fun t => !(t.core == core && t.page == page) }) s
      if s.fab.retired.contains (cellOf core) then .ok s1
      else .ok (setMem (fun m => m.zeroRange (scratchAddr core (page * 4096)) 4096) s1)

end Sys2Proof.Machine
end

