-- ==== Sys2Proof/Machine/Launch.lean ====
section
/-!
DEFINITION. Launches: the checks of a committed slot, groups, the creation of threads, and completion (R324-R328).
-/

namespace Sys2Proof.Machine

open Host (Outcome)

/-! ### The launch record (R324) -/

/-- `n` bytes of a slot's copy from byte `i`, as a number. -/
def slotFld (c : List Byte) (i n : Nat) : Nat := ofBytes ((c.drop i).take n)

def slotEntry (c : List Byte) : Nat := slotFld c 0 9
def slotQueue (c : List Byte) : Nat := fld (slotFld c 9 1) 0 4
def slotThreads (c : List Byte) : Nat := if slotFld c 10 3 = 0 then 2 ^ 24 else slotFld c 10 3
def slotSpill (c : List Byte) : Nat := slotFld c 13 1
def slotGroups (c : List Byte) : Nat := slotFld c 14 2
def slotGroupPtr (c : List Byte) : W64 := w64 (slotFld c 16 8)
def slotArgs (c : List Byte) : W64 := w64 (slotFld c 24 8)
def slotDoneEv (c : List Byte) : Nat := slotFld c 32 2
def slotDoneN (c : List Byte) : Bool := bitAt (slotFld c 34 1) 0
def slotFlags (c : List Byte) : Nat := fld (slotFld c 35 1) 0 3
def slotAx (c : List Byte) : BitVec 9 := BitVec.ofNat 9 (slotFld c 36 2)
def slotLimit (c : List Byte) : Nat := slotFld c 40 8
def slotSeed (c : List Byte) : W128 := BitVec.ofNat 128 (slotFld c 48 16)
def slotRec (c : List Byte) : W64 := w64 (slotFld c 64 8)
def slotSave (c : List Byte) : W64 := w64 (slotFld c 72 8)
def slotCtr (c : List Byte) : W64 := w64 (slotFld c 80 8)

/-- The reserved fields are zero and ENTRY is even (R324, R325). -/
def slotReservedOk (c : List Byte) : Bool :=
  !bitAt (slotEntry c) 0 && decide (fld (slotFld c 9 1) 4 4 = 0) && decide (fld (slotFld c 34 1) 1 7 = 0) &&
    decide (fld (slotFld c 35 1) 3 5 = 0) && decide (fld (slotFld c 36 2) 9 7 = 0) && decide (slotFld c 38 2 = 0) &&
    decide (slotFld c 88 152 = 0) && decide (slotFld c 248 7 = 0)

/-- A region of the launch is aligned and translates, as a supervisor access, for the access asked (R323, R325). -/
def regionOk (vf : Nat) (ax : BitVec 9) (p : W64) (align n : Nat) (k : AKind) (s : State) : Bool :=
  !p.getLsbD 63 && decide (p.toNat % align = 0) && hwOk vf (plainVa ax p) n k s

/-- The records, save areas and counter areas, and the group image (R325). -/
def regionsOk (vf : Nat) (c : List Byte) (s : State) : Bool :=
  let n := slotThreads c
  let ax := slotAx c
  regionOk vf ax (slotRec c) 64 (64 * n) .amo s && regionOk vf ax (slotSave c) 64 (106496 * n) .amo s &&
    regionOk vf ax (slotCtr c) 32 (160 * n) .amo s &&
    (decide (slotGroups c = 0) || regionOk vf ax (slotGroupPtr c) 8 (24 * slotGroups c) .read s)

/-- The regions of a launch have been looked up (R190). -/
def regionsWalked (vf : Nat) (c : List Byte) (s : State) : State :=
  let n := slotThreads c
  let ax := slotAx c
  let walk := fun (p : W64) (align len : Nat) (k : AKind) (t : State) =>
    if !p.getLsbD 63 && decide (p.toNat % align = 0) then hwWalked vf (plainVa ax p) len k t else t
  let t1 := walk (slotRec c) 64 (64 * n) .amo s
  let t2 := walk (slotSave c) 64 (106496 * n) .amo t1
  let t3 := walk (slotCtr c) 32 (160 * n) .amo t2
  if slotGroups c = 0 then t3 else walk (slotGroupPtr c) 8 (24 * slotGroups c) .read t3

/-! ### Groups (R328) -/

/-- The storage address of a barrier object that a group names in the VF's frame, when it resolves. -/
def barrierAddr (vf : Nat) (p : W64) (s : State) : Option Nat :=
  let f := vfFrame s vf
  let core := f.cell (ptrDie p) (ptrY p) (ptrX p) * 4 + ptrRank p
  let page := ptrOff p / 4096
  if isCoord p ∧ fld p.toNat 37 26 = 0 ∧ ptrWin p = 0 ∧ f.holds (ptrDie p) (ptrY p) (ptrX p) ∧ ptrOff p % 16 = 0 ∧
      ptrOff p + 16 ≤ winEnd 0 ∧ ownsPage s vf core page ∧ (tombOf s core page).isNone ∧ !pageLost s core page ∧
      !dieLost s (dieOf core) then
    some (scratchAddr core (ptrOff p))
  else none

/-- A group entry as copied, with its object's address; none where a check of R328 on it alone fails. -/
def readGroup (vf : Nat) (c : List Byte) (g : Nat) (s : State) : Option (Group × Nat) :=
  let ax := slotAx c
  let n := slotThreads c
  match hwRead vf (plainVa ax (slotGroupPtr c) + 24 * g) 24 s with
  | none => none
  | some e =>
    let bp := w64 (slotFld e 0 8)
    let count := slotFld e 8 4
    let bar := w64 (slotFld e 16 8)
    if bp.getLsbD 63 ∨ slotFld e 12 4 ≠ 0 ∨ count = 0 ∨ 2 ^ 31 ≤ count then none
    else match hwRead vf (plainVa ax bp) ((n + 7) / 8) s, barrierAddr vf bar s with
      | some bs, some a =>
        let bits := ofBytes bs
        if popBelow bits n = count then some (⟨bits % 2 ^ n, count, bar⟩, a) else none
      | _, _ => none

/-- Read the groups in ascending order: the groups, or the id of the first that fails. A later group fails when it names an
earlier group's object, or is the fifth of some thread. -/
def readGroups (vf : Nat) (c : List Byte) (s : State) : Nat → Nat → List (Group × Nat) → Except Nat (List Group)
  | 0, _, acc => .ok (acc.map Prod.fst)
  | fuel + 1, g, acc =>
    match readGroup vf c g s with
    | none => .error g
    | some (x, a) =>
      let beyond := (List.range (slotThreads c)).any fun t =>
        bitAt x.bitmap t && decide (4 ≤ (acc.filter fun y => bitAt y.1.bitmap t).length)
      if acc.any (fun y => y.2 == a) || beyond then .error g
      else readGroups vf c s fuel (g + 1) (acc ++ [(x, a)])

/-- Slots of GRPMAP: group ids below 255 in ascending order, 0xFF where unused. -/
def grpSlots (ids : List Nat) : Nat :=
  ofBytes ((List.range 4).map fun i => BitVec.ofNat 8 (ids.getD i 255))

/-! ### Threads (R326) -/

/-- The record of thread `t` as the launch writes it (R321). -/
def launchRecord (vf t : Nat) (c : List Byte) (gs : List Group) : Nat :=
  let ids := (List.range gs.length).filter fun g => bitAt ((gs[g]?.map (·.bitmap)).getD 0) t
  let r := setFld 0 0 72 (slotEntry c)
  let r := setFld r 72 4 1
  let r := setFld r 76 4 (slotQueue c)
  let r := setFld r 96 32 (grpSlots (ids.filter (· < 255)))
  let r := setFld r 128 24 t
  let r := setFld r 152 10 vf
  let r := setFld r 162 6 (slotFlags c)
  let r := setFld r 184 8 (slotSpill c)
  let r := setFld r 256 64 (slotLimit c)
  let r := setFld r 320 37 (2 ^ 37 - 1)
  let r := setFld r 368 1 (if ids.contains 255 then 1 else 0)
  let r := setFld r 384 64 ((slotSave c).toNat + 106496 * t)
  setFld r 448 64 ((slotCtr c).toNat + 160 * t)

/-- Create thread `t` of launch `id`: its record, then its image and its place in the queue. -/
def createThread (vf id : Nat) (c : List Byte) (gs : List Group) (s : State) (t : Nat) : State :=
  let k : Key := ⟨vf, plainVa (slotAx c) (slotRec c) + 64 * t⟩
  let s1 := hwTry k.vf k.rva (bytesOf 64 (launchRecord vf t c gs)) s
  let x := initialCtx k t (slotAx c).toNat (slotSpill c) (w64 ((slotSave c).toNat + 106496 * t))
    (w64 ((slotCtr c).toNat + 160 * t)) (slotArgs c) (slotQueue c) id (slotSeed c)
  createCtx k x s1

/-- The first byte of a slot. -/
def slotAddr (vf slot : Nat) (s : State) : Nat := ((s.trans.vf? vf).map (·.launchBase)).getD 0 + 256 * slot

/-- Write LSTAT, then COMMIT when it ends the slot's use. -/
def setLstat (vf slot v : Nat) (s : State) : State := placeAll (slotAddr vf slot s + 240) (bytesOf 8 v) s

def clearCommit (vf slot : Nat) (s : State) : State := placeAll (slotAddr vf slot s + 255) [0] s

/-- A launch that is turned away (R325). -/
def rejectLaunch (vf slot code : Nat) (s : State) : State := clearCommit vf slot (setLstat vf slot code s)

/-- Set the groups' barriers as BINIT does, before any thread starts. -/
def initBarriers (vf : Nat) (gs : List Group) (s : State) : State :=
  gs.foldl (fun s g => match barrierAddr vf g.barrier s with
    | some a => setMem (fun m => m.writeAll a (barBytes0 g.count)) s
    | none => s) s

/-- A group's entry and bitmap have been read (R180). -/
def seenGroup (vf : Nat) (c : List Byte) (s : State) (g : Nat) : State :=
  let a := plainVa (slotAx c) (slotGroupPtr c) + 24 * g
  let t := hwNoted vf a 24 s
  match hwRead vf a 24 s with
  | some e => hwNoted vf (plainVa (slotAx c) (w64 (slotFld e 0 8))) ((slotThreads c + 7) / 8) t
  | none => t

/-- The first `n` groups have been read. -/
def seenGroups (vf n : Nat) (c : List Byte) (s : State) : State := (List.range n).foldl (seenGroup vf c) s

/-- The command processor's work on a slot whose COMMIT byte has become non-zero: it reads the slot, whose lines are checked (R180,
R325). -/
def commitLaunch (vf slot : Nat) (s00 : State) : State :=
  let c := s00.mem.bytes (slotAddr vf slot s00) 256
  let s0 := setMem (·.noted (slotAddr vf slot s00) 256) s00
  if !slotReservedOk c then rejectLaunch vf slot 0x10 s0
  else if 64 < slotSpill c ∨ 256 < slotGroups c then rejectLaunch vf slot 0x13 s0
  else
    let s := regionsWalked vf c s0
    if !regionsOk vf c s0 then rejectLaunch vf slot 0x11 s
    else match readGroups vf c s (slotGroups c) 0 [] with
    | .error g => rejectLaunch vf slot (0x12 + 256 * g) (seenGroups vf (g + 1) c s)
    | .ok gs =>
      let id := s.sch.nextLaunch
      let s1 := setLstat vf slot 1 (seenGroups vf (slotGroups c) c s)
      let s2 := setSch (fun t => { t with
        launches := t.launches ++ [⟨id, vf, slot, c, gs, 0⟩]
        nextLaunch := id + 1 }) (initBarriers vf gs s1)
      (List.range (slotThreads c)).foldl (createThread vf id c gs) s2

/-- LAUNCH_COMMIT: the host's write makes a slot's COMMIT byte non-zero while it was 0 (R325). -/
def execLaunchCommit (vf slot : Nat) (s : State) : Outcome State Fault Refusal :=
  let a := slotAddr vf slot s + 255
  if slot < 64 ∧ (s.trans.vf? vf).isSome ∧ s.mem.byte a = 0 then
    .next (commitLaunch vf slot (placeAll a [1] s))
  else .next s

/-- LAUNCH_COMPLETION: every record of a launch has reached STATE 6 (R327). -/
def launchComplete (id : Nat) (s : State) : Option State :=
  match s.sch.launches.find? fun l => l.id == id && l.live == 0 with
  | none => none
  | some l =>
    let s1 := setLstat l.vf l.slot 2 s
    let s2 := if slotDoneN l.copy then signalEvent l.vf (slotDoneEv l.copy) 1 s1 else s1
    let s3 := clearCommit l.vf l.slot s2
    some (setSch (fun t => { t with launches := t.launches.filter (·.id != id) }) s3)

def execLaunchCompletion (id : Nat) (s : State) : Outcome State Fault Refusal := .next ((launchComplete id s).getD s)

end Sys2Proof.Machine
end

