-- ==== Sys2Proof/Machine/VectorOps.lean ====
section
/-!
DEFINITION. The vector instructions and the steps of the vector unit (R140-R162).
-/

namespace Sys2Proof.Machine

open Host (Outcome)

/-! ### VR, major 0x1E (R150) -/

def execVaddW (vd vs1 vs2 : VReg) (vm : VMask) (s : State) : Outcome State Fault Refusal :=
  vecPlain (.bin .addW vd vs1 (.reg vs2) vm) s
def execVsubW (vd vs1 vs2 : VReg) (vm : VMask) (s : State) : Outcome State Fault Refusal :=
  vecPlain (.bin .subW vd vs1 (.reg vs2) vm) s
def execVmulW (vd vs1 vs2 : VReg) (vm : VMask) (s : State) : Outcome State Fault Refusal :=
  vecPlain (.bin .mulW vd vs1 (.reg vs2) vm) s
def execVmulhW (vd vs1 vs2 : VReg) (vm : VMask) (s : State) : Outcome State Fault Refusal :=
  vecPlain (.bin .mulhW vd vs1 (.reg vs2) vm) s
def execVminW (vd vs1 vs2 : VReg) (vm : VMask) (s : State) : Outcome State Fault Refusal :=
  vecPlain (.bin .minW vd vs1 (.reg vs2) vm) s
def execVmaxW (vd vs1 vs2 : VReg) (vm : VMask) (s : State) : Outcome State Fault Refusal :=
  vecPlain (.bin .maxW vd vs1 (.reg vs2) vm) s
def execVminuW (vd vs1 vs2 : VReg) (vm : VMask) (s : State) : Outcome State Fault Refusal :=
  vecPlain (.bin .minuW vd vs1 (.reg vs2) vm) s
def execVmaxuW (vd vs1 vs2 : VReg) (vm : VMask) (s : State) : Outcome State Fault Refusal :=
  vecPlain (.bin .maxuW vd vs1 (.reg vs2) vm) s
def execVand (vd vs1 vs2 : VReg) (vm : VMask) (s : State) : Outcome State Fault Refusal :=
  vecPlain (.bin .and vd vs1 (.reg vs2) vm) s
def execVor (vd vs1 vs2 : VReg) (vm : VMask) (s : State) : Outcome State Fault Refusal :=
  vecPlain (.bin .or vd vs1 (.reg vs2) vm) s
def execVxor (vd vs1 vs2 : VReg) (vm : VMask) (s : State) : Outcome State Fault Refusal :=
  vecPlain (.bin .xor vd vs1 (.reg vs2) vm) s
def execVsll (vd vs1 vs2 : VReg) (vm : VMask) (s : State) : Outcome State Fault Refusal :=
  vecPlain (.bin .sll vd vs1 (.reg vs2) vm) s
def execVsrl (vd vs1 vs2 : VReg) (vm : VMask) (s : State) : Outcome State Fault Refusal :=
  vecPlain (.bin .srl vd vs1 (.reg vs2) vm) s
def execVsra (vd vs1 vs2 : VReg) (vm : VMask) (s : State) : Outcome State Fault Refusal :=
  vecPlain (.bin .sra vd vs1 (.reg vs2) vm) s
def execVdot4 (vd vs1 vs2 : VReg) (vm : VMask) (s : State) : Outcome State Fault Refusal :=
  vecPlain (.bin .dot4 vd vs1 (.reg vs2) vm) s
def execVdot4u (vd vs1 vs2 : VReg) (vm : VMask) (s : State) : Outcome State Fault Refusal :=
  vecPlain (.bin .dot4u vd vs1 (.reg vs2) vm) s
def execVfadd (vd vs1 vs2 : VReg) (vm : VMask) (s : State) : Outcome State Fault Refusal :=
  vecPlain (.bin .fadd vd vs1 (.reg vs2) vm) s
def execVfsub (vd vs1 vs2 : VReg) (vm : VMask) (s : State) : Outcome State Fault Refusal :=
  vecPlain (.bin .fsub vd vs1 (.reg vs2) vm) s
def execVfmul (vd vs1 vs2 : VReg) (vm : VMask) (s : State) : Outcome State Fault Refusal :=
  vecPlain (.bin .fmul vd vs1 (.reg vs2) vm) s
def execVfma (vd vs1 vs2 : VReg) (vm : VMask) (s : State) : Outcome State Fault Refusal :=
  vecPlain (.bin .fma vd vs1 (.reg vs2) vm) s
def execVfmin (vd vs1 vs2 : VReg) (vm : VMask) (s : State) : Outcome State Fault Refusal :=
  vecPlain (.bin .fmin vd vs1 (.reg vs2) vm) s
def execVfmax (vd vs1 vs2 : VReg) (vm : VMask) (s : State) : Outcome State Fault Refusal :=
  vecPlain (.bin .fmax vd vs1 (.reg vs2) vm) s
def execVlmulH (vd vs1 vs2 : VReg) (vm : VMask) (s : State) : Outcome State Fault Refusal :=
  vecPlain (.bin .lmulH vd vs1 (.reg vs2) vm) s

def execVfrcp (vd vs1 : VReg) (vm : VMask) (s : State) : Outcome State Fault Refusal := vecPlain (.un .frcp vd vs1 vm) s
def execVfrsq (vd vs1 : VReg) (vm : VMask) (s : State) : Outcome State Fault Refusal := vecPlain (.un .frsq vd vs1 vm) s
def execVexp2 (vd vs1 : VReg) (vm : VMask) (s : State) : Outcome State Fault Refusal := vecPlain (.un .exp2 vd vs1 vm) s
def execVlog2 (vd vs1 : VReg) (vm : VMask) (s : State) : Outcome State Fault Refusal := vecPlain (.un .log2 vd vs1 vm) s
def execVfabs (vd vs1 : VReg) (vm : VMask) (s : State) : Outcome State Fault Refusal := vecPlain (.un .fabs vd vs1 vm) s
def execVfneg (vd vs1 : VReg) (vm : VMask) (s : State) : Outcome State Fault Refusal := vecPlain (.un .fneg vd vs1 vm) s
def execVmov (vd vs1 : VReg) (vm : VMask) (s : State) : Outcome State Fault Refusal := vecPlain (.un .mov vd vs1 vm) s
def execVcvtSW (vd vs1 : VReg) (vm : VMask) (s : State) : Outcome State Fault Refusal := vecPlain (.un .cvtSW vd vs1 vm) s
def execVcvtWS (vd vs1 : VReg) (vm : VMask) (s : State) : Outcome State Fault Refusal := vecPlain (.un .cvtWS vd vs1 vm) s
def execVcvtSH (vd vs1 : VReg) (vm : VMask) (s : State) : Outcome State Fault Refusal := vecPlain (.un .cvtSH vd vs1 vm) s
def execVcvtHS (vd vs1 : VReg) (vm : VMask) (s : State) : Outcome State Fault Refusal := vecPlain (.un .cvtHS vd vs1 vm) s
def execVcvtSBf (vd vs1 : VReg) (vm : VMask) (s : State) : Outcome State Fault Refusal := vecPlain (.un .cvtSBf vd vs1 vm) s
def execVcvtBfS (vd vs1 : VReg) (vm : VMask) (s : State) : Outcome State Fault Refusal := vecPlain (.un .cvtBfS vd vs1 vm) s
def execVlinH (vd vs1 : VReg) (vm : VMask) (s : State) : Outcome State Fault Refusal := vecPlain (.un .linH vd vs1 vm) s
def execVlogH (vd vs1 : VReg) (vm : VMask) (s : State) : Outcome State Fault Refusal := vecPlain (.un .logH vd vs1 vm) s
def execVlinB (vd vs1 : VReg) (vm : VMask) (s : State) : Outcome State Fault Refusal := vecPlain (.un .linB vd vs1 vm) s
def execVlogB (vd vs1 : VReg) (vm : VMask) (s : State) : Outcome State Fault Refusal := vecPlain (.un .logB vd vs1 vm) s

def execVceqW (vmd : VMask) (vs1 vs2 : VReg) (vm : VMask) (s : State) : Outcome State Fault Refusal :=
  vecPlain (.cmp .eqW vmd vs1 vs2 vm) s
def execVcltW (vmd : VMask) (vs1 vs2 : VReg) (vm : VMask) (s : State) : Outcome State Fault Refusal :=
  vecPlain (.cmp .ltW vmd vs1 vs2 vm) s
def execVcltuW (vmd : VMask) (vs1 vs2 : VReg) (vm : VMask) (s : State) : Outcome State Fault Refusal :=
  vecPlain (.cmp .ltuW vmd vs1 vs2 vm) s
def execVfceq (vmd : VMask) (vs1 vs2 : VReg) (vm : VMask) (s : State) : Outcome State Fault Refusal :=
  vecPlain (.cmp .feq vmd vs1 vs2 vm) s
def execVfclt (vmd : VMask) (vs1 vs2 : VReg) (vm : VMask) (s : State) : Outcome State Fault Refusal :=
  vecPlain (.cmp .flt vmd vs1 vs2 vm) s
def execVfcle (vmd : VMask) (vs1 vs2 : VReg) (vm : VMask) (s : State) : Outcome State Fault Refusal :=
  vecPlain (.cmp .fle vmd vs1 vs2 vm) s

def execVsel (vd vs1 vs2 : VReg) (sel : VMask) (s : State) : Outcome State Fault Refusal := vecPlain (.sel vd vs1 vs2 sel) s

def execVperm (vd vs1 vs2 : VReg) (vm : VMask) (s : State) : Outcome State Fault Refusal := vecPlain (.perm vd vs1 vs2 vm) s

/-! ### Reductions (R151, R155) -/

def execVredsumW (vs1 : VReg) (vm : VMask) (s : State) : Outcome State Fault Refusal := finish4 s (vecToQvs (.red .sumW vs1 vm) 0 s)
def execVredsumS (vs1 : VReg) (vm : VMask) (s : State) : Outcome State Fault Refusal := finish4 s (vecToQvs (.red .sumS vs1 vm) 0 s)
def execVredmaxS (vs1 : VReg) (vm : VMask) (s : State) : Outcome State Fault Refusal := finish4 s (vecToQvs (.red .maxS vs1 vm) 0 s)
def execVredminS (vs1 : VReg) (vm : VMask) (s : State) : Outcome State Fault Refusal := finish4 s (vecToQvs (.red .minS vs1 vm) 0 s)
def execVredmaxW (vs1 : VReg) (vm : VMask) (s : State) : Outcome State Fault Refusal := finish4 s (vecToQvs (.red .maxW vs1 vm) 0 s)

/-! ### Short lane forms (R27, R28, R152) -/

def execVaddWShort (vd vs : VReg) (s : State) : Outcome State Fault Refusal := vecShort (.bin .addW vd vd (.reg vs) 0) 0 s
def execVsubWShort (vd vs : VReg) (s : State) : Outcome State Fault Refusal := vecShort (.bin .subW vd vd (.reg vs) 0) 0 s
def execVmulWShort (vd vs : VReg) (s : State) : Outcome State Fault Refusal := vecShort (.bin .mulW vd vd (.reg vs) 0) 0 s
def execVandShort (vd vs : VReg) (s : State) : Outcome State Fault Refusal := vecShort (.bin .and vd vd (.reg vs) 0) 0 s
def execVorShort (vd vs : VReg) (s : State) : Outcome State Fault Refusal := vecShort (.bin .or vd vd (.reg vs) 0) 0 s
def execVxorShort (vd vs : VReg) (s : State) : Outcome State Fault Refusal := vecShort (.bin .xor vd vd (.reg vs) 0) 0 s
def execVminWShort (vd vs : VReg) (s : State) : Outcome State Fault Refusal := vecShort (.bin .minW vd vd (.reg vs) 0) 0 s
def execVmaxWShort (vd vs : VReg) (s : State) : Outcome State Fault Refusal := vecShort (.bin .maxW vd vd (.reg vs) 0) 0 s
def execVfaddShort (vd vs : VReg) (s : State) : Outcome State Fault Refusal := vecShort (.bin .fadd vd vd (.reg vs) 0) 0 s
def execVfsubShort (vd vs : VReg) (s : State) : Outcome State Fault Refusal := vecShort (.bin .fsub vd vd (.reg vs) 0) 0 s
def execVfmulShort (vd vs : VReg) (s : State) : Outcome State Fault Refusal := vecShort (.bin .fmul vd vd (.reg vs) 0) 0 s
def execVfminShort (vd vs : VReg) (s : State) : Outcome State Fault Refusal := vecShort (.bin .fmin vd vd (.reg vs) 0) 0 s
def execVfmaxShort (vd vs : VReg) (s : State) : Outcome State Fault Refusal := vecShort (.bin .fmax vd vd (.reg vs) 0) 0 s
def execVmovShort (vd vs : VReg) (s : State) : Outcome State Fault Refusal := vecShort (.un .mov vd vs 0) 0 s
def execVlmulHShort (vd vs : VReg) (s : State) : Outcome State Fault Refusal := vecShort (.bin .lmulH vd vd (.reg vs) 0) 0 s
def execVsllShort (vd vs : VReg) (s : State) : Outcome State Fault Refusal := vecShort (.bin .sll vd vd (.reg vs) 0) 0 s

def execVaddWBcast (vd : VReg) (o : Fin 8) (s : State) : Outcome State Fault Refusal :=
  vecShort (.bin .addW vd vd .scalar 0) (s.ctx.g.cur.o[o]) s
def execVsubWBcast (vd : VReg) (o : Fin 8) (s : State) : Outcome State Fault Refusal :=
  vecShort (.bin .subW vd vd .scalar 0) (s.ctx.g.cur.o[o]) s
def execVmulWBcast (vd : VReg) (o : Fin 8) (s : State) : Outcome State Fault Refusal :=
  vecShort (.bin .mulW vd vd .scalar 0) (s.ctx.g.cur.o[o]) s
def execVandBcast (vd : VReg) (o : Fin 8) (s : State) : Outcome State Fault Refusal :=
  vecShort (.bin .and vd vd .scalar 0) (s.ctx.g.cur.o[o]) s
def execVorBcast (vd : VReg) (o : Fin 8) (s : State) : Outcome State Fault Refusal :=
  vecShort (.bin .or vd vd .scalar 0) (s.ctx.g.cur.o[o]) s
def execVxorBcast (vd : VReg) (o : Fin 8) (s : State) : Outcome State Fault Refusal :=
  vecShort (.bin .xor vd vd .scalar 0) (s.ctx.g.cur.o[o]) s
def execVminWBcast (vd : VReg) (o : Fin 8) (s : State) : Outcome State Fault Refusal :=
  vecShort (.bin .minW vd vd .scalar 0) (s.ctx.g.cur.o[o]) s
def execVmaxWBcast (vd : VReg) (o : Fin 8) (s : State) : Outcome State Fault Refusal :=
  vecShort (.bin .maxW vd vd .scalar 0) (s.ctx.g.cur.o[o]) s
def execVfaddBcast (vd : VReg) (o : Fin 8) (s : State) : Outcome State Fault Refusal :=
  vecShort (.bin .fadd vd vd .scalar 0) (s.ctx.g.cur.o[o]) s
def execVfsubBcast (vd : VReg) (o : Fin 8) (s : State) : Outcome State Fault Refusal :=
  vecShort (.bin .fsub vd vd .scalar 0) (s.ctx.g.cur.o[o]) s
def execVfmulBcast (vd : VReg) (o : Fin 8) (s : State) : Outcome State Fault Refusal :=
  vecShort (.bin .fmul vd vd .scalar 0) (s.ctx.g.cur.o[o]) s
def execVfminBcast (vd : VReg) (o : Fin 8) (s : State) : Outcome State Fault Refusal :=
  vecShort (.bin .fmin vd vd .scalar 0) (s.ctx.g.cur.o[o]) s
def execVfmaxBcast (vd : VReg) (o : Fin 8) (s : State) : Outcome State Fault Refusal :=
  vecShort (.bin .fmax vd vd .scalar 0) (s.ctx.g.cur.o[o]) s
def execVmovBcast (vd : VReg) (o : Fin 8) (s : State) : Outcome State Fault Refusal :=
  vecShort (.bin .mov vd vd .scalar 0) (s.ctx.g.cur.o[o]) s
def execVlmulHBcast (vd : VReg) (o : Fin 8) (s : State) : Outcome State Fault Refusal :=
  vecShort (.bin .lmulH vd vd .scalar 0) (s.ctx.g.cur.o[o]) s
def execVsllBcast (vd : VReg) (o : Fin 8) (s : State) : Outcome State Fault Refusal :=
  vecShort (.bin .sll vd vd .scalar 0) (s.ctx.g.cur.o[o]) s

/-! ### Vector memory (R156, R157) -/

/-- VLD (R156): lane i at m[rs2] + 4i. -/
def execVld (vd : VReg) (k : Cap) (rs2 : Reg) (vm : VMask) (s : State) : Outcome State Fault Refusal :=
  finish4 s do
    let x ← readReg rs2 s
    vecMem (.load vd vm) k vm (fun i => x.toInt + 4 * (i : Int)) false s

def execVst (vd : VReg) (k : Cap) (rs2 : Reg) (vm : VMask) (s : State) : Outcome State Fault Refusal :=
  finish4 s do
    let x ← readReg rs2 s
    vecMem (.store vd) k vm (fun i => x.toInt + 4 * (i : Int)) true s

/-- VLDS (R156): lane i at i times the stride. -/
def execVlds (vd : VReg) (k : Cap) (rs2 : Reg) (vm : VMask) (s : State) : Outcome State Fault Refusal :=
  finish4 s do
    let x ← readReg rs2 s
    vecMem (.load vd vm) k vm (fun i => (i : Int) * x.toInt) false s

def execVsts (vd : VReg) (k : Cap) (rs2 : Reg) (vm : VMask) (s : State) : Outcome State Fault Refusal :=
  finish4 s do
    let x ← readReg rs2 s
    vecMem (.store vd) k vm (fun i => (i : Int) * x.toInt) true s

/-- VLDG (R156, R157): the indices are the lanes of vd, once every earlier write of vd is done. -/
def execVldg (vd : VReg) (k : Cap) (vm : VMask) (s : State) : Outcome State Fault Refusal :=
  finish4 s (
    if s.ctx.vec.q.any (fun t => t.writes vd) then wait
    else vecMem (.load vd vm) k vm (fun i => 4 * ((s.ctx.vec.lane vd i).toNat : Int)) false s)

def execVstg (vd : VReg) (k : Cap) (vn : VReg) (vm : VMask) (s : State) : Outcome State Fault Refusal :=
  finish4 s (
    if s.ctx.vec.q.any (fun t => t.writes vn) then wait
    else vecMem (.store vd) k vm (fun i => 4 * ((s.ctx.vec.lane vn i).toNat : Int)) true s)

/-! ### Moving values (R153-R155) -/

def execVbcast (vd : VReg) (rs1 : Reg) (vm : VMask) (s : State) : Outcome State Fault Refusal :=
  finish4 s do
    let x ← readReg rs1 s
    vecIssue (.bcast vd vm) x 0 [] [] s

def execVmovs (vd : VReg) (rs2 : Reg) (s : State) : Outcome State Fault Refusal :=
  finish4 s do
    let y ← readReg rs2 s
    vecToQvs (.movs vd) y s

def execVins (vd : VReg) (rs1 rs2 : Reg) (s : State) : Outcome State Fault Refusal :=
  finish4 s do
    let x ← readReg rs1 s
    let y ← readReg rs2 s
    vecIssue (.ins vd) x y [] [] s

def execViota (vd : VReg) (vm : VMask) (s : State) : Outcome State Fault Refusal := vecPlain (.iota vd vm) s

/-- Draw `n` words of the continuation's generator. -/
def drawWords : Nat → State → List W64 × State
  | 0, s => ([], s)
  | n + 1, s =>
    let r := drawWords n (qrnDrop s)
    (qrnPeek s :: r.1, r.2)

/-- VRAND (R154): the generator steps at issue, one draw for each pair of active lanes. -/
def execVrand (vd : VReg) (vm : VMask) (s : State) : Outcome State Fault Refusal :=
  finish4 s (
    if vm.val ≠ 0 ∧ s.ctx.vec.q.any (fun t => t.writesMask vm) then wait
    else
      let v := s.ctx.vec
      let n := ((List.range v.lanes).filter fun i => decide (i < v.width) && v.mbit vm i).length
      let r := drawWords ((n + 1) / 2) s
      vecIssue (.rand vd vm) 0 0 [] r.1 r.2)

/-! ### VCTL, major 0x20 (R144-R149) -/

/-- A follower core that GANG must refuse (R144): in another gang, in a service run, or kept for another VF's pre-empted
continuation. DESIGN CHOICE (log 94): one of a retired cell, which takes no further work (R182), counts as such a core. -/
def gangBusy (core : Nat) (s : State) : Bool :=
  s.fab.retired.contains (cellOf core) || isFollower core s ||
    (match ctxOn core s with
     | some c => decide (c.vec.gang ≠ 1) || c.info.service.isSome
     | none => false) ||
    s.sch.recCore.any fun e => e.2 == core && e.1.vf != s.vfid

/-- Write the followers' continuations back as runnable; each waits for its own queues (R144). -/
def freeFollowers : List Nat → State → Res State
  | [], s => .ok s
  | c :: cs, s => do
    let s1 ← if runsOn c s then asCore c yieldHere s else .ok s
    freeFollowers cs s1

/-- GANG (R144). -/
def execGang (rs1 : Reg) (s0 : State) : Outcome State Fault Refusal :=
  finish4 s0 do
    let s := flushLa s0
    let g ← readReg rs1 s
    let n := g.toNat
    must (decide (n = 2 ∨ n = 4 ∨ n = 8)) cILL s.insn
    must (decide (s.ctx.vec.gang = 1)) cGANG 1
    let r := rankOf s.cur
    let c := selfCoords s
    must (decide (r = 0 ∨ (r = 2 ∧ n = 2)) && decide (n ≠ 8 ∨ c.2.2 % 2 = 0)) cGANG 2
    must (decide (n ≠ 8) || (vfFrame s s.vfid).holds c.1 c.2.1 (c.2.2 + 1)) cGANG 3
    let fs := (List.range (n - 1)).map fun i => s.cur + 1 + i
    must (!fs.any fun f => gangBusy f s) cGANG 4
    if !s.ctx.vec.q.isEmpty then wait
    else
      let s1 ← freeFollowers fs s
      let grow := fun (v : VecRegs) => { v with
        gang := n, width := 16 * n
        v := v.v.map fun r => Vector.ofFn fun i => if i.val < 16 then r[i] else 0
        vm := v.vm.map fun m => (m.setWidth 16).setWidth 128 }
      .ok (setVec grow (popAll [rs1] s1))

/-- UNGANG (R146). Without a gang it has no effect, but takes its place in the queue as any VCTL instruction does (R141, log 88); with one
it waits until the queue is empty. -/
def execUngang (s0 : State) : Outcome State Fault Refusal :=
  finish4 s0 (
    let s := flushLa s0
    if s.ctx.vec.gang = 1 then vecIssue .ungang 0 0 [] [] s
    else if !s.ctx.vec.q.isEmpty then wait
    else .ok (breakGang s))

/-- VFENCE (R160). -/
def execVfence (s : State) : Outcome State Fault Refusal :=
  finish4 s (if s.ctx.vec.q.isEmpty then .ok (coverOwn s) else wait)

/-- VSETW (R148): it takes its place in the queue (R141), and the width it sets stands for every instruction that issues after it. -/
def execVsetw (rs1 : Reg) (s : State) : Outcome State Fault Refusal :=
  finish4 s do
    let x ← readReg rs1 s
    let t ← vecIssue .setw x 0 [] [] s
    .ok (setVec (fun v => { v with width := Nat.min x.toNat v.lanes }) (popAll [rs1] t))

def execVmand (vmd vms1 vms2 : VMask) (s : State) : Outcome State Fault Refusal := vecPlain (.mand vmd vms1 vms2) s
def execVmor (vmd vms1 vms2 : VMask) (s : State) : Outcome State Fault Refusal := vecPlain (.mor vmd vms1 vms2) s
def execVmnot (vmd vms1 : VMask) (s : State) : Outcome State Fault Refusal := vecPlain (.mnot vmd vms1) s

/-- VMPOPC (R149): it enters the queue once and the core waits for its count; with the count there, rd takes it. -/
def execVmpopc (rd : Reg) (vms1 : VMask) (s : State) : Outcome State Fault Refusal :=
  match s.ctx.vec.popc with
  | some (some n) => finish4 s (putPlain rd n [] (setVec (fun v => { v with popc := none }) s))
  | some none => finish4 s wait
  | none => finish s ((vecIssue (.popc vms1) 0 0 [] [] s).map (setVec fun v => { v with popc := some none }))

/-! ### The unit (R88, R142, R143) -/

/-- Lane groups of a cell that started instructions hold. -/
def groupsHeld (cell : Nat) (s : State) : Nat :=
  let held := fun (p : Nat × Ctx) =>
    if p.1 / 4 = cell ∨ (p.2.vec.gang = 8 ∧ p.1 / 4 + 1 = cell) then
      (p.2.vec.q.filter (·.started)).length * Nat.min p.2.vec.gang 4 else 0
  ((if s.live then held (s.cur, s.ctx) else 0) + (s.parked.map held).sum)

/-- The first instruction of a queue that has not started. -/
def VecRegs.next? (v : VecRegs) : Option VTask := v.q.find? fun t => !t.started

/-- No scalar access of a core's thread that came before a memory instruction is left: no store, no AMO, no leading load whose value
is still open (R160 item 2, R226). -/
def scalarsBefore (core : Nat) (c : Ctx) (t : VTask) (s : State) : Bool :=
  !(s.mem.stores.any fun e => e.core == core && e.held.isNone && decide (e.id < t.stamp)) &&
    !(c.amo.any fun m => decide (m.id < t.stamp)) &&
    !(c.la.any fun e => !e.done && e.read.any fun r => decide (r.stamp ≤ t.stamp))

/-- A rank's next instruction can issue: a memory instruction follows the thread's earlier scalar accesses (R143, R160). -/
def rankReady (core : Nat) (s : State) : Bool :=
  match ctxOn core s with
  | none => false
  | some c =>
    match (if c.halted then none else c.vec.next?) with
    | none => false
    | some t =>
      match t.op with
      | .load _ _ => scalarsBefore core c t s
      | .store _ => scalarsBefore core c t s
      | _ => true

/-- The weight of a rank (R143). -/
def rankWeight (core : Nat) (s : State) : Nat :=
  let w := fld (vshareOf (cellOf core) s).toNat (8 * rankOf core) 8
  if w = 0 then 1 else w

/-- Start the first waiting instruction of a queue. -/
def startFirst : List VTask → List VTask
  | [] => []
  | t :: ts => if t.started then t :: startFirst ts else { t with started := true } :: ts

/-- The lane groups that a core's next instruction needs are free (R142). -/
def groupsFree (core : Nat) (s : State) : Bool :=
  let cell := cellOf core
  match ctxOn core s with
  | some c =>
    let need := Nat.min c.vec.gang 4
    decide (groupsHeld cell s + need ≤ 4) && (decide (c.vec.gang ≠ 8) || decide (groupsHeld (cell + 1) s + need ≤ 4))
  | none => false

/-- A core's next instruction starts. -/
def startOn (core : Nat) (s : State) : State :=
  swapTo s.cur (setVec (fun v => { v with q := startFirst v.q }) (swapTo core s))

/-- The leader that has won a cell's grant and not yet issued (R143). -/
def waitingWinner (cell : Nat) (s : State) : Option Nat := (s.fab.winners.find? fun e => e.1 == cell).map (·.2)

/-- Record or forget a cell's winner. -/
def setWinner (cell : Nat) (w : Option Nat) (s : State) : State :=
  setFab (fun f => { f with
    winners := (w.map fun c => (cell, c)).toList ++ f.winners.filter fun e => e.1 != cell }) s

/-- VECTOR_GRANT (R143): with a lane group free, smooth weighted round robin over the ready ranks of a cell; the winner starts its
next instruction, or, a leader with fewer groups free than it needs, keeps the grant until it can. -/
def execVectorGrant (cell : Nat) (s : State) : Outcome State Fault Refusal :=
  match waitingWinner cell s with
  | some w => .next (if rankReady w s && groupsFree w s then startOn w (setWinner cell none s) else s)
  | none =>
    let cores := (List.range 4).map fun r => cell * 4 + r
    let ready := cores.filter fun c => rankReady c s
    let total := (ready.map fun c => (rankWeight c s : Int)).sum
    let added := fun c => creditOf c s + (rankWeight c s : Int)
    let best := ready.foldl (fun (b : Option Nat) c => match b with
      | none => some c
      | some d => if added d < added c then some c else some d) none
    match best with
    | none => .next s
    | some w =>
      if 4 ≤ groupsHeld cell s then .next s
      else
        let s1 := ready.foldl (fun s c => setCredit c (added c - if c = w then total else 0) s) s
        .next (if groupsFree w s then startOn w (setWinner cell none s1) else setWinner cell (some w) s1)

/-- VECTOR_COMPLETE (R88, R142, R159): the acting core's oldest started instruction takes effect; an empty queue loses its
credit. DESIGN CHOICE (log 88): a started instruction keeps its queue entry until it completes. -/
def execVectorComplete (s : State) : Outcome State Fault Refusal :=
  match s.ctx.vec.q with
  | t :: rest =>
    if t.started then
      let s1 := vecRun t s
      let s2 := setVec (fun v => { v with q := rest }) s1
      .next (if rest.isEmpty then setCredit s.cur 0 s2 else s2)
    else .next s
  | [] => .next s

end Sys2Proof.Machine
end

