-- ==== Sys2Proof/Machine/Slices.lean ====
section
/-!
DEFINITION. Choosing records and slices: dispatch, slice ends, the synchronised stop, and restoring (R295, R322, R323,
R337-R343, R366).
-/

namespace Sys2Proof.Machine

open Host (Outcome)

/-! ### Choosing the record (R338, R341) -/

/-- The core a record's HOME names in its VF's frame. -/
def recHomeCore (vf r : Nat) (s : State) : Option Nat :=
  let h := recHome r
  let f := vfFrame s vf
  if h ≠ 2 ^ 37 - 1 ∧ f.holds (fld h 34 3) (fld h 30 4) (fld h 26 4) then
    some (f.cell (fld h 34 3) (fld h 30 4) (fld h 26 4) * 4 + fld h 24 2)
  else none

/-- The conditions of R341 for a free core; a pinned record that has no HOME yet takes any, and one that cannot be read is left
to the dispatcher. -/
def mayRunOn (core : Nat) (k : Key) (s : State) : Bool :=
  match recRead k s with
  | none => true
  | some r =>
    let pinned := decide (recHome r ≠ 2 ^ 37 - 1) && (bitAt (recFlags r) 2 || s.sch.fresh.contains k)
    let claimed := bitAt (recFlags r) 3
    (!pinned || recHomeCore k.vf r s == some core) && !(claimed && s.engines.any fun e => e.cell == cellOf core)

def queueEntry (vf q : Nat) (s : State) : BitVec 16 :=
  ((s.trans.vf? vf).bind fun f => f.queues.toList[q]?).getD 0

def queueOn (vf q : Nat) (s : State) : Bool := (queueEntry vf q s).getLsbD 8
def queuePri (vf q : Nat) (s : State) : Nat := fld (queueEntry vf q s).toNat 0 4
def queueWeight (vf q : Nat) (s : State) : Int := (fld (queueEntry vf q s).toNat 4 4 : Int) + 1
def queueCreditOf (vf q : Nat) (s : State) : Int := ((s.trans.vf? vf).bind fun f => f.queueCredit.toList[q]?).getD 0

/-- The runnable records a free core may take, oldest first. -/
def candidates (core vf : Nat) (s : State) : List RqEnt :=
  s.sch.runq.filter fun e => e.vf == vf && queueOn vf e.queue s && mayRunOn core ⟨e.vf, e.rva⟩ s

/-- Smooth weighted round robin over queues (R143, R338): the queue with the highest credit after adding weights, the
lowest-numbered of equals, and the credits afterwards. -/
def chooseQueue (vf : Nat) (qs : List Nat) (s : State) : Option (Nat × State) :=
  let added := fun q => queueCreditOf vf q s + queueWeight vf q s
  let total := (qs.map fun q => queueWeight vf q s).sum
  let best := qs.foldl (fun (b : Option Nat) q => match b with
    | none => some q
    | some d => if added d < added q then some q else some d) none
  best.map fun w =>
    let credit := fun (f : Vf) (i : Fin 16) =>
      if qs.contains i.val then (added i.val - (if i.val = w then total else 0)) else f.queueCredit[i]
    (w, setVf s vf fun f => { f with queueCredit := Vector.ofFn (credit f) })

/-- The record a free core takes (R338). -/
def chooseRecord (core vf : Nat) (s : State) : Option (RqEnt × State) :=
  let c := candidates core vf s
  match c.find? (·.carried) with
  | some e => some (e, s)
  | none =>
    let p := (c.map fun e => queuePri vf e.queue s).foldl Nat.max 0
    let qs := (List.range 16).filter fun q => decide (queuePri vf q s = p) && c.any fun e => e.queue == q
    match chooseQueue vf qs s with
    | none => none
    | some (q, s1) => (c.find? fun e => e.queue == q).map fun e => (e, s1)

/-! ### Taking a record (R322, R323, R341) -/

/-- The coordinate bits of a core in a VF's frame. -/
def homeBits (vf core : Nat) (s : State) : Nat :=
  let c := (vfFrame s vf).coords (cellOf core)
  coordBits c.1 c.2.1 c.2.2 (rankOf core) * 2 ^ 24

/-- A record the dispatcher refuses (R323). -/
def dispatchRefused (k : Key) (r : Nat) (s : State) : Bool :=
  decide (8 ≤ recState r) || !recReservedOk r || decide (64 < recSpill r) || !areasOk k.vf r s

/-- The context a record gives: what its SAVEPTR names (R320, R323), under the values the record holds; that of an area nothing was
saved in is free (log 6). A transfer to a target with bit 63 set still
raises COORD at its fetch (R401), unless the record's pc was changed. -/
def restored (k : Key) (r : Nat) (first : Bool) (home : Nat) (s : State) : Ctx :=
  let c := (imageAt k.vf (w64 (recSave r)) s).getD (Ctx.found s.freeNo (recHome r))
  let fl := recFlags r
  let h : BitVec 37 := if first then BitVec.ofNat 37 home else c.sys.home
  let g := if first then
      { c.g with m := c.g.m.set 2 (c.g.m[2] ||| w64 home) }
    else c.g
  { c with
    g := g
    pc := BitVec.ofNat 72 (fld r 0 72)
    pcBad := c.pcBad && c.pc == BitVec.ofNat 72 (fld r 0 72)
    st := { c.st with vkeep := bitAt fl 0, uien := bitAt fl 1, pin := bitAt fl 2, mclaimed := bitAt fl 3 }
    sys := { c.sys with
      gthread := BitVec.ofNat 24 (fld r 128 24)
      grpmap := BitVec.ofNat 33 (fld r 96 32 + fld r 368 1 * 2 ^ 32)
      vfid := k.vf
      home := h
      spillsz := if first then BitVec.ofNat 17 (recSpill r * 1024) else c.sys.spillsz
      tdmask := BitVec.ofNat 13 (fld r 168 13)
      meter := w64 (fld r 192 64)
      mlimit := w64 (fld r 256 64) }
    info := { ((imageOf k s).getD Ctx.blank).info with key := some k, saveptr := w64 (recSave r), ctrptr := w64 (recCtr r), prio := recPrio r } }

/-- Put a context on the acting core, its engine into the cell's (R295). -/
def placeCtx (c : Ctx) (s : State) : State :=
  let s1 := { s with live := true, ctx := { c with engine := none } }
  if c.st.mclaimed then
    { s1 with engines := (s1.engines.filter fun e => e.cell != cellOf s.cur) ++
      [⟨cellOf s.cur, c.claimKey, s.cur, c.engine.getD MxState.claimed⟩] }
  else s1

/-- A queue with no record of the VF left loses its credit (R143, R338). -/
def dropQueueCredit (vf q : Nat) (s : State) : State :=
  if s.sch.runq.any fun e => e.vf == vf && e.queue == q then s
  else setVf s vf fun f => { f with queueCredit := f.queueCredit.set! q 0 }

/-- Take a chosen record off its queue and run it on the acting core, refuse it, or lose it (R323, R341, R403). A
resumption acquires at package scope (R228). -/
def takeRecord (e : RqEnt) (s0 : State) : State :=
  let k : Key := ⟨e.vf, e.rva⟩
  let s := recSeen k (dropQueueCredit e.vf e.queue (setSch (fun t => { t with runq := t.runq.erase e }) s0))
  let launch := ((imageOf k s).map (·.info.launch)).getD 0
  match recRead k s with
  | none => loseRecord k launch s
  | some r =>
    let u := areasWalked k.vf r s
    let write (r : Nat) (f : State → State) : State :=
      match recWrite k r u with
      | none => loseRecord k launch u
      | some t => f t
    if dispatchRefused k r s then
      write (setFld (setFld r 72 4 6) 360 8 0x41) fun t => dropImage k (orphan k (countExit launch t))
    else
      let first := s.sch.fresh.contains k
      let home := homeBits k.vf s.cur s
      let r1 := setFld r 72 4 2
      write (if first then setFld r1 320 37 home else r1) fun t =>
        let t1 := { placeCtx (restored k r first home s) t with freeNo := t.freeNo + 1 }
        refillQnt k (acquire .pkg (setSch (fun x => { x with fresh := x.fresh.filter (· != k) }) t1))

/-- A VF is placed on a node (R17). -/
def hosts (node vf : Nat) (s : State) : Bool := (s.trans.vf? vf).any fun f => f.node == node

/-- The VF whose slice runs on the node that holds a core, and that is placed there. -/
def sliceVf (core : Nat) (s : State) : Option Nat :=
  s.sch.nodes.findSome? fun n =>
    if (nodeFrame n.num).hasCell (cellOf core) then
      match n.phase with
      | .slice v _ => if hosts n.num v s then some v else none
      | _ => none
    else none

/-- The hive die has read the queued records of a VF (R180). -/
def seenRecords (vf : Nat) (s : State) : State :=
  (s.sch.runq.filter fun e => e.vf == vf).foldl (fun t e => hwNoted e.vf e.rva 64 t) s

/-- DISPATCH: the acting core, free, takes a record of its node's VF. -/
def execDispatch (s : State) : Outcome State Fault Refusal :=
  if s.live || isFollower s.cur s || s.fab.retired.contains (cellOf s.cur) || dieLost s (dieOf s.cur) then .next s
  else match sliceVf s.cur s with
    | none => .next s
    | some vf =>
      match chooseRecord s.cur vf s with
      | none => .next (seenRecords vf s)
      | some (e, s1) => .next (takeRecord e (seenRecords vf s1))

/-! ### Slices (R337) -/

/-- A VF has a record in STATE 1, 2, 3 or 7; a service run is none. -/
def vfActive (vf : Nat) (s : State) : Bool :=
  ((runningCtxs s).any fun p => p.2.sys.vfid == vf && p.2.info.service.isNone) ||
    (s.sch.runq.any fun e => e.vf == vf) || (s.sch.events.any fun e => e.vf == vf && !e.waiters.isEmpty) ||
    s.sch.recCore.any fun e => e.1.vf == vf

/-- A VF has such a record, or a service run. DESIGN CHOICE (log 103): R17 names continuations only, and a service run, which is none (R353),
keeps its VF's node from being idle all the same. -/
def vfPresent (vf : Nat) (s : State) : Bool :=
  vfActive vf s || (runningCtxs s).any fun p => p.2.sys.vfid == vf

/-- The next valid entry after the current one whose VF is placed on the node and has something to run: its index, VF and length. -/
def nextEntry (n : Node) (s : State) : Option (Nat × Nat × Nat) :=
  let l := n.slices.length
  ((List.range l).map fun i => (n.pos + 1 + i) % l).findSome? fun i =>
    match n.slices[i]? with
    | some (vf, len, valid) => if valid && hosts n.num vf s && vfActive vf s then some (i, vf, len) else none
    | none => none

def nodeAt (num : Nat) (s : State) : Option Node := s.sch.nodes.find? fun n => n.num == num

def setNode (num : Nat) (f : Node → Node) (s : State) : State :=
  setSch (fun t => { t with nodes := t.nodes.map fun n => if n.num == num then f n else n }) s

/-- The slice ends with a stop: the next entry names another VF, or none. -/
def stopsAtEnd (n : Node) (vf : Nat) (s : State) : Bool :=
  match nextEntry n s with
  | some (_, v, _) => v != vf
  | none => true

/-- The running continuations of a VF. -/
def runningKeys (vf : Nat) (s : State) : List Key :=
  let run := (if s.live then [s.ctx] else []) ++ s.parked.map (·.2)
  ((run.filter fun c => c.sys.vfid == vf).filterMap (·.noticeKey)).eraseDups

/-- SLICE_ENDING: notice 0x04, 5 µs before a slice end at which the VF is stopped (R262, R337). -/
def execSliceEnding (node : Nat) (s : State) : Outcome State Fault Refusal :=
  match nodeAt node s with
  | none => .next s
  | some n =>
    match n.phase with
    | .slice vf e =>
      if !n.noticed && decide (e ≤ s.now + 6250) && stopsAtEnd n vf s then
        .next (setNode node (fun n => { n with noticed := true }) (postAll (runningKeys vf s) 0x04 (e % 2 ^ 56) s))
      else .next s
    | _ => .next s

/-- Broadcast a synchronised stop of a node: T_stop is 100 cycles ahead (R342). -/
def stopNode (node : Nat) (s : State) : State :=
  setNode node (fun n => match n.phase with
    | .slice vf _ => { n with phase := .stopping vf (s.now + 100) }
    | _ => n) s

/-- SLICE_END: the VF continues into its own next entry, or, its notice posted, a stop is broadcast so that it falls at the end
(R337). -/
def execSliceEnd (node : Nat) (s : State) : Outcome State Fault Refusal :=
  match nodeAt node s with
  | none => .next s
  | some n =>
    match n.phase with
    | .slice vf e =>
      match nextEntry n s with
      | some (i, v, len) =>
        if v = vf then
          (if e ≤ s.now then
            .next (setNode node (fun n => { n with pos := i, phase := .slice vf (e + len * 12500), noticed := false }) s)
          else .next s)
        else if n.noticed ∧ e ≤ s.now + 100 then .next (stopNode node s) else .next s
      | none => if n.noticed ∧ e ≤ s.now + 100 then .next (stopNode node s) else .next s
    | _ => .next s

/-! ### The synchronised stop (R342, R343, R366) -/

/-- The stop of the acting core's VF has reached T_stop. -/
def stopDue (s : State) : Bool :=
  s.sch.nodes.any fun n => (nodeFrame n.num).hasCell (cellOf s.cur) &&
    (match n.phase with
     | .stopping vf t => vf == s.vfid && decide (t ≤ s.now)
     | _ => false)

/-- A service run ends at a stop; its faulter goes from STATE 4 to STATE 1 (R366). -/
def stopService (k : Key) (s : State) : State :=
  let t := recSeen k (leaveRank s.cur (endService s))
  match recRead k t with
  | some r => if recState r = 4 then makeRunnable k t else t
  | none => if (imageOf k t).isSome then makeRunnable k t else t

/-- A running continuation halts at a boundary: results owed are written, a waiting WFI completes, a pending AMO is performed
(R36, R136, R220, R366). -/
def haltCtx (s : State) : State :=
  let s1 := { s with ctx := s.ctx.writeLa }
  let s2 := if s1.ctx.wfi then retire 4 s1 else s1
  let s3 := match s2.ctx.amo with
    | some m => (amoPerform m { s2 with ctx := { s2.ctx with amo := none } }).2
    | none => s2
  { s3 with ctx := { s3.ctx with halted := true, waitQ := false } }

/-- CORE_HALT: at its first boundary at or after T_stop, once the vector instructions that have started have completed
(R161). -/
def execCoreHalt (s : State) : Outcome State Fault Refusal :=
  if s.live && !s.ctx.halted && stopDue s && !(s.ctx.vec.q.any (·.started)) then
    match s.ctx.info.service with
    | some k => if s.ctx.qs.sent.isSome then .next s else .next (stopService k s)
    | none => .next (haltCtx s)
  else .next s

/-- The cores of a node. -/
def nodeCores (num : Nat) : List Nat := (nodeFrame num).cells.flatMap fun c => (List.range 4).map fun r => c * 4 + r

/-- A queued store that no router holds: its die sees it already, or it goes to its own cell. -/
def StoreEnt.past (e : StoreEnt) : Bool :=
  e.shown.isSome || (!isGlobal e.addr && cellOf (scratchCore e.addr) == cellOf e.core)

/-- The flush of a VF on a node has ended: its cores have halted, no chunk, injected row or whole qsa record is under way, and a
store still under way stands in a router (R253, R295, R306, R343). A qsa record behind vector instructions that have not started is
not accepted before them (R315): it is saved with its continuation, and goes on after the resumption (R316). -/
def flushed (node vf : Nat) (s : State) : Bool :=
  let f := nodeFrame node
  (runningCtxs s).all (fun p => !(p.2.sys.vfid == vf && f.hasCell (cellOf p.1)) || (p.2.halted && (p.2.qs.sent.isNone || !p.2.vec.q.isEmpty))) &&
    !(s.cp.cmds.any fun c => c.owner.vf == vf && c.moving.isSome) &&
    !(s.mem.stores.any fun e => e.held.isNone && f.hasCell (cellOf e.core) && e.past) &&
    s.engines.all fun e => !(e.owner.vf == vf) || e.mx.rows.isEmpty

/-- The stores that stand in the routers of a node move into the save buffers of its stopped VF (R343). -/
def captureStores (node vf : Nat) (s : State) : State :=
  let put := fun (e : StoreEnt) =>
    if e.held.isNone && (nodeFrame node).hasCell (cellOf e.core) then { e with held := some vf } else e
  setMem (fun m => { m with stores := m.stores.map put }) s

/-- The save buffers of a VF are re-injected (R343). -/
def releaseStores (node vf : Nat) (s : State) : State :=
  let put := fun (e : StoreEnt) =>
    if e.held == some vf && (nodeFrame node).hasCell (cellOf e.core) then { e with held := none } else e
  setMem (fun m => { m with stores := m.stores.map put }) s

/-- Save the acting core's continuation as pre-empted (R322, R366). -/
def preempt (s : State) : State :=
  match s.ctx.info.key with
  | none => freeCore s
  | some k =>
    let core := s.cur
    let s1 := packEngine (leaveRank core s)
    let c := { s1.ctx with halted := false }
    let s2 := recSeen k (freeCore (writeBack k c 7 c.tr.last.toNat s1))
    match recRead k s2 with
    | some r => if recState r = 7 then setSch (fun t => { t with recCore := t.recCore ++ [(k, core)] }) s2 else s2
    | none => s2

/-- Act on every core of a list that runs a VF. -/
def onCores (vf : Nat) (f : State → State) (cores : List Nat) (s : State) : State :=
  cores.foldl (fun s c => match ctxOn c s with
    | some x => if x.sys.vfid = vf then swapTo s.cur (f (swapTo c s)) else s
    | none => s) s

/-- FLUSH_COMPLETE: the save of a stopped VF; its records that were runnable at the end of the slice are carried into its next one
(R338, R342, R343). -/
def execFlushComplete (node : Nat) (s : State) : Outcome State Fault Refusal :=
  match nodeAt node s with
  | none => .next s
  | some n =>
    match n.phase with
    | .stopping vf t =>
      if decide (t ≤ s.now) && flushed node vf s then
        let run := ((if s.live then [s.cur] else []) ++ s.parked.map Prod.fst).filter fun c =>
          (nodeFrame node).hasCell (cellOf c)
        let s1 := captureStores node vf (onCores vf preempt run s)
        let carry := fun (e : RqEnt) => if e.vf == vf && decide (e.since ≤ t) then { e with carried := true } else e
        let s2 := setSch (fun q => { q with runq := q.runq.map carry }) s1
        .next (setNode node (fun n => { n with phase := .stopped, noticed := false }) s2)
      else .next s
    | _ => .next s

/-! ### Restoring (R322, R337) -/

/-- The stores that a stop left under way for a continuation take their places, before it resumes on another core (R220). -/
def landStores (k : Key) (s : State) : State :=
  (s.mem.stores.filter fun e => e.owner == k).foldl (fun t e => storeWrite e t) s

/-- Send a pre-empted record to its queue with PIN cleared and its gang ended: a cell of it was retired or its die lost
(R12, R146). -/
def unpin (k : Key) (s0 : State) : State :=
  let s := recSeen k (landStores k s0)
  let launch := ((imageOf k s).map (·.info.launch)).getD 0
  match recRead k s with
  | none => loseRecord k launch s
  | some r =>
    match recWrite k (setFld (setFld r 72 4 1) 164 1 0) s with
    | none => loseRecord k launch s
    | some t => enqueue k (recPrio r) (onKey k (fun c =>
      { c with st := { c.st with pin := false }, vec := if c.vec.gang = 1 then c.vec else c.vec.ungang }) t)

/-- Restore one pre-empted record on its core. -/
def restoreOne (k : Key) (core : Nat) (s0 : State) : State :=
  let s := recSeen k s0
  let cells := match imageOf k s with
    | some c => c.memberCells core
    | none => [cellOf core]
  if dieLost s (dieOf core) || cells.any fun c => s.fab.retired.contains c then unpin k s
  else
    let launch := ((imageOf k s).map (·.info.launch)).getD 0
    match recRead k s, imageOf k s with
    | some r, some c =>
      match recWrite k (setFld r 72 4 2) s with
      | none => loseRecord k launch s
      | some t => swapTo s.cur (refillQnt k (placeCtx c (swapTo core t)))
    | _, _ => loseRecord k launch s

/-- SLICE_START, once no cell of the node waits to be retired and no emergency save runs (R182, R384): of the next entry's VF the
save buffers are re-injected and the pre-empted records restored on their cores, then its slice is counted (R337, R343). -/
def execSliceStart (node : Nat) (s : State) : Outcome State Fault Refusal :=
  match nodeAt node s with
  | none => .next s
  | some n =>
    let idle := match n.phase with
      | .idle => true
      | .stopped => true
      | _ => false
    if !idle || s.pow.off || s.pf.save || s.fab.retiring.any (nodeFrame node).hasCell then .next s
    else match nextEntry n s with
      | none => .next (setNode node (fun n => { n with phase := .idle }) s)
      | some (i, vf, len) =>
        let mine := s.sch.recCore.filter fun e => e.1.vf == vf
        let s1 := setSch (fun t => { t with recCore := t.recCore.filter fun e => e.1.vf != vf }) s
        let s2 := mine.foldl (fun s e => restoreOne e.1 e.2 s) (releaseStores node vf s1)
        .next (setNode node (fun n => { n with
          pos := i, phase := .slice vf (s.now + len * 12500), noticed := false }) s2)

end Sys2Proof.Machine
end

