-- ==== Sys2Proof/Machine/Dies.lean ====
section
/-!
DEFINITION. Dies as fault and reset domains: the declaration of a loss and its consequences, the reset of a die and of the
package (R230, R359-R364).
-/

namespace Sys2Proof.Machine

open Host (Outcome)

/-! ### What a declaration does to a context (R361, R364) -/

/-- Acknowledgements owed by lost dies are settled; one ACKLOSS covers them: the oldest store's address, the dies (R364). That of a
release or an AMO at package or system scope, and one lost while a supervisor trap is open, is entered at a boundary; else it
comes before the first instruction that waits for it. -/
def Ctx.loseAcks (new : BitVec 13) (c : Ctx) : Ctx :=
  let gone := c.acks.filter fun a => a.dies &&& new != 0
  match gone with
  | [] => c
  | a :: _ =>
    let dies := gone.foldl (fun d a => d ||| (a.dies &&& new)) 0
    let pend := match c.tr.pendAck with
      | some (p, d) => (if c.tr.pendAckId ≤ a.id then p else a.ea, d ||| dies)
      | none => (a.ea, dies)
    let id := if c.tr.pendAck.isSome then Nat.min c.tr.pendAckId a.id else a.id
    { c with
      acks := c.acks.filter fun a => a.dies &&& new == 0
      tr := { c.tr with
        pendAck := some pend
        pendAckId := id
        ackDue := c.tr.ackDue || gone.any (fun a => a.rel || a.due) || c.tr.openSup.isSome } }

/-- The dies of DIELOSS accumulate until it is taken (R356, R361). -/
def Ctx.loseDies (new : BitVec 13) (c : Ctx) : Ctx :=
  let hit := c.sys.tdmask &&& new
  Ctx.loseAcks new { c with tr := { c.tr with pendDie := c.tr.pendDie ||| hit } }

/-! ### What it does to memory (R230) -/

/-- The comb die of a slice or instruction cache line is lost. -/
def cellLost (new : BitVec 13) (cell : Nat) : Bool := new.getLsbD (cell / 256)

/-- A slice's line holds the newest value: its die has read every write to the line that it may not see yet (R224, log 10); a copy from
before a write goes when another agent of the die reads the write, when the die is drained, or when the write's allowance ends. -/
def holdsNewest (l : CLine) (s : State) : Bool :=
  s.mem.msgs.all fun w => (w.cells.all fun c => c.addr / 64 != l.pa / 64) || w.freshOn (l.unit / 256) (l.pa / 64)

/-- Lines whose newest value only a lost die held are poisoned. -/
def orphanLines (new : BitVec 13) (s : State) : List Nat :=
  let lost := s.fab.slices.filter fun l => cellLost new l.unit && l.dirty
  (lost.filter fun l =>
    !(s.fab.slices.any fun x => x.pa == l.pa && !cellLost new x.unit && holdsNewest x s)).map (·.pa)

/-- Every ordered write stands for every survivor; writes that had no place are lost with their core. -/
def loseMemory (new : BitVec 13) (s : State) : State :=
  let ls := orphanLines new s
  let m1 := ls.foldl (fun (m : Memory) l => m.setPoison l) s.mem
  { s with
    mem := { m1 with msgs := [], stores := m1.stores.filter fun e => !cellLost new (cellOf e.core) }
    fab := { s.fab with
      slices := s.fab.slices.filter fun l => !cellLost new l.unit
      icache := s.fab.icache.filter fun l => !cellLost new (cellOf l.unit) }
    trans := { s.trans with
      tcache := s.trans.tcache.filter fun e => !new.getLsbD e.die
      wcache := s.trans.wcache.filter fun e => !new.getLsbD e.die
      misses := s.trans.misses.filter fun e => !new.getLsbD e.die } }

/-! ### What it does to commands and continuations (R362) -/

/-- A command in flight ends with status 4 when a home of it is lost, as its pages lie now, or its engine. -/
def loseCmd (new : BitVec 13) (s : State) (c : CopyCmd) : State :=
  let waits := c.place == .fifo || c.place == .hold
  if (cmdLost c 0 (cmdLen c.w2) s || cellLost new (cellOf c.core)) && c.place != .done && decide (c.status < 2) &&
      (waits || decide (c.chunk < c.chunks)) then endCmd c.id 4 s else s

/-- The continuation on a core of a lost die is lost: its record is written with STATE 6 and CAUSE 0x0F. -/
def loseCore (core : Nat) (s : State) : State :=
  let t := swapTo core s
  let t := { t with engines := t.engines.filter fun e => e.core != core }
  let t := match t.ctx.info.key with
    | none => if t.live then freeCore (orphan t.ctx.ownerKey t) else t
    | some k =>
      let launch := t.ctx.info.launch
      let u := recSeen k (freeCore t)
      match recRead k u with
      | none => loseRecord k launch u
      | some r =>
        match recWrite k (setFld (setFld r 72 4 6) 360 8 cDIELOSS) u with
        | none => loseRecord k launch u
        | some v => dropImage k (orphan k (countExit launch v))
  swapTo s.cur t

/-- The declaration that some dies are lost, package-wide at one cycle (R360-R362). The hive die is never declared lost. -/
def declareLoss (mask : BitVec 13) (s : State) : State :=
  let new := mask &&& ~~~s.fab.lost &&& 0xFFF
  if new = 0 then s
  else
    let s1 := setFab (fun f => { f with lost := f.lost ||| new }) (loseMemory new s)
    let s2 := s1.cp.cmds.foldl (loseCmd new) s1
    let run := (if s2.live then [s2.cur] else []) ++ s2.parked.map Prod.fst
    let s3 := (run.filter fun c => cellLost new (cellOf c)).foldl (fun s c => loseCore c s) s2
    let s4 := { s3 with
      ctx := if s3.live then s3.ctx.loseDies new else s3.ctx
      parked := s3.parked.map fun p => (p.1, p.2.loseDies new) }
    let s5 := setSch (fun t => { t with images := t.images.map fun i => { i with ctx := i.ctx.loseDies new } }) s4
    let gone := s5.sch.recCore.filter fun e => cellLost new (cellOf e.2)
    let s6 := setSch (fun t => { t with recCore := t.recCore.filter fun e => !cellLost new (cellOf e.2) }) s5
    gone.foldl (fun s e => unpin e.1 s) s6

/-- ACK_TIMEOUT: an acknowledgement owed to the acting core is 20 µs late; the dies that owe it are declared lost
(R360, R364). -/
def execAckTimeout (i : Nat) (s : State) : Outcome State Fault Refusal :=
  match s.ctx.acks[i]? with
  | none => .next s
  | some a => if a.issued + 25000 ≤ s.now then .next (declareLoss a.dies s) else .next s

/-- A comb or store die is declared lost: its hive port fails, it reports an uncorrectable internal error, or the power controller
turns it off (R360). -/
def declareDie (die : Nat) (s : State) : State := if die < 12 then declareLoss (BitVec.ofNat 13 (2 ^ die)) s else s

/-- HIVE_PORT_FAILURE: a die whose hive port fails is declared lost (R360). -/
def execHivePortFailure (die : Nat) (s : State) : Outcome State Fault Refusal :=
  .next (declareDie die s)

/-! ### Resets (R363) -/

/-- Storage addresses that a reset of a die clears: the scratchpads of a comb die, the stacks of a store die. -/
def ofDie (die a : Nat) : Bool :=
  decide ((homeOf a).die = die) && (isGlobal a || decide (scratchBase ≤ a ∧ a < episodeBase))

/-- A range cut at pages of 4 KiB. -/
def pageCut (v : Nat × Nat × Nat) : List (Nat × Nat × Nat) :=
  (List.range (v.2.1 / 4096 + 2)).filterMap fun i =>
    let lo := Nat.max v.1 ((v.1 / 4096 + i) * 4096)
    let hi := Nat.min (v.1 + v.2.1) ((v.1 / 4096 + i + 1) * 4096)
    if lo < hi then some (lo, hi - lo, v.2.2) else none

/-- Clear a die's storage: bytes, tags, poison and check values. -/
def clearDie (die : Nat) (m : Memory) : Memory :=
  { m with
    cells := m.cells.filter fun c => !ofDie die c.1
    veil := (m.veil.flatMap pageCut).filter fun v => !ofDie die v.1
    tags := m.tags.filter fun g => !ofDie die (g * 16)
    poison := m.poison.filter fun u => !ofDie die u
    checks := m.checks.filter fun c => !ofDie die c.1
    msgs := m.msgs.map fun w => { w with cells := w.cells.filter fun c => !ofDie die c.1 } }

/-- A lost die returns to service, cleared (R363). -/
def resetDie (die : Nat) (s : State) : State :=
  let s1 := setMem (clearDie die) s
  setFab (fun f => { f with
    lost := f.lost &&& ~~~(BitVec.ofNat 13 (2 ^ die))
    slices := f.slices.filter fun l => l.unit / 256 != die && (homeOf l.pa).die != die
    icache := f.icache.filter fun l => l.unit / 1024 != die
    tombs := f.tombs.filter fun t => dieOf t.core != die
    lostPages := f.lostPages.filter fun p => dieOf p.1 != die }) s1

/-- Everything starts again from power-on; host memory and board flash are not the package's. -/
def packageReset (s : State) : State :=
  let host := fun (a : Nat) => decide (140737488355328 ≤ a) && isGlobal a
  { State.reset with
    mem := { State.reset.mem with
      cells := s.mem.cells.filter fun c => host c.1
      veil := s.mem.veil.filter fun v => host v.1 }
    pf := { State.reset.pf with flash := s.pf.flash }
    schedule := s.schedule
    turnNo := s.turnNo
    freeNo := s.freeNo }

/-- HIVE_DIE_FAULT: a fault of the hive die resets the package (R360, R363). -/
def execHiveDieFault (s : State) : Outcome State Fault Refusal := .next (packageReset s)

end Sys2Proof.Machine
end

