-- ==== Sys2Proof/Machine/Divrem.lean ====
section
/-!
DEFINITION. Division, remainder and square root (R118, R119).
-/

namespace Sys2Proof.Machine

open Host (Outcome)

/-- Signed division truncating toward zero, with the corners of R118. -/
def divS (n : Nat) (a b : Int) : Int := if b = 0 then -1 else if a = -(2 ^ (n - 1)) ∧ b = -1 then a else Int.tdiv a b

def remS (a b : Int) : Int := if b = 0 then a else Int.tmod a b

def divU (a b : Nat) : Nat := if b = 0 then 2 ^ 64 - 1 else a / b

def remU (a b : Nat) : Nat := if b = 0 then a else a % b

def execDiv (la : BitVec 4) (rd rs1 rs2 : Reg) (s : State) : Outcome State Fault Refusal :=
  div2 (fun a b => (BitVec.ofInt 64 (divS 64 a.toInt b.toInt), 0)) la rd rs1 rs2 s

def execDivu (la : BitVec 4) (rd rs1 rs2 : Reg) (s : State) : Outcome State Fault Refusal :=
  div2 (fun a b => (w64 (divU a.toNat b.toNat), 0)) la rd rs1 rs2 s

def execRem (la : BitVec 4) (rd rs1 rs2 : Reg) (s : State) : Outcome State Fault Refusal :=
  div2 (fun a b => (BitVec.ofInt 64 (remS a.toInt b.toInt), 0)) la rd rs1 rs2 s

def execRemu (la : BitVec 4) (rd rs1 rs2 : Reg) (s : State) : Outcome State Fault Refusal :=
  div2 (fun a b => (w64 (remU a.toNat b.toNat), 0)) la rd rs1 rs2 s

def execDivw (la : BitVec 4) (rd rs1 rs2 : Reg) (s : State) : Outcome State Fault Refusal :=
  div2 (fun a b => (BitVec.ofInt 64 (divS 32 (sxInt a.toNat 32) (sxInt b.toNat 32)), 0)) la rd rs1 rs2 s

def execRemw (la : BitVec 4) (rd rs1 rs2 : Reg) (s : State) : Outcome State Fault Refusal :=
  div2 (fun a b => (BitVec.ofInt 64 (remS (sxInt a.toNat 32) (sxInt b.toNat 32)), 0)) la rd rs1 rs2 s

/-- FDIV (R119). -/
def execFdiv (la : BitVec 4) (rd rs1 rs2 : Reg) (s : State) : Outcome State Fault Refusal :=
  div2 (fun a b => let r := fdiv32 (a.setWidth 32) (b.setWidth 32); (r.1.setWidth 64, r.2)) la rd rs1 rs2 s

/-- FSQRT (R119). -/
def execFsqrt (la : BitVec 4) (rd rs1 : Reg) (s : State) : Outcome State Fault Refusal :=
  finish4 s do
    let a ← readReg rs1 s
    let r := fsqrt32 (a.setWidth 32)
    putLookahead la.toNat rd (r.1.setWidth 64) r.2 0 [rs1] s

end Sys2Proof.Machine
end

