-- ==== Sys2Proof/Machine/Fetch.lean ====
section
/-!
DEFINITION. The fetch of an instruction, its faults, and the register fields and kinds of instructions
(R21-R23, R33, R34, R61, R401).
-/

namespace Sys2Proof.Machine

open Host (Outcome)

/-! ### Fetch (R21, R23, R401) -/

/-- One parcel at a 72-bit address. Bit 0 of an odd address is taken as zero, and poison does not stop a fetch (log 28). -/
def fetchParcel (a : Nat) (s : State) : Res (Nat × State) := do
  let (pa, s1) ← fetchXl s.cur s.vfid (a / 2 * 2) (!s.ctx.st.mode) (w64 (a % 2 ^ 63)) s
  let (bs, s2) := readMem pa 2 s1
  .ok (ofBytes bs, setMem (·.noted pa 2) s2)

/-- The instruction at the pc: its parcel, or its two parcels as 32 bits. -/
def fetch (s : State) : Res (Nat × State) := do
  must (!s.ctx.pcBad) cCOORD s.ctx.badTarget
  let (p, s1) ← fetchParcel s.ctx.pc.toNat s
  if p % 2 = 0 then .ok (p, s1)
  else
    let (q, s2) ← keepWalk s1 (fetchParcel (pcAdd s.ctx.pc 2).toNat s1)
    .ok (p + 65536 * q, s2)

/-- FETCH_FAULT: the fault of the fetch at the pc, or of its second parcel, is taken (R23). -/
def execFetchFault (s : State) : Outcome State Fault Refusal := finish s ((fetch s).map Prod.snd)

/-- RESERVED_ENCODING: ILL with the instruction (R22, R61). -/
def execReservedEncoding (w : BitVec 32) (s : State) : Outcome State Fault Refusal :=
  let t := { s with insn := w.setWidth 64 }
  finish t (ill t)

/-! ### Register fields (R24-R26, R34) -/

/-- The two registers of a capability field. -/
def capRegs (k : Cap) : List Reg := [.m ⟨2 * k.val, by omega⟩, .m ⟨2 * k.val + 1, by omega⟩]

/-- The four registers CPQ and CPQT read. -/
def quadRegs (q : Fin 8) : List Reg :=
  [.m ⟨4 * q.val, by omega⟩, .m ⟨4 * q.val + 1, by omega⟩, .m ⟨4 * q.val + 2, by omega⟩, .m ⟨4 * q.val + 3, by omega⟩]

/-- The registers an instruction's fields name. -/
def instrRegs : Instr → List Reg
  | .add rd rs1 rs2 => [rd, rs1, rs2]
  | .sub rd rs1 rs2 => [rd, rs1, rs2]
  | .and rd rs1 rs2 => [rd, rs1, rs2]
  | .or rd rs1 rs2 => [rd, rs1, rs2]
  | .xor rd rs1 rs2 => [rd, rs1, rs2]
  | .andn rd rs1 rs2 => [rd, rs1, rs2]
  | .orn rd rs1 rs2 => [rd, rs1, rs2]
  | .xnor rd rs1 rs2 => [rd, rs1, rs2]
  | .sll rd rs1 rs2 => [rd, rs1, rs2]
  | .srl rd rs1 rs2 => [rd, rs1, rs2]
  | .sra rd rs1 rs2 => [rd, rs1, rs2]
  | .rol rd rs1 rs2 => [rd, rs1, rs2]
  | .ror rd rs1 rs2 => [rd, rs1, rs2]
  | .slt rd rs1 rs2 => [rd, rs1, rs2]
  | .sltu rd rs1 rs2 => [rd, rs1, rs2]
  | .min rd rs1 rs2 => [rd, rs1, rs2]
  | .max rd rs1 rs2 => [rd, rs1, rs2]
  | .minu rd rs1 rs2 => [rd, rs1, rs2]
  | .maxu rd rs1 rs2 => [rd, rs1, rs2]
  | .mul rd rs1 rs2 => [rd, rs1, rs2]
  | .mulh rd rs1 rs2 => [rd, rs1, rs2]
  | .mulhu rd rs1 rs2 => [rd, rs1, rs2]
  | .mulhsu rd rs1 rs2 => [rd, rs1, rs2]
  | .sh1add rd rs1 rs2 => [rd, rs1, rs2]
  | .sh2add rd rs1 rs2 => [rd, rs1, rs2]
  | .sh3add rd rs1 rs2 => [rd, rs1, rs2]
  | .czero rd rs1 rs2 => [rd, rs1, rs2]
  | .addw rd rs1 rs2 => [rd, rs1, rs2]
  | .subw rd rs1 rs2 => [rd, rs1, rs2]
  | .sllw rd rs1 rs2 => [rd, rs1, rs2]
  | .srlw rd rs1 rs2 => [rd, rs1, rs2]
  | .sraw rd rs1 rs2 => [rd, rs1, rs2]
  | .mulw rd rs1 rs2 => [rd, rs1, rs2]
  | .clz rd rs1 => [rd, rs1]
  | .ctz rd rs1 => [rd, rs1]
  | .popc rd rs1 => [rd, rs1]
  | .brev rd rs1 => [rd, rs1]
  | .bswap rd rs1 => [rd, rs1]
  | .sextb rd rs1 => [rd, rs1]
  | .sexth rd rs1 => [rd, rs1]
  | .sextw rd rs1 => [rd, rs1]
  | .zextb rd rs1 => [rd, rs1]
  | .zexth rd rs1 => [rd, rs1]
  | .zextw rd rs1 => [rd, rs1]
  | .addi rd rs1 _ => [rd, rs1]
  | .andi rd rs1 _ => [rd, rs1]
  | .ori rd rs1 _ => [rd, rs1]
  | .xori rd rs1 _ => [rd, rs1]
  | .slti rd rs1 _ => [rd, rs1]
  | .sltiu rd rs1 _ => [rd, rs1]
  | .addiw rd rs1 _ => [rd, rs1]
  | .slli rd rs1 _ => [rd, rs1]
  | .srli rd rs1 _ => [rd, rs1]
  | .srai rd rs1 _ => [rd, rs1]
  | .rori rd rs1 _ => [rd, rs1]
  | .slliw rd rs1 _ => [rd, rs1]
  | .srliw rd rs1 _ => [rd, rs1]
  | .sraiw rd rs1 _ => [rd, rs1]
  | .lui rd _ => [rd]
  | .auipc rd _ => [rd]
  | .crdself rd => [rd]
  | .crdmk rd rs1 rs2 => [rd, rs1, rs2]
  | .crdget rd rs1 _ => [rd, rs1]
  | .crdset rd rs1 rs2 _ => [rd, rs1, rs2]
  | .crdadd rd rs1 rs2 => [rd, rs1, rs2]
  | .div _ rd rs1 rs2 => [rd, rs1, rs2]
  | .divu _ rd rs1 rs2 => [rd, rs1, rs2]
  | .rem _ rd rs1 rs2 => [rd, rs1, rs2]
  | .remu _ rd rs1 rs2 => [rd, rs1, rs2]
  | .divw _ rd rs1 rs2 => [rd, rs1, rs2]
  | .remw _ rd rs1 rs2 => [rd, rs1, rs2]
  | .fdiv _ rd rs1 rs2 => [rd, rs1, rs2]
  | .fsqrt _ rd rs1 => [rd, rs1]
  | .beq rs1 rs2 _ => [rs1, rs2]
  | .bne rs1 rs2 _ => [rs1, rs2]
  | .blt rs1 rs2 _ => [rs1, rs2]
  | .bge rs1 rs2 _ => [rs1, rs2]
  | .bltu rs1 rs2 _ => [rs1, rs2]
  | .bgeu rs1 rs2 _ => [rs1, rs2]
  | .beqz rs1 _ => [rs1]
  | .bnez rs1 _ => [rs1]
  | .bltz rs1 _ => [rs1]
  | .bgez rs1 _ => [rs1]
  | .bgtz rs1 _ => [rs1]
  | .blez rs1 _ => [rs1]
  | .jal rd _ => [rd]
  | .jalr rd rs1 _ => [rd, rs1]
  | .ldB _ rd base _ => [rd, base]
  | .ldBu _ rd base _ => [rd, base]
  | .ldH _ rd base _ => [rd, base]
  | .ldHu _ rd base _ => [rd, base]
  | .ldW _ rd base _ => [rd, base]
  | .ldWu _ rd base _ => [rd, base]
  | .ldD _ rd base _ => [rd, base]
  | .ldxB _ rd base index => [rd, base, index]
  | .ldxBu _ rd base index => [rd, base, index]
  | .ldxH _ rd base index => [rd, base, index]
  | .ldxHu _ rd base index => [rd, base, index]
  | .ldxW _ rd base index => [rd, base, index]
  | .ldxWu _ rd base index => [rd, base, index]
  | .ldxD _ rd base index => [rd, base, index]
  | .ldaqB _ _ rd base => [rd, base]
  | .ldaqBu _ _ rd base => [rd, base]
  | .ldaqH _ _ rd base => [rd, base]
  | .ldaqHu _ _ rd base => [rd, base]
  | .ldaqW _ _ rd base => [rd, base]
  | .ldaqWu _ _ rd base => [rd, base]
  | .ldaqD _ _ rd base => [rd, base]
  | .stB rs base _ _ _ => [rs, base]
  | .stH rs base _ _ _ => [rs, base]
  | .stW rs base _ _ _ => [rs, base]
  | .stD rs base _ _ _ => [rs, base]
  | .logstB rs base _ _ _ => [rs, base]
  | .logstH rs base _ _ _ => [rs, base]
  | .amoadd _ _ rd base rs2 => [rd, base, rs2]
  | .amoand _ _ rd base rs2 => [rd, base, rs2]
  | .amoor _ _ rd base rs2 => [rd, base, rs2]
  | .amoxor _ _ rd base rs2 => [rd, base, rs2]
  | .amomin _ _ rd base rs2 => [rd, base, rs2]
  | .amomax _ _ rd base rs2 => [rd, base, rs2]
  | .amominu _ _ rd base rs2 => [rd, base, rs2]
  | .amomaxu _ _ rd base rs2 => [rd, base, rs2]
  | .amoswap _ _ rd base rs2 => [rd, base, rs2]
  | .amocas _ _ rd base rs2 => [rd, base, rs2]
  | .fence _ _ _ _ _ => []
  | .fenceE _ => []
  | .tdclr => []
  | .cbnd kd ks rs2 => capRegs kd ++ capRegs ks ++ [rs2]
  | .cperm kd ks rs2 => capRegs kd ++ capRegs ks ++ [rs2]
  | .cgetb rd ks => [rd] ++ capRegs ks
  | .cgetl rd ks => [rd] ++ capRegs ks
  | .cgetp rd ks => [rd] ++ capRegs ks
  | .cgett rd ks => [rd] ++ capRegs ks
  | .cmov kd ks => capRegs kd ++ capRegs ks
  | .cclr kd => capRegs kd
  | .lcap _ kd base _ => capRegs kd ++ [base]
  | .scap ks base _ => capRegs ks ++ [base]
  | .fadd rd rs1 rs2 => [rd, rs1, rs2]
  | .fsub rd rs1 rs2 => [rd, rs1, rs2]
  | .fmul rd rs1 rs2 => [rd, rs1, rs2]
  | .fmin rd rs1 rs2 => [rd, rs1, rs2]
  | .fmax rd rs1 rs2 => [rd, rs1, rs2]
  | .feq rd rs1 rs2 => [rd, rs1, rs2]
  | .flt rd rs1 rs2 => [rd, rs1, rs2]
  | .fle rd rs1 rs2 => [rd, rs1, rs2]
  | .fsgnj rd rs1 rs2 => [rd, rs1, rs2]
  | .fsgnjn rd rs1 rs2 => [rd, rs1, rs2]
  | .fsgnjx rd rs1 rs2 => [rd, rs1, rs2]
  | .fclass rd rs1 => [rd, rs1]
  | .fcvtWS rd rs1 => [rd, rs1]
  | .fcvtWuS rd rs1 => [rd, rs1]
  | .fcvtSW rd rs1 => [rd, rs1]
  | .fcvtSWu rd rs1 => [rd, rs1]
  | .fcvtSH rd rs1 => [rd, rs1]
  | .fcvtHS rd rs1 => [rd, rs1]
  | .fcvtSBf rd rs1 => [rd, rs1]
  | .fcvtBfS rd rs1 => [rd, rs1]
  | .fcvtLS rd rs1 => [rd, rs1]
  | .fcvtSL rd rs1 => [rd, rs1]
  | .fmadd rd rs1 rs2 rs3 => [rd, rs1, rs2, rs3]
  | .fnmadd rd rs1 rs2 rs3 => [rd, rs1, rs2, rs3]
  | .lnscvtB rd rs1 => [rd, rs1]
  | .lnscvtH rd rs1 => [rd, rs1]
  | .lincvtB rd rs1 => [rd, rs1]
  | .lincvtH rd rs1 => [rd, rs1]
  | .lmulB rd rs1 rs2 => [rd, rs1, rs2]
  | .lmulH rd rs1 rs2 => [rd, rs1, rs2]
  | .vaddW _ _ _ _ => []
  | .vsubW _ _ _ _ => []
  | .vmulW _ _ _ _ => []
  | .vmulhW _ _ _ _ => []
  | .vminW _ _ _ _ => []
  | .vmaxW _ _ _ _ => []
  | .vminuW _ _ _ _ => []
  | .vmaxuW _ _ _ _ => []
  | .vand _ _ _ _ => []
  | .vor _ _ _ _ => []
  | .vxor _ _ _ _ => []
  | .vsll _ _ _ _ => []
  | .vsrl _ _ _ _ => []
  | .vsra _ _ _ _ => []
  | .vdot4 _ _ _ _ => []
  | .vdot4u _ _ _ _ => []
  | .vfadd _ _ _ _ => []
  | .vfsub _ _ _ _ => []
  | .vfmul _ _ _ _ => []
  | .vfma _ _ _ _ => []
  | .vfmin _ _ _ _ => []
  | .vfmax _ _ _ _ => []
  | .vfrcp _ _ _ => []
  | .vfrsq _ _ _ => []
  | .vexp2 _ _ _ => []
  | .vlog2 _ _ _ => []
  | .vfabs _ _ _ => []
  | .vfneg _ _ _ => []
  | .vceqW _ _ _ _ => []
  | .vcltW _ _ _ _ => []
  | .vcltuW _ _ _ _ => []
  | .vfceq _ _ _ _ => []
  | .vfclt _ _ _ _ => []
  | .vfcle _ _ _ _ => []
  | .vsel _ _ _ _ => []
  | .vmov _ _ _ => []
  | .vperm _ _ _ _ => []
  | .vcvtSW _ _ _ => []
  | .vcvtWS _ _ _ => []
  | .vcvtSH _ _ _ => []
  | .vcvtHS _ _ _ => []
  | .vcvtSBf _ _ _ => []
  | .vcvtBfS _ _ _ => []
  | .vlmulH _ _ _ _ => []
  | .vlinH _ _ _ => []
  | .vlogH _ _ _ => []
  | .vlinB _ _ _ => []
  | .vlogB _ _ _ => []
  | .vredsumW _ _ => []
  | .vredsumS _ _ => []
  | .vredmaxS _ _ => []
  | .vredminS _ _ => []
  | .vredmaxW _ _ => []
  | .vaddWShort _ _ => []
  | .vsubWShort _ _ => []
  | .vmulWShort _ _ => []
  | .vandShort _ _ => []
  | .vorShort _ _ => []
  | .vxorShort _ _ => []
  | .vminWShort _ _ => []
  | .vmaxWShort _ _ => []
  | .vfaddShort _ _ => []
  | .vfsubShort _ _ => []
  | .vfmulShort _ _ => []
  | .vfminShort _ _ => []
  | .vfmaxShort _ _ => []
  | .vmovShort _ _ => []
  | .vlmulHShort _ _ => []
  | .vsllShort _ _ => []
  | .vaddWBcast _ o => [.o o]
  | .vsubWBcast _ o => [.o o]
  | .vmulWBcast _ o => [.o o]
  | .vandBcast _ o => [.o o]
  | .vorBcast _ o => [.o o]
  | .vxorBcast _ o => [.o o]
  | .vminWBcast _ o => [.o o]
  | .vmaxWBcast _ o => [.o o]
  | .vfaddBcast _ o => [.o o]
  | .vfsubBcast _ o => [.o o]
  | .vfmulBcast _ o => [.o o]
  | .vfminBcast _ o => [.o o]
  | .vfmaxBcast _ o => [.o o]
  | .vmovBcast _ o => [.o o]
  | .vlmulHBcast _ o => [.o o]
  | .vsllBcast _ o => [.o o]
  | .vld _ k rs2 _ => capRegs k ++ [rs2]
  | .vst _ k rs2 _ => capRegs k ++ [rs2]
  | .vlds _ k rs2 _ => capRegs k ++ [rs2]
  | .vsts _ k rs2 _ => capRegs k ++ [rs2]
  | .vldg _ k _ => capRegs k
  | .vstg _ k _ _ => capRegs k
  | .vbcast _ rs1 _ => [rs1]
  | .vmovs _ rs2 => [rs2]
  | .vins _ rs1 rs2 => [rs1, rs2]
  | .viota _ _ => []
  | .vrand _ _ => []
  | .gang rs1 => [rs1]
  | .ungang => []
  | .vfence => []
  | .vsetw rs1 => [rs1]
  | .vmand _ _ _ => []
  | .vmor _ _ _ => []
  | .vmnot _ _ => []
  | .vmpopc rd _ => [rd]
  | .mclaim rd => [rd]
  | .mfree => []
  | .mldw rs1 => [rs1]
  | .mswap => []
  | .mstream rs1 rs2 => [rs1, rs2]
  | .mzero rs1 rs2 => [rs1, rs2]
  | .mstore rs1 rs2 => [rs1, rs2]
  | .mwait => []
  | .mmode rs1 => [rs1]
  | .mscale rs1 rs2 => [rs1, rs2]
  | .mstat rd => [rd]
  | .cpq q => quadRegs q
  | .cpqt rd q => [rd] ++ quadRegs q
  | .rinit rs1 => [rs1]
  | .rawait rd rs1 => [rd, rs1]
  | .rrel rs1 => [rs1]
  | .rpeek rd rs1 => [rd, rs1]
  | .binit rs1 rs2 => [rs1, rs2]
  | .barv rd rs1 => [rd, rs1]
  | .bexp rs1 rs2 => [rs1, rs2]
  | .bwait rd rs1 rs2 => [rd, rs1, rs2]
  | .btest rd rs1 rs2 => [rd, rs1, rs2]
  | .grank rd rs1 => [rd, rs1]
  | .gsize rd rs1 => [rd, rs1]
  | .garv rd rs1 => [rd, rs1]
  | .gwait rs1 rs2 => [rs1, rs2]
  | .evsig rs1 rs2 => [rs1, rs2]
  | .evwait rs1 => [rs1]
  | .evtry rd rs1 => [rd, rs1]
  | .evset rs1 => [rs1]
  | .evclr rs1 => [rs1]
  | .spawn rd rs1 => [rd, rs1]
  | .suspend => []
  | .yield => []
  | .exit => []
  | .resume rs1 => [rs1]
  | .dist rd rs1 _ => [rd, rs1]
  | .srd rd _ => [rd]
  | .swr rd _ rs1 => [rd, rs1]
  | .sset rd _ rs1 => [rd, rs1]
  | .sclr rd _ rs1 => [rd, rs1]
  | .trap _ => []
  | .uret => []
  | .uiret => []
  | .sret => []
  | .brk => []
  | .wfi => []
  | .uien rs1 => [rs1]
  | .pref rs1 => [rs1]
  | .invl rs1 => [rs1]
  | .hmbump rs1 => [rs1]
  | .relack rs1 => [rs1]
  | .flushl rs1 => [rs1]
  | .vfcall rd rs1 => [rd, rs1]
  | .qrnPop => []
  | .qcsPop => []
  | .qntPop => []
  | .qvsPop => []
  | .qmoPop => []
  | .qmiPush _ => []
  | .qsaPush _ => []
  | .qsoPop => []
  | .lookaheadResult _ => []
  | .storeOrdered _ => []
  | .acknowledgement _ => []
  | .amoResult => []
  | .allowanceEnd _ => []
  | .userInterrupt => []
  | .asynchronousTrap => []
  | .vectorGrant _ => []
  | .vectorComplete => []
  | .copyChunkStart _ => []
  | .copyChunkDone _ => []
  | .copyCompletion _ => []
  | .periodRefill _ => []
  | .planeLoad _ => []
  | .rowInjection _ => []
  | .rowComplete _ => []
  | .pageRelocation => []
  | .cellRetirement _ => []
  | .scrub _ _ => []
  | .softErrorHalving => []
  | .stage2Load _ => []
  | .pageWalk _ => []
  | .hostWrite _ _ => []
  | .hostRead _ _ => []
  | .launchCommit _ _ => []
  | .launchCompletion _ => []
  | .dispatch => []
  | .sliceEnding _ => []
  | .sliceEnd _ => []
  | .coreHalt => []
  | .flushComplete _ => []
  | .sliceStart _ => []
  | .actionRecord => []
  | .setmin => []
  | .setwd => []
  | .setimg => []
  | .actionDelivery _ => []
  | .post _ => []
  | .wait _ => []
  | .controlBlockWrite _ _ _ => []
  | .episodeZeroed _ => []
  | .watchdogExpiry _ => []
  | .cappingDecision _ _ => []
  | .cadenceApply _ => []
  | .tokenGrant _ => []
  | .tokenTrade _ _ => []
  | .fallbackGrant => []
  | .estimatorRefit _ _ _ => []
  | .telemetryRead _ => []
  | .energyRefresh _ _ => []
  | .stallrUpdate _ _ => []
  | .setv _ _ => []
  | .setfb _ _ _ => []
  | .voltageStepSettled _ => []
  | .biasSettled _ => []
  | .thermalSample _ _ => []
  | .coolantFlowLow _ => []
  | .ackTimeout _ => []
  | .hivePortFailure _ => []
  | .peerChunkArrival _ _ _ _ _ _ _ => []
  | .chipLinkFailure _ => []
  | .powerOnReset => []
  | .enterReduced => []
  | .enterFull => []
  | .assignvf _ _ _ _ => []
  | .sets2 _ _ _ => []
  | .setslice _ _ _ _ _ => []
  | .setcoll _ _ => []
  | .setway _ _ _ => []
  | .setscope _ _ => []
  | .setmbox _ _ => []
  | .setbudget _ _ _ _ => []
  | .resetdie _ => []
  | .saveregion _ _ => []
  | .attest _ => []
  | .s2reply _ _ _ => []
  | .setroot _ => []
  | .reserve _ => []
  | .relocate _ => []
  | .setq _ => []
  | .s2req _ => []
  | .publish _ => []
  | .unpublish _ => []
  | .pwrread _ => []
  | .reservedEncoding _ => []
  | .fetchFault => []
  | .environmentCoreInstruction _ => []
  | .hiveDieFault => []
  | .matrixInstructionComplete _ => []

/-! ### Rows that are steps of other agents -/

/-- A row that a turn of another agent may run. The rows that are parts of an instruction (pops and pushes of queue registers, the
environment's accesses to its control block, what the core enters at a boundary) happen within the turns of instructions. -/
def agentRow : Instr → Bool
  | .add _ _ _ => false
  | .sub _ _ _ => false
  | .and _ _ _ => false
  | .or _ _ _ => false
  | .xor _ _ _ => false
  | .andn _ _ _ => false
  | .orn _ _ _ => false
  | .xnor _ _ _ => false
  | .sll _ _ _ => false
  | .srl _ _ _ => false
  | .sra _ _ _ => false
  | .rol _ _ _ => false
  | .ror _ _ _ => false
  | .slt _ _ _ => false
  | .sltu _ _ _ => false
  | .min _ _ _ => false
  | .max _ _ _ => false
  | .minu _ _ _ => false
  | .maxu _ _ _ => false
  | .mul _ _ _ => false
  | .mulh _ _ _ => false
  | .mulhu _ _ _ => false
  | .mulhsu _ _ _ => false
  | .sh1add _ _ _ => false
  | .sh2add _ _ _ => false
  | .sh3add _ _ _ => false
  | .czero _ _ _ => false
  | .addw _ _ _ => false
  | .subw _ _ _ => false
  | .sllw _ _ _ => false
  | .srlw _ _ _ => false
  | .sraw _ _ _ => false
  | .mulw _ _ _ => false
  | .clz _ _ => false
  | .ctz _ _ => false
  | .popc _ _ => false
  | .brev _ _ => false
  | .bswap _ _ => false
  | .sextb _ _ => false
  | .sexth _ _ => false
  | .sextw _ _ => false
  | .zextb _ _ => false
  | .zexth _ _ => false
  | .zextw _ _ => false
  | .addi _ _ _ => false
  | .andi _ _ _ => false
  | .ori _ _ _ => false
  | .xori _ _ _ => false
  | .slti _ _ _ => false
  | .sltiu _ _ _ => false
  | .addiw _ _ _ => false
  | .slli _ _ _ => false
  | .srli _ _ _ => false
  | .srai _ _ _ => false
  | .rori _ _ _ => false
  | .slliw _ _ _ => false
  | .srliw _ _ _ => false
  | .sraiw _ _ _ => false
  | .lui _ _ => false
  | .auipc _ _ => false
  | .crdself _ => false
  | .crdmk _ _ _ => false
  | .crdget _ _ _ => false
  | .crdset _ _ _ _ => false
  | .crdadd _ _ _ => false
  | .div _ _ _ _ => false
  | .divu _ _ _ _ => false
  | .rem _ _ _ _ => false
  | .remu _ _ _ _ => false
  | .divw _ _ _ _ => false
  | .remw _ _ _ _ => false
  | .fdiv _ _ _ _ => false
  | .fsqrt _ _ _ => false
  | .beq _ _ _ => false
  | .bne _ _ _ => false
  | .blt _ _ _ => false
  | .bge _ _ _ => false
  | .bltu _ _ _ => false
  | .bgeu _ _ _ => false
  | .beqz _ _ => false
  | .bnez _ _ => false
  | .bltz _ _ => false
  | .bgez _ _ => false
  | .bgtz _ _ => false
  | .blez _ _ => false
  | .jal _ _ => false
  | .jalr _ _ _ => false
  | .ldB _ _ _ _ => false
  | .ldBu _ _ _ _ => false
  | .ldH _ _ _ _ => false
  | .ldHu _ _ _ _ => false
  | .ldW _ _ _ _ => false
  | .ldWu _ _ _ _ => false
  | .ldD _ _ _ _ => false
  | .ldxB _ _ _ _ => false
  | .ldxBu _ _ _ _ => false
  | .ldxH _ _ _ _ => false
  | .ldxHu _ _ _ _ => false
  | .ldxW _ _ _ _ => false
  | .ldxWu _ _ _ _ => false
  | .ldxD _ _ _ _ => false
  | .ldaqB _ _ _ _ => false
  | .ldaqBu _ _ _ _ => false
  | .ldaqH _ _ _ _ => false
  | .ldaqHu _ _ _ _ => false
  | .ldaqW _ _ _ _ => false
  | .ldaqWu _ _ _ _ => false
  | .ldaqD _ _ _ _ => false
  | .stB _ _ _ _ _ => false
  | .stH _ _ _ _ _ => false
  | .stW _ _ _ _ _ => false
  | .stD _ _ _ _ _ => false
  | .logstB _ _ _ _ _ => false
  | .logstH _ _ _ _ _ => false
  | .amoadd _ _ _ _ _ => false
  | .amoand _ _ _ _ _ => false
  | .amoor _ _ _ _ _ => false
  | .amoxor _ _ _ _ _ => false
  | .amomin _ _ _ _ _ => false
  | .amomax _ _ _ _ _ => false
  | .amominu _ _ _ _ _ => false
  | .amomaxu _ _ _ _ _ => false
  | .amoswap _ _ _ _ _ => false
  | .amocas _ _ _ _ _ => false
  | .fence _ _ _ _ _ => false
  | .fenceE _ => false
  | .tdclr => false
  | .cbnd _ _ _ => false
  | .cperm _ _ _ => false
  | .cgetb _ _ => false
  | .cgetl _ _ => false
  | .cgetp _ _ => false
  | .cgett _ _ => false
  | .cmov _ _ => false
  | .cclr _ => false
  | .lcap _ _ _ _ => false
  | .scap _ _ _ => false
  | .fadd _ _ _ => false
  | .fsub _ _ _ => false
  | .fmul _ _ _ => false
  | .fmin _ _ _ => false
  | .fmax _ _ _ => false
  | .feq _ _ _ => false
  | .flt _ _ _ => false
  | .fle _ _ _ => false
  | .fsgnj _ _ _ => false
  | .fsgnjn _ _ _ => false
  | .fsgnjx _ _ _ => false
  | .fclass _ _ => false
  | .fcvtWS _ _ => false
  | .fcvtWuS _ _ => false
  | .fcvtSW _ _ => false
  | .fcvtSWu _ _ => false
  | .fcvtSH _ _ => false
  | .fcvtHS _ _ => false
  | .fcvtSBf _ _ => false
  | .fcvtBfS _ _ => false
  | .fcvtLS _ _ => false
  | .fcvtSL _ _ => false
  | .fmadd _ _ _ _ => false
  | .fnmadd _ _ _ _ => false
  | .lnscvtB _ _ => false
  | .lnscvtH _ _ => false
  | .lincvtB _ _ => false
  | .lincvtH _ _ => false
  | .lmulB _ _ _ => false
  | .lmulH _ _ _ => false
  | .vaddW _ _ _ _ => false
  | .vsubW _ _ _ _ => false
  | .vmulW _ _ _ _ => false
  | .vmulhW _ _ _ _ => false
  | .vminW _ _ _ _ => false
  | .vmaxW _ _ _ _ => false
  | .vminuW _ _ _ _ => false
  | .vmaxuW _ _ _ _ => false
  | .vand _ _ _ _ => false
  | .vor _ _ _ _ => false
  | .vxor _ _ _ _ => false
  | .vsll _ _ _ _ => false
  | .vsrl _ _ _ _ => false
  | .vsra _ _ _ _ => false
  | .vdot4 _ _ _ _ => false
  | .vdot4u _ _ _ _ => false
  | .vfadd _ _ _ _ => false
  | .vfsub _ _ _ _ => false
  | .vfmul _ _ _ _ => false
  | .vfma _ _ _ _ => false
  | .vfmin _ _ _ _ => false
  | .vfmax _ _ _ _ => false
  | .vfrcp _ _ _ => false
  | .vfrsq _ _ _ => false
  | .vexp2 _ _ _ => false
  | .vlog2 _ _ _ => false
  | .vfabs _ _ _ => false
  | .vfneg _ _ _ => false
  | .vceqW _ _ _ _ => false
  | .vcltW _ _ _ _ => false
  | .vcltuW _ _ _ _ => false
  | .vfceq _ _ _ _ => false
  | .vfclt _ _ _ _ => false
  | .vfcle _ _ _ _ => false
  | .vsel _ _ _ _ => false
  | .vmov _ _ _ => false
  | .vperm _ _ _ _ => false
  | .vcvtSW _ _ _ => false
  | .vcvtWS _ _ _ => false
  | .vcvtSH _ _ _ => false
  | .vcvtHS _ _ _ => false
  | .vcvtSBf _ _ _ => false
  | .vcvtBfS _ _ _ => false
  | .vlmulH _ _ _ _ => false
  | .vlinH _ _ _ => false
  | .vlogH _ _ _ => false
  | .vlinB _ _ _ => false
  | .vlogB _ _ _ => false
  | .vredsumW _ _ => false
  | .vredsumS _ _ => false
  | .vredmaxS _ _ => false
  | .vredminS _ _ => false
  | .vredmaxW _ _ => false
  | .vaddWShort _ _ => false
  | .vsubWShort _ _ => false
  | .vmulWShort _ _ => false
  | .vandShort _ _ => false
  | .vorShort _ _ => false
  | .vxorShort _ _ => false
  | .vminWShort _ _ => false
  | .vmaxWShort _ _ => false
  | .vfaddShort _ _ => false
  | .vfsubShort _ _ => false
  | .vfmulShort _ _ => false
  | .vfminShort _ _ => false
  | .vfmaxShort _ _ => false
  | .vmovShort _ _ => false
  | .vlmulHShort _ _ => false
  | .vsllShort _ _ => false
  | .vaddWBcast _ _ => false
  | .vsubWBcast _ _ => false
  | .vmulWBcast _ _ => false
  | .vandBcast _ _ => false
  | .vorBcast _ _ => false
  | .vxorBcast _ _ => false
  | .vminWBcast _ _ => false
  | .vmaxWBcast _ _ => false
  | .vfaddBcast _ _ => false
  | .vfsubBcast _ _ => false
  | .vfmulBcast _ _ => false
  | .vfminBcast _ _ => false
  | .vfmaxBcast _ _ => false
  | .vmovBcast _ _ => false
  | .vlmulHBcast _ _ => false
  | .vsllBcast _ _ => false
  | .vld _ _ _ _ => false
  | .vst _ _ _ _ => false
  | .vlds _ _ _ _ => false
  | .vsts _ _ _ _ => false
  | .vldg _ _ _ => false
  | .vstg _ _ _ _ => false
  | .vbcast _ _ _ => false
  | .vmovs _ _ => false
  | .vins _ _ _ => false
  | .viota _ _ => false
  | .vrand _ _ => false
  | .gang _ => false
  | .ungang => false
  | .vfence => false
  | .vsetw _ => false
  | .vmand _ _ _ => false
  | .vmor _ _ _ => false
  | .vmnot _ _ => false
  | .vmpopc _ _ => false
  | .mclaim _ => false
  | .mfree => false
  | .mldw _ => false
  | .mswap => false
  | .mstream _ _ => false
  | .mzero _ _ => false
  | .mstore _ _ => false
  | .mwait => false
  | .mmode _ => false
  | .mscale _ _ => false
  | .mstat _ => false
  | .cpq _ => false
  | .cpqt _ _ => false
  | .rinit _ => false
  | .rawait _ _ => false
  | .rrel _ => false
  | .rpeek _ _ => false
  | .binit _ _ => false
  | .barv _ _ => false
  | .bexp _ _ => false
  | .bwait _ _ _ => false
  | .btest _ _ _ => false
  | .grank _ _ => false
  | .gsize _ _ => false
  | .garv _ _ => false
  | .gwait _ _ => false
  | .evsig _ _ => false
  | .evwait _ => false
  | .evtry _ _ => false
  | .evset _ => false
  | .evclr _ => false
  | .spawn _ _ => false
  | .suspend => false
  | .yield => false
  | .exit => false
  | .resume _ => false
  | .dist _ _ _ => false
  | .srd _ _ => false
  | .swr _ _ _ => false
  | .sset _ _ _ => false
  | .sclr _ _ _ => false
  | .trap _ => false
  | .uret => false
  | .uiret => false
  | .sret => false
  | .brk => false
  | .wfi => false
  | .uien _ => false
  | .pref _ => false
  | .invl _ => false
  | .hmbump _ => false
  | .relack _ => false
  | .flushl _ => false
  | .vfcall _ _ => false
  | .qrnPop => false
  | .qcsPop => false
  | .qntPop => false
  | .qvsPop => false
  | .qmoPop => false
  | .qmiPush _ => false
  | .qsaPush _ => false
  | .qsoPop => false
  | .lookaheadResult _ => true
  | .storeOrdered _ => true
  | .acknowledgement _ => true
  | .amoResult => true
  | .allowanceEnd _ => true
  | .userInterrupt => false
  | .asynchronousTrap => false
  | .vectorGrant _ => true
  | .vectorComplete => true
  | .copyChunkStart _ => true
  | .copyChunkDone _ => true
  | .copyCompletion _ => true
  | .periodRefill _ => true
  | .planeLoad _ => true
  | .rowInjection _ => true
  | .rowComplete _ => true
  | .pageRelocation => true
  | .cellRetirement _ => true
  | .scrub _ _ => true
  | .softErrorHalving => true
  | .stage2Load _ => true
  | .pageWalk _ => true
  | .hostWrite _ _ => true
  | .hostRead _ _ => true
  | .launchCommit _ _ => true
  | .launchCompletion _ => true
  | .dispatch => true
  | .sliceEnding _ => true
  | .sliceEnd _ => true
  | .coreHalt => true
  | .flushComplete _ => true
  | .sliceStart _ => true
  | .actionRecord => true
  | .setmin => true
  | .setwd => true
  | .setimg => true
  | .actionDelivery _ => true
  | .post _ => false
  | .wait _ => false
  | .controlBlockWrite _ _ _ => false
  | .episodeZeroed _ => true
  | .watchdogExpiry _ => true
  | .cappingDecision _ _ => true
  | .cadenceApply _ => true
  | .tokenGrant _ => true
  | .tokenTrade _ _ => true
  | .fallbackGrant => true
  | .estimatorRefit _ _ _ => true
  | .telemetryRead _ => true
  | .energyRefresh _ _ => true
  | .stallrUpdate _ _ => true
  | .setv _ _ => true
  | .setfb _ _ _ => true
  | .voltageStepSettled _ => true
  | .biasSettled _ => true
  | .thermalSample _ _ => true
  | .coolantFlowLow _ => true
  | .ackTimeout _ => true
  | .hivePortFailure _ => true
  | .peerChunkArrival _ _ _ _ _ _ _ => true
  | .chipLinkFailure _ => true
  | .powerOnReset => true
  | .enterReduced => true
  | .enterFull => true
  | .assignvf _ _ _ _ => true
  | .sets2 _ _ _ => true
  | .setslice _ _ _ _ _ => true
  | .setcoll _ _ => true
  | .setway _ _ _ => true
  | .setscope _ _ => true
  | .setmbox _ _ => true
  | .setbudget _ _ _ _ => true
  | .resetdie _ => true
  | .saveregion _ _ => true
  | .attest _ => true
  | .s2reply _ _ _ => true
  | .setroot _ => true
  | .reserve _ => true
  | .relocate _ => true
  | .setq _ => true
  | .s2req _ => true
  | .publish _ => true
  | .unpublish _ => true
  | .pwrread _ => true
  | .reservedEncoding _ => false
  | .fetchFault => false
  | .environmentCoreInstruction _ => true
  | .hiveDieFault => true
  | .matrixInstructionComplete _ => true

end Sys2Proof.Machine
end

