-- ==== Sys2Proof/Machine/Fp.lean ====
section
/-!
DEFINITION. Scalar floating point, fused multiply-add and LNS (R122-R126).
-/

namespace Sys2Proof.Machine

open Host (Outcome)

/-- The FP32 operand of a register (R107). -/
def lo32 (a : W64) : W32 := a.setWidth 32

def ext32 (r : W32 × FFlags) : W64 × FFlags := (r.1.setWidth 64, r.2)

def cmp64 (r : Bool × FFlags) : W64 × FFlags := (boolW r.1, r.2)

/-- A sign bit and the low 31 bits of another pattern. -/
def signOnto (sg : Bool) (a : W32) : W64 := ((a &&& 0x7FFFFFFF) ||| (if sg then 0x80000000 else 0)).setWidth 64

def execFadd (rd rs1 rs2 : Reg) (s : State) : Outcome State Fault Refusal :=
  fp2 (fun a b => ext32 (fadd32 (lo32 a) (lo32 b))) rd rs1 rs2 s

def execFsub (rd rs1 rs2 : Reg) (s : State) : Outcome State Fault Refusal :=
  fp2 (fun a b => ext32 (fsub32 (lo32 a) (lo32 b))) rd rs1 rs2 s

def execFmul (rd rs1 rs2 : Reg) (s : State) : Outcome State Fault Refusal :=
  fp2 (fun a b => ext32 (fmul32 (lo32 a) (lo32 b))) rd rs1 rs2 s

def execFmin (rd rs1 rs2 : Reg) (s : State) : Outcome State Fault Refusal :=
  fp2 (fun a b => ext32 (fmin32 (lo32 a) (lo32 b))) rd rs1 rs2 s

def execFmax (rd rs1 rs2 : Reg) (s : State) : Outcome State Fault Refusal :=
  fp2 (fun a b => ext32 (fmax32 (lo32 a) (lo32 b))) rd rs1 rs2 s

def execFeq (rd rs1 rs2 : Reg) (s : State) : Outcome State Fault Refusal :=
  fp2 (fun a b => cmp64 (feq32 (lo32 a) (lo32 b))) rd rs1 rs2 s

def execFlt (rd rs1 rs2 : Reg) (s : State) : Outcome State Fault Refusal :=
  fp2 (fun a b => cmp64 (flt32 (lo32 a) (lo32 b))) rd rs1 rs2 s

def execFle (rd rs1 rs2 : Reg) (s : State) : Outcome State Fault Refusal :=
  fp2 (fun a b => cmp64 (fle32 (lo32 a) (lo32 b))) rd rs1 rs2 s

def execFsgnj (rd rs1 rs2 : Reg) (s : State) : Outcome State Fault Refusal :=
  fp2 (fun a b => (signOnto (b.getLsbD 31) (lo32 a), 0)) rd rs1 rs2 s

def execFsgnjn (rd rs1 rs2 : Reg) (s : State) : Outcome State Fault Refusal :=
  fp2 (fun a b => (signOnto (!b.getLsbD 31) (lo32 a), 0)) rd rs1 rs2 s

def execFsgnjx (rd rs1 rs2 : Reg) (s : State) : Outcome State Fault Refusal :=
  fp2 (fun a b => (signOnto (a.getLsbD 31 != b.getLsbD 31) (lo32 a), 0)) rd rs1 rs2 s

def execFclass (rd rs1 : Reg) (s : State) : Outcome State Fault Refusal :=
  fp1 (fun a => (w64 (classBits fp32 (lo32 a).toNat), 0)) rd rs1 s

def execFcvtWS (rd rs1 : Reg) (s : State) : Outcome State Fault Refusal :=
  fp1 (fun a => let r := toSigned 32 (lo32 a); (BitVec.ofInt 64 r.1, r.2)) rd rs1 s

def execFcvtWuS (rd rs1 : Reg) (s : State) : Outcome State Fault Refusal :=
  fp1 (fun a => let r := toUnsigned 32 (lo32 a); (BitVec.ofInt 64 r.1, r.2)) rd rs1 s

def execFcvtSW (rd rs1 : Reg) (s : State) : Outcome State Fault Refusal :=
  fp1 (fun a => ext32 (ofInt32 (sxInt a.toNat 32))) rd rs1 s

def execFcvtSWu (rd rs1 : Reg) (s : State) : Outcome State Fault Refusal :=
  fp1 (fun a => ext32 (ofInt32 (a.toNat % 2 ^ 32 : Nat))) rd rs1 s

def execFcvtSH (rd rs1 : Reg) (s : State) : Outcome State Fault Refusal :=
  fp1 (fun a => ext32 (widen32 fp16 (a.toNat % 2 ^ 16))) rd rs1 s

def execFcvtHS (rd rs1 : Reg) (s : State) : Outcome State Fault Refusal :=
  fp1 (fun a => let r := narrow32 fp16 (lo32 a); (w64 r.1, r.2)) rd rs1 s

def execFcvtSBf (rd rs1 : Reg) (s : State) : Outcome State Fault Refusal :=
  fp1 (fun a => ext32 (widen32 bf16 (a.toNat % 2 ^ 16))) rd rs1 s

def execFcvtBfS (rd rs1 : Reg) (s : State) : Outcome State Fault Refusal :=
  fp1 (fun a => let r := narrow32 bf16 (lo32 a); (w64 r.1, r.2)) rd rs1 s

def execFcvtLS (rd rs1 : Reg) (s : State) : Outcome State Fault Refusal :=
  fp1 (fun a => let r := toSigned 64 (lo32 a); (BitVec.ofInt 64 r.1, r.2)) rd rs1 s

def execFcvtSL (rd rs1 : Reg) (s : State) : Outcome State Fault Refusal :=
  fp1 (fun a => ext32 (ofInt32 a.toInt)) rd rs1 s

def execFmadd (rd rs1 rs2 rs3 : Reg) (s : State) : Outcome State Fault Refusal :=
  fp3 (fun a b c => ext32 (fmadd32 (lo32 a) (lo32 b) (lo32 c))) rd rs1 rs2 rs3 s

def execFnmadd (rd rs1 rs2 rs3 : Reg) (s : State) : Outcome State Fault Refusal :=
  fp3 (fun a b c => ext32 (fnmadd32 (lo32 a) (lo32 b) (lo32 c))) rd rs1 rs2 rs3 s

/-! ### Scalar LNS, major 0x1D (R126) -/

def execLnscvtB (rd rs1 : Reg) (s : State) : Outcome State Fault Refusal :=
  lns1 (fun a => let r := log8 false (lo32 a); (w64 r.1, r.2)) rd rs1 s

def execLnscvtH (rd rs1 : Reg) (s : State) : Outcome State Fault Refusal :=
  lns1 (fun a => let r := log16 false (lo32 a); (w64 r.1, r.2)) rd rs1 s

def execLincvtB (rd rs1 : Reg) (s : State) : Outcome State Fault Refusal :=
  lns1 (fun a => ((lin8 (lns8 (a.toNat % 2 ^ 8))).setWidth 64, 0)) rd rs1 s

def execLincvtH (rd rs1 : Reg) (s : State) : Outcome State Fault Refusal :=
  lns1 (fun a => let r := lin16 false (lns16 (a.toNat % 2 ^ 16)); (r.1.setWidth 64, r.2)) rd rs1 s

def execLmulB (rd rs1 rs2 : Reg) (s : State) : Outcome State Fault Refusal :=
  lns2 (fun a b => let r := lnsMul 7 (lns8 (a.toNat % 2 ^ 8)) (lns8 (b.toNat % 2 ^ 8)); (w64 r.1, r.2)) rd rs1 rs2 s

def execLmulH (rd rs1 rs2 : Reg) (s : State) : Outcome State Fault Refusal :=
  lns2 (fun a b => let r := lnsMul 15 (lns16 (a.toNat % 2 ^ 16)) (lns16 (b.toNat % 2 ^ 16)); (w64 r.1, r.2)) rd rs1 rs2 s

end Sys2Proof.Machine
end

