-- ==== Sys2Proof/Machine/Service.lean ====
section
/-!
DEFINITION. Relocation, retirement, scrubbing, the translation service and budget periods (R174-R177, R182, R190, R191, R243).
-/

namespace Sys2Proof.Machine

open Host (Outcome)

/-! ### Relocation (R175, R176) -/

/-- The bytes, tags and poison of a page of storage go to another page. -/
def copyPage (src dst : Nat) (m : Memory) : Memory :=
  let m1 := m.writeAll dst (m.bytes src 4096)
  let m2 := (List.range 256).foldl (fun (x : Memory) g => x.setTag (dst / 16 + g) (m.tags.contains (src / 16 + g))) m1
  (List.range 512).foldl (fun (x : Memory) w =>
    if m.poison.contains (src + 8 * w) then x.setPoison (dst + 8 * w) else x) m2

/-- The payload of a relocation notice (R175). -/
def relocPayload (f : Frame) (core page newCore newPage : Nat) : Nat :=
  let c := f.coords (cellOf core)
  (coordBits c.1 c.2.1 c.2.2 (rankOf core) * 64 + page) * 2 ^ 37 + (mkPtr f newCore 0 (newPage * 4096)).toNat % 2 ^ 37

/-- The continuations of a VF whose HOME is a core. -/
def homedAt (vf core : Nat) (s : State) : List Key :=
  (vfKeys vf s).filter fun k => match ctxOf k s with
    | some c => c.sys.home.toNat == homeBits vf core s
    | none => false

/-- The filled slots of the rings whose header lies in a page that moves, with the header's new address. -/
def moveFilled (src dst : Nat) (s : State) : State :=
  { s with cp := { s.cp with filled := s.cp.filled.map fun e =>
      if e.1 / 4096 * 4096 = src then (dst + e.1 % 4096, e.2) else e } }

/-- Move a page of a VF to a slot: the copy, the tombstones, the notices (R175, R176). -/
def movePage (vf core page newCore newPage : Nat) (s : State) : State :=
  let src := scratchAddr core (page * 4096)
  let dst := scratchAddr newCore (newPage * 4096)
  let s1 := moveFilled src dst (setMem (copyPage src dst) s)
  let s2 := setFab (fun f => { f with
    tombs := (f.tombs.map fun t =>
      if t.newCore == core && t.newPage == page then { t with newCore := newCore, newPage := newPage } else t) ++
        [⟨core, page, newCore, newPage⟩] }) s1
  postAll (homedAt vf core s2) 0x03 (relocPayload (vfFrame s vf) core page newCore newPage) s2

/-- The slot of a VF's reserve that was declared earliest. -/
def takeSlot (vf : Nat) (s : State) : Option (ReserveSlot × State) :=
  (s.fab.reserve.find? fun r => r.vf == vf).map fun r =>
    (r, setFab (fun f => { f with reserve := f.reserve.erase r }) s)

/-- The oldest move that a supervisor requested is made (R175). Its page has stood still since the request; where the slot it
counted on has gone, it waits for the next one declared. -/
def relocateNext (s : State) : State :=
  match s.fab.relocQ with
  | [] => s
  | (vf, core, page) :: rest =>
    let s1 := setFab (fun f => { f with relocQ := rest }) s
    if (tombOf s core page).isSome || pageLost s core page then s1
    else match takeSlot vf s1 with
      | none => s
      | some (r, s2) => movePage vf core page r.core r.page s2

/-- PAGE_RELOCATION (R175). -/
def execPageRelocation (s : State) : Outcome State Fault Refusal := .next (relocateNext s)

/-! ### Soft errors and retirement (R182) -/

/-- SCRUB: the words of a cell are scrubbed; `n` were corrected. A count that crosses the threshold marks the cell for
retirement. -/
def execScrub (cell n : Nat) (s : State) : Outcome State Fault Refusal :=
  let old := ((s.fab.softErr.find? fun e => e.1 == cell).map (·.2)).getD 0
  let c := Nat.min (old + n) 65535
  let cross := decide (s.pf.flash.threshold < c) && !s.fab.retired.contains cell && !s.fab.retiring.contains cell
  .next (setFab (fun f => { f with
    softErr := (f.softErr.filter fun e => e.1 != cell) ++ (if c = 0 then [] else [(cell, c)])
    retiring := if cross then f.retiring ++ [cell] else f.retiring
    lastScrub := s.now }) s)

/-- SOFT_ERROR_HALVING: every cell's count halves, once an hour. -/
def execSoftErrorHalving (s : State) : Outcome State Fault Refusal :=
  .next (setFab (fun f => { f with
    softErr := (f.softErr.map fun e => (e.1, e.2 / 2)).filter fun e => e.2 != 0 }) s)

/-- The VF that owns a page. -/
def pageVf (core page : Nat) (s : State) : Option Nat :=
  (s.trans.vfs.find? fun f => (nodeFrame f.node).hasCell (cellOf core) && ownsPage s f.id core page).map (·.id)

/-- Empty a page of a retiring cell: moved, or lost when its VF's reserve is empty. -/
def retirePage (core page : Nat) (s : State) : State :=
  if (tombOf s core page).isSome || pageLost s core page then s
  else match pageVf core page s with
    | none => s
    | some vf =>
      match takeSlot vf s with
      | some (r, s1) => movePage vf core page r.core r.page s1
      | none => setFab (fun f => { f with lostPages := f.lostPages ++ [(core, page)] }) s

/-- Retire a cell that runs nothing: its dirty lines go home, and its slice takes no more. -/
def retireCell (cell : Nat) (s0 : State) : State :=
  let s := goHome cell (s0.fab.slices.filter fun l => l.unit == cell && l.dirty) s0
  let s1 := setFab (fun f => { f with
    retiring := f.retiring.filter (· != cell)
    retired := f.retired ++ [cell]
    reserve := f.reserve.filter fun r => cellOf r.core != cell
    slices := f.slices.filter fun l => l.unit != cell }) s
  let pages := (List.range 4).flatMap fun r => (List.range 48).map fun p => (cell * 4 + r, p)
  pages.foldl (fun s p => retirePage p.1 p.2 s) s1

/-- CELL_RETIREMENT: a stop of the VF on the cell first; once nothing runs there, the stores of its cores in save buffers take
their places, the moves requested before are made, its pages move and it takes no further work. -/
def execCellRetirement (cell : Nat) (s : State) : Outcome State Fault Refusal :=
  if !s.fab.retiring.contains cell then .next s
  else
    let run := (if s.live then [(s.cur, s.ctx)] else []) ++ s.parked
    if run.any fun c => (c.2.memberCells c.1).contains cell then
      match s.sch.nodes.find? fun n => (nodeFrame n.num).hasCell cell with
      | some n => .next (stopNode n.num s)
      | none => .next s
    else if s.mem.stores.any fun e => cellOf e.core == cell && e.held.isNone then .next s
    else
      let s1 := (s.mem.stores.filter fun e => cellOf e.core == cell).foldl (fun t e => storeWrite e t) s
      .next (retireCell cell (s1.fab.relocQ.foldl (fun t _ => relocateNext t) s1))

/-! ### Translation services (R190, R191) -/

/-- STAGE2_LOAD: the hive die loads the 48 entries of a VF that a queued miss names; a resident copy is always as firmware left
the entries (R190). -/
def execStage2Load (vf : Nat) (s : State) : Outcome State Fault Refusal :=
  .next (if s.trans.misses.any fun m => m.vf == vf then noteResident vf s else s)

/-- PAGE_WALK: a walker of a die takes the queue's next miss, once its VF's stage-2 entries are resident, and every cell that
waits for the page is served by that walk (R190, R191). -/
def execPageWalk (die : Nat) (s : State) : Outcome State Fault Refusal :=
  match nextMiss die s with
  | none => .next s
  | some m =>
    if !s.trans.resident.contains m.vf then .next s
    else .next (serveMiss die m s)

/-! ### Budget periods (R243) -/

/-- PERIOD_REFILL: a VF's next allocation period starts; what was left is dropped. -/
def execPeriodRefill (vf : Nat) (s : State) : Outcome State Fault Refusal :=
  match s.trans.acct? vf with
  | none => .next s
  | some a =>
    if a.periodStart + a.period ≤ s.now then
      .next (setAcct s vf fun a => { a with budget := a.alloc, granted := a.alloc, periodStart := s.now, lowPosted := false })
    else .next s

end Sys2Proof.Machine
end

