-- ==== Sys2Proof/Machine/PowerCtl.lean ====
section
/-!
DEFINITION. Tokens, cadence, estimation, clocks and supply, thermal control and the emergency save (R372-R386).
-/

namespace Sys2Proof.Machine

open Host (Outcome)

def setPow (f : Power → Power) (s : State) : State := { s with pow := f s.pow }
def setPf (f : PfState → PfState) (s : State) : State := { s with pf := f s.pf }

/-! ### Tokens (R372) -/

/-- The 1 ms interval of GCYCLE now. -/
def interval (s : State) : Nat := s.now / 1250000

/-- The chip's budget for the current interval, in mJ: its grant, plus what was traded in, minus what was traded out. -/
def chipBudget (s : State) : Nat :=
  let live := s.pow.trades.filter fun t => decide (t.1 ≤ interval s)
  let sum := fun (b : Bool) => ((live.filter fun t => t.2.1 == b).map fun t => t.2.2).sum
  s.pow.grant + sum true - sum false

/-- What the capping loop plans against: 90 % of the budget while the estimator has fallen back (R378). -/
def planBudget (s : State) : Nat := if s.pf.est then chipBudget s * 9 / 10 else chipBudget s

/-- TOKEN_GRANT. -/
def execTokenGrant (mj : Nat) (s : State) : Outcome State Fault Refusal :=
  .next (setPow (fun p => { p with grant := mj, grantAt := interval s }) s)

/-- TOKEN_TRADE: it holds from the next interval; only the unused part of the grant can be offered. -/
def execTokenTrade (inward : Bool) (mj : Nat) (s : State) : Outcome State Fault Refusal :=
  let out := ((s.pow.trades.filter fun t => !t.2.1).map fun t => t.2.2).sum
  if inward ∨ out + mj ≤ s.pow.grant then
    .next (setPow (fun p => { p with trades := p.trades ++ [(interval s + 1, inward, mj)] }) s)
  else .next s

/-- FALLBACK_GRANT: no grant for 10 consecutive intervals, the one that runs not counted. -/
def execFallbackGrant (s : State) : Outcome State Fault Refusal :=
  if s.pow.grantAt + 10 < interval s then .next (setPow (fun p => { p with grant := s.pf.flash.fallback }) s) else .next s

/-! ### Cadence (R374-R376) -/

def setColl (id : Nat) (f : Coll → Coll) (s : State) : State :=
  setPow (fun p => { p with colls := p.colls.map fun c => if c.id == id then f c else c }) s

/-- The power share of a node: those of the VFs placed on it (R373). -/
def nodeShare (n : Nat) (s : State) : Nat := ((s.trans.vfs.filter fun f => f.node == n).map (·.share)).sum

/-- No VF has a runnable, running, waiting or pre-empted continuation on a node (R17). -/
def nodeIdle (num : Nat) (s : State) : Bool := s.trans.vfs.all fun f => f.node != num || !vfPresent f.id s

/-- A node's part of what the loop plans against, in mJ for each interval: in proportion to its share among the active nodes that
are not idle; that of an idle node goes to the others (R373). With no share assigned to any of them the budget is not divided (log 92). -/
def nodeBudget (n : Nat) (s : State) : Nat :=
  let busy := (s.sch.nodes.map (·.num)).filter fun m => !nodeIdle m s
  let all := (busy.map fun m => nodeShare m s).sum
  if nodeIdle n s then 0 else if all = 0 then planBudget s else planBudget s * nodeShare n s / all

/-- The energy the loop plans with: the estimator's prediction, in the fallback scaled to what the board measures (R378); `chip` is
the chip's energy in an interval as the estimator has it, mJ. -/
def planEnergy (chip e : Nat) (s : State) : Nat :=
  if s.pf.est && decide (0 < chip) then e * s.pow.measured / 1000 / chip else e

/-- The smallest cadence 1-16 whose predicted energy fits a node's share; 16 where none does (R374). An idle node injects nothing and asks
for none (log 92). -/
def needOf (n chip : Nat) (pred : List Nat) (s : State) : Nat :=
  if nodeIdle n s then 1
  else (((List.range 16).find? fun i => decide (planEnergy chip (pred.getD i 0) s ≤ nodeBudget n s)).map (· + 1)).getD 16

/-- A member node is hot (R383). -/
def nodeHot (n : Nat) (s : State) : Bool := s.pow.hot.contains n

/-- The cadence a decision takes (R374, R383): the largest that a member needs, here or on a peer chip, one more than now for a hot
member, 2 at least with a low coolant flow; speeding up by one step. -/
def decideCadence (c : Coll) (x : CapNeed) (s : State) : Nat :=
  let now := c.inForce s
  let ms := c.nodes.zipIdx.map fun n =>
    let m := needOf n.1 x.chip (x.pred.getD n.2 []) s
    if nodeHot n.1 s then Nat.max m (Nat.min 16 (now + 1)) else m
  let far := (x.peers.take c.links.length).map fun p => Nat.min 16 p
  let new := Nat.max (if s.pf.flow then 2 else 1) ((ms ++ far).foldl Nat.max 1)
  if new < now then now - 1 else new

/-- The VFs placed on a node of a collective. -/
def collVfs (c : Coll) (s : State) : List Nat := (s.trans.vfs.filter fun f => c.nodes.contains f.node).map (·.id)

/-- Post a cadence notice to every record of a VF, and keep it in the VF's power status area (R262, R376, R389). -/
def cadenceNotice (payload : Nat) (s : State) (vf : Nat) : State :=
  setAcct (postAll (vfKeys vf s) 0x02 payload s) vf fun a =>
    { a with pwr := (w64 (2 * 2 ^ 56 + payload % 2 ^ 56) :: a.pwr).take 8, notices := (a.notices + 1) % 65536 }

/-- The collective with a pending change that holds by now made. -/
def Coll.settled (c : Coll) (s : State) : Coll :=
  match c.pending with
  | some (n, t) => if t ≤ s.now then { c with cadence := n, pending := none } else c
  | none => c

/-- A decided change becomes pending, with its notices (R375). -/
def pendCadence (coll new t : Nat) (s : State) : State :=
  match s.pow.colls.find? fun c => c.id == coll with
  | none => s
  | some c =>
    (collVfs c s).foldl (cadenceNotice (new + t % 2 ^ 48 * 2 ^ 8))
      (setColl coll (fun c => { c.settled s with pending := some (new, t) }) s)

/-- CAPPING_DECISION. One change is pending at most; REDUCED keeps its cadence (R399). -/
def execCappingDecision (coll : Nat) (x : CapNeed) (s : State) : Outcome State Fault Refusal :=
  match s.pow.colls.find? fun c => c.id == coll with
  | none => .next s
  | some c =>
    let new := decideCadence c x s
    if s.pf.phase ≠ 4 ∨ s.pf.save ∨ (c.settled s).pending.isSome ∨ new = c.inForce s then .next s
    else .next (pendCadence coll new (s.now + (if c.links.isEmpty then 12500 else 125000)) s)

/-- A peer's decision for a collective that spans chips comes in over a working link with its apply cycle (R375, R394); REDUCED keeps its
cadence (R399). -/
def peerDecision (link coll new t : Nat) (s : State) : State :=
  match s.pow.colls.find? fun c => c.id == coll with
  | none => s
  | some c =>
    if c.links.contains link && decide (s.pf.phase = 4) && !s.pf.save && (c.settled s).pending.isNone && decide (s.now < t) &&
        decide (1 ≤ new ∧ new ≤ 16) then pendCadence coll new t s
    else s

/-- CADENCE_APPLY: the pending cadence, which holds from its cycle on, becomes the collective's. -/
def execCadenceApply (coll : Nat) (s : State) : Outcome State Fault Refusal :=
  match (s.pow.colls.find? fun c => c.id == coll).bind (·.pending) with
  | some (new, t) =>
    if t ≤ s.now then .next (setColl coll (fun c => { c with cadence := new, pending := none }) s) else .next s
  | none => .next s

/-! ### Estimation (R377-R379, R242) -/

/-- The factory weight of an event code in pJ. -/
def factoryPj (code : Nat) : Rat := (Config.factoryWeight code).1 / ((Config.factoryWeight code).2 + 1)

/-- The weight of event code `i + 1` in pJ. -/
def eventWeight (i : Nat) (s : State) : Rat := (s.pow.weights[i]?).getD (factoryPj (i + 1))

/-- The energy of counted events, by code from 1 on, in pJ (R377). -/
def eventEnergy (counts : List Nat) (s : State) : Rat :=
  (counts.zipIdx.map fun c => (c.1 : Rat) * eventWeight c.2 s).foldl (· + ·) 0

/-- A die's supply; one never set stands at 0.850 V (log 3). -/
def supplyAt (die : Nat) (s : State) : Supply := (s.pow.supplies.find? fun x => x.die == die).getD ⟨die, 850, 850⟩

/-- A junction sensor's last reading. -/
def tempOf (sensor : Nat) (s : State) : Nat := ((s.pow.temps.find? fun e => e.1 == sensor).map (·.2)).getD 0

/-- The leakage of some clusters in pJ per µs, each by its supply, bias and junction (R377). -/
def leakageOf (clusters : List Nat) (s : State) : Rat :=
  (clusters.map fun k => Config.leakage (supplyAt (k / 16) s).mv (clusterAt k s).bias (tempOf k s)).foldl (· + ·) 0

def dot (a b : List Rat) : Rat := (List.zipWith (· * ·) a b).foldl (· + ·) 0

/-- One recursive least-squares step with forgetting factor 0.98: weights, covariance, event counts and the energy they should
explain (R377). Its arithmetic is exact (log 92). -/
def rlsStep (w : List Rat) (p : List (List Rat)) (x : List Rat) (y : Rat) : List Rat × List (List Rat) :=
  let px := p.map fun row => dot row x
  let d := 98 / 100 + dot x px
  let e := (y - dot x w) / d
  (List.zipWith (fun a b => a + b * e) w px,
    List.zipWith (fun row a => List.zipWith (fun v b => (v - a * b / d) / (98 / 100)) row px) p px)

/-- The refitted weights, each held to 50-150 % of its factory value, and the covariance. -/
def refit (uj : Nat) (counts : List Nat) (s : State) : List Rat × List (List Rat) :=
  let n := counts.length
  let w := (List.range n).map fun i => eventWeight i s
  let p := if s.pow.cov.length = n then s.pow.cov
    else (List.range n).map fun i => (List.range n).map fun j => if i = j then Config.refitSpread else 0
  let y := (uj : Rat) * 1000000 - leakageOf (List.range 128) s * 1000000
  let r := rlsStep w p (counts.map fun (c : Nat) => (c : Rat)) y
  (r.1.zipIdx.map fun v =>
    let f := factoryPj (v.2 + 1)
    if v.1 < f / 2 then f / 2 else if f * 3 / 2 < v.1 then f * 3 / 2 else v.1, r.2)

/-- ESTIMATOR_REFIT: once a second, against the energy in µJ that the shunt measured in it, where there is a reading; `rms` is the
residual's, in µJ. Three residuals in a row above 5 % or no reading fall back, three good refits in a row return. -/
def execEstimatorRefit (shunt : Option Nat) (rms : Nat) (counts : List Nat) (s : State) : Outcome State Fault Refusal :=
  match shunt with
  | none => .next (setPf (fun f => { f with est := true }) (setPow (fun p => { p with goodFits := 0 }) s))
  | some uj =>
    let r := refit uj counts s
    let s1 := setPow (fun p => { p with weights := r.1, cov := r.2 }) s
    if 20 * rms ≤ uj then
      let g := s.pow.goodFits + 1
      .next (setPf (fun f => { f with est := f.est && decide (g < 3) })
        (setPow (fun p => { p with badFits := 0, goodFits := g }) s1))
    else
      let b := s.pow.badFits + 1
      .next (setPf (fun f => { f with est := f.est || decide (3 ≤ b) })
        (setPow (fun p => { p with badFits := b, goodFits := 0 }) s1))

/-- TELEMETRY_READ: in the fallback, the measured power in mW. -/
def execTelemetryRead (mw : Nat) (s : State) : Outcome State Fault Refusal :=
  if s.pf.est then .next (setPow (fun p => { p with measured := mw }) s) else .next s

/-- The leakage of a node in pJ per µs: of each cluster the part of its 16 cells that the node holds (R377, R379, log 92). -/
def nodeLeakage (n : Nat) (s : State) : Rat :=
  let ks := (nodeFrame n).cells.map clusterOf
  (ks.eraseDups.map fun k => leakageOf [k] s * ((ks.filter (· == k)).length : Rat) / 16).foldl (· + ·) 0

/-- What a VF's energy gains in 100 µs, in pJ (R379): that of the events tagged with it, and of its node's leakage and idle energy
the part of its slice time; in the fallback a tenth of the energy measured in 1 ms, divided by the tagged energy of that 1 ms. -/
def energyGain (vf : Nat) (x : EnergyUse) (s : State) : Nat :=
  let own := eventEnergy x.counts s
  let node := ((s.trans.vf? vf).map (·.node)).getD 0
  let part := fun (a b : Rat) => if b = 0 then 0 else a / b
  let gain := if s.pf.est then (s.pow.measured : Rat) * 100000 * part own (eventEnergy x.all s)
    else own + (nodeLeakage node s * 100 + x.idle) * part x.mine x.total
  gain.floor.toNat

/-- ENERGY_REFRESH, every 100 µs. ENERGY counts whole microjoules and never decreases (R242). -/
def execEnergyRefresh (vf : Nat) (x : EnergyUse) (s : State) : Outcome State Fault Refusal :=
  let g := energyGain vf x s
  .next (setAcct s vf fun a => { a with
    energy := w64 (Nat.min (a.energy.toNat + (a.energyPj + g) / 1000000) (2 ^ 64 - 1))
    energyPj := (a.energyPj + g) % 1000000 })

def setCluster (c : Cluster) (s : State) : State :=
  setPow (fun p => { p with clusters := (p.clusters.filter fun x => x.id != c.id) ++ [c] }) s

/-- STALLR_UPDATE (R242). DESIGN CHOICE (log 92): the fraction of stalled core cycles is the row's operand, tied to no count of cycles in
State. -/
def execStallrUpdate (cluster : Nat) (v : BitVec 16) (s : State) : Outcome State Fault Refusal :=
  .next (setCluster { clusterAt cluster s with stallr := v } s)

/-! ### Clocks, bias and supply (R380-R382) -/

/-- V0 of a frequency, in mV. -/
def v0 (f : Nat) : Int :=
  match f with
  | 0 => 600
  | 1 => 650
  | 2 => 700
  | 3 => 775
  | _ => 850

def vmin (f : Nat) (b : Int) : Int := v0 f - 25 * (b / 50)

/-- The voltage a cluster needs, in the setting it has and in the one it is changing to. -/
def clusterVmin (c : Cluster) : Int :=
  match c.settling with
  | some (f, b) => max (vmin c.freq c.bias) (vmin f b)
  | none => vmin c.freq c.bias

def setSupply (x : Supply) (s : State) : State :=
  setPow (fun p => { p with supplies := (p.supplies.filter fun y => y.die != x.die) ++ [x] }) s

def setEff (v : Nat) (s : State) : State := setPf (fun f => { f with eff := v }) s

/-- SETV (R381). A voltage between the 25 mV steps names none (R380). -/
def execSetv (die mv : Nat) (s : State) : Outcome State Fault Refusal :=
  let need := (List.range 16).map fun i => clusterVmin (clusterAt (die * 16 + i) s)
  if mv < 600 then .next (setEff 1 s)
  else if 850 < mv then .next (setEff 2 s)
  else if mv % 25 ≠ 0 then .next s
  else if need.any fun v => decide ((mv : Int) < v) then .next (setEff 3 s)
  else .next (setEff 0 (setSupply { supplyAt die s with target := mv } s))

/-- A stop is under way on a node of the cluster's cells (R382). -/
def stopOnCluster (cluster : Nat) (s : State) : Bool :=
  s.sch.nodes.any fun n => (nodeFrame n.num).cells.any (fun c => clusterOf c == cluster) &&
    (match n.phase with
     | .stopping _ _ => true
     | _ => false)

/-- A request for a cluster whose needed voltage the supply can give (R381): the frequency falls at once, unless a stop holds
frequency changes back (R382); with the bias as it is, the voltage there and nothing settling it also rises at once; else the
voltage rises first and the change settles. -/
def askCluster (cluster freq : Nat) (bias : Int) (s : State) : State :=
  let c := clusterAt cluster s
  let v := vmin freq bias
  let x := supplyAt (cluster / 16) s
  let s1 := if (x.target : Int) < v then setSupply { x with target := v.toNat } s else s
  let held := decide (freq ≠ c.freq) && stopOnCluster cluster s
  let now := bias = c.bias ∧ v ≤ (x.mv : Int) ∧ c.settling.isNone
  if held then setCluster { c with settling := some (freq, bias) } s1
  else if now then setCluster (c.atFreq freq s) s1
  else setCluster { c.atFreq (Nat.min c.freq freq) s with settling := some (freq, bias) } s1

/-- The five frequencies of R11, and a bias of -300 to +200 mV in steps of 50 mV (R380). -/
def fbOk (freq : Nat) (bias : Int) : Bool := decide (freq ≤ 4 ∧ -300 ≤ bias ∧ bias ≤ 200 ∧ bias % 50 = 0)

/-- SETFB (R381). Firmware makes no request that names no frequency or bias of R380, none for another frequency in REDUCED (R399)
and none during an emergency save (R384). -/
def execSetfb (cluster freq : Nat) (bias : Int) (s : State) : Outcome State Fault Refusal :=
  if !fbOk freq bias || (decide (s.pf.phase ≠ 4) && decide (freq ≠ 0)) || s.pf.save then .next s
  else if 850 < vmin freq bias then .next (setEff 4 s)
  else .next (setEff 0 (askCluster cluster freq bias s))

/-- VOLTAGE_STEP_SETTLED: one step of 25 mV toward the target. -/
def execVoltageStepSettled (die : Nat) (s : State) : Outcome State Fault Refusal :=
  let x := supplyAt die s
  let mv := if x.mv < x.target then Nat.min x.target (x.mv + 25) else Nat.max x.target (x.mv - 25)
  .next (setSupply { x with mv := mv } s)

/-- BIAS_SETTLED: the change that settles takes effect once the voltage serves it; a frequency does not change during a stop
(R382). -/
def execBiasSettled (cluster : Nat) (s : State) : Outcome State Fault Refusal :=
  let c := clusterAt cluster s
  match c.settling with
  | some (f, b) =>
    if vmin f b ≤ ((supplyAt (cluster / 16) s).mv : Int) ∧ !(decide (f ≠ c.freq) && stopOnCluster cluster s) then
      .next (setCluster { c.atFreq f s with bias := b, settling := none } s)
    else .next s
  | none => .next s

/-! ### The emergency save (R384) -/

/-- The stride of one context in the save region: header, record, save area, counters, in 64-byte units (log 16). -/
def saveStride : Nat := 106816

/-- Write one context to the save region: header with byte 0 set, its record, save area and counters. -/
def saveContext (base i : Nat) (k : Key) (c : Ctx) (s : State) : State :=
  let seen := hwNoted k.vf c.info.ctrptr.toNat 160 (hwNoted k.vf c.info.saveptr.toNat 106496 (hwNoted k.vf k.rva 64 s))
  match hwRead k.vf k.rva 64 s, hwRead k.vf c.info.saveptr.toNat 106496 s, hwRead k.vf c.info.ctrptr.toNat 160 s with
  | some r, some a, some x =>
    setMem (fun m => m.writeAll (base + i * saveStride) ((1 : Byte) :: List.replicate 63 0 ++ r ++ a ++ x)) seen
  | _, _, _ => seen

/-- The header of the `i`-th context shows it not saved, where the region has room for it. -/
def clearHeader (base size i : Nat) (s : State) : State :=
  if (i + 1) * saveStride ≤ size then setMem (fun m => m.writeAll (base + i * saveStride) [0]) s else s

/-- The dies are turned off and the package held in reset until the host restarts it. -/
def powerOff (s : State) : State :=
  let t := packageReset s
  { t with
    pow := { t.pow with off := true, saveRegion := s.pow.saveRegion }
    pf := { t.pf with save := s.pf.save, flow := s.pf.flow } }

/-- Every VF has been stopped and saved by the synchronised stop. -/
def allStopped (s : State) : Bool :=
  s.sch.nodes.all fun n => match n.phase with
    | .idle => true
    | .stopped => true
    | _ => false

/-- The contexts to be saved, in order. -/
def savedCtxs (s : State) : List (Key × Ctx) := s.sch.images.map fun i => ((⟨i.vf, i.rva⟩ : Key), i.ctx)

/-- Begin the emergency save: cadence 16 and 0.625 GHz everywhere, a stop of every VF, and no context saved (R384). A cluster with a stop
under way changes its frequency after that stop (R382). -/
def beginSave (s : State) : State :=
  let s1 := setPf (fun f => { f with save := true }) s
  let s2 := setPow (fun p => { p with
    colls := p.colls.map fun c => { c with cadence := 16, pending := none }
    clusters := p.clusters.map fun c =>
      if stopOnCluster c.id s then { c with settling := some (0, c.bias) } else { c.atFreq 0 s with settling := none }
    saved := 0 }) s1
  let s3 := match s.pow.saveRegion with
    | some (b, n) => (List.range (allCtxs s).length).foldl (fun t i => clearHeader b n i t) s2
    | none => s2
  s3.sch.nodes.foldl (fun s n => stopNode n.num s) s3

/-- Once every VF is stopped, the save writes one context after another; with all dealt with, the dies are turned off. A context
past the region's end is not saved. -/
def saveNext (s : State) : State :=
  if !s.pf.save || !allStopped s then s
  else match (savedCtxs s)[s.pow.saved]?, s.pow.saveRegion with
    | some (k, c), some (b, n) =>
      let i := s.pow.saved
      let t := setPow (fun p => { p with saved := i + 1 }) s
      if (i + 1) * saveStride ≤ n then saveContext b i k c t else t
    | _, _ => powerOff s

/-- Start the emergency save, or go on with it. -/
def emergency (s : State) : State := if s.pf.save then saveNext s else beginSave s

/-! ### Thermal (R383, R385) -/

/-- The refresh step of a stack at a temperature, from the step it has: each reverts 3 °C below its threshold (R385). -/
def refreshStep (t r : Nat) : Nat :=
  if 105 < t ∨ (3 ≤ r ∧ 102 < t) then 3
  else if 95 < t ∨ (2 ≤ r ∧ 92 < t) then 2
  else if 85 < t ∨ (1 ≤ r ∧ 82 < t) then 1
  else 0

/-- The hottest cluster junction of a node's dies (R383). -/
def hottest (n : Nat) (s : State) : Nat :=
  let f := nodeFrame n
  ((s.pow.temps.filter fun e => decide (f.die * 16 ≤ e.1 ∧ e.1 < (f.die + f.dies) * 16)).map (·.2)).foldl Nat.max 0

/-- A reading is held, and each node is hot from 100 °C of its hottest junction until that falls below 97 °C. -/
def noteTemp (sensor degC : Nat) (s : State) : State :=
  let s1 := setPow (fun p => { p with temps := (sensor, degC) :: p.temps.filter fun e => e.1 != sensor }) s
  let hot := (s1.sch.nodes.map (·.num)).filter fun n =>
    decide (100 ≤ hottest n s1) || (s.pow.hot.contains n && decide (97 ≤ hottest n s1))
  setPow (fun p => { p with hot := hot }) s1

/-- THERMAL_SAMPLE: sensors 0-127 are the clusters, 128-131 the store dies, 132-139 the stacks (log 16). A save that has begun
goes on. -/
def execThermalSample (sensor degC : Nat) (s : State) : Outcome State Fault Refusal :=
  if 118 ≤ degC then .next (powerOff s)
  else
    let s1 := noteTemp sensor degC s
    let old := ((s.pow.refresh.find? fun e => e.1 == sensor - 132).map (·.2)).getD 0
    let step := if 132 ≤ sensor then refreshStep degC old else 0
    let s2 := if 132 ≤ sensor then
        setPow (fun p => { p with refresh := (p.refresh.filter fun e => e.1 != sensor - 132) ++
          (if step = 0 then [] else [(sensor - 132, step)]) }) s1
      else s1
    if 108 ≤ degC ∨ step = 3 ∨ s.pf.save then .next (emergency s2) else .next s2

/-- COOLANT_FLOW_LOW: the coolant monitor reads a flow, in tenths of a litre per minute: below 6 L/min it shows in the PF
status, below 3 L/min the emergency save starts. -/
def execCoolantFlowLow (dl : Nat) (s : State) : Outcome State Fault Refusal :=
  let s1 := setPf (fun f => { f with flow := decide (dl < 60) }) s
  if dl < 30 ∨ s.pf.save then .next (emergency s1) else .next s1

/-! ### Chip links (R394) -/

/-- CHIP_LINK_FAILURE: the peer leaves every collective that spans chips, and its commands under way end: what has arrived of each fills
its slot (R258). -/
def execChipLinkFailure (link : Nat) (s0 : State) : Outcome State Fault Refusal :=
  let s := endPeers (fun e => e.1 == link) s0
  .next (setPow (fun p => { p with colls := p.colls.map fun c => { c with links := c.links.filter (· != link) } })
    (setPf (fun f => { f with linksDown := f.linksDown.filter (· != link) ++ [link] }) s))

end Sys2Proof.Machine
end

