-- ==== Sys2Proof/Machine/Sm.lean ====
section
/-!
DEFINITION. SM3 and SM2, which R395 and R396 name by their standards, GB/T 32905 and GB/T 32918: the digest of some bytes, and the
signature over it. PRESUMED (log 98): the spec prints neither standard; both are written here as published.
-/

namespace Sys2Proof.Machine

/-! ### SM3 (GB/T 32905) -/

/-- A number from bytes, the most significant first, as both standards have it. -/
def beNat (bs : List Byte) : Nat := bs.foldl (fun a b => a * 256 + b.toNat) 0

/-- The `n` bytes of a number, the most significant first. -/
def beBytes (n v : Nat) : List Byte := (bytesOf n v).reverse

def sm3P0 (x : W32) : W32 := x ^^^ x.rotateLeft 9 ^^^ x.rotateLeft 17
def sm3P1 (x : W32) : W32 := x ^^^ x.rotateLeft 15 ^^^ x.rotateLeft 23

/-- The message with its padding: a one bit, zeros, and its length in bits. -/
def sm3Pad (m : List Byte) : List Byte :=
  m ++ (0x80 : Byte) :: List.replicate ((119 - m.length % 64) % 64) 0 ++ beBytes 8 (8 * m.length)

/-- The message words of a block, expanded by `n`. -/
def sm3Expand : Nat → List W32 → List W32
  | 0, w => w
  | n + 1, w =>
    let g := fun (i : Nat) => w.getD (w.length - i) 0
    sm3Expand n (w ++ [sm3P1 (g 16 ^^^ g 9 ^^^ (g 3).rotateLeft 15) ^^^ (g 13).rotateLeft 7 ^^^ g 6])

/-- The eight chaining words. -/
structure Sm3 where
  a : W32
  b : W32
  c : W32
  d : W32
  e : W32
  f : W32
  g : W32
  h : W32
deriving DecidableEq, Repr

def sm3Start : Sm3 := ⟨0x7380166F, 0x4914B2B9, 0x172442D7, 0xDA8A0600, 0xA96F30BC, 0x163138AA, 0xE38DEE4D, 0xB0FB0E4E⟩

/-- Round `j` of the compression, with the expanded words `w`. -/
def sm3Round (w : List W32) (v : Sm3) (j : Nat) : Sm3 :=
  let early := decide (j < 16)
  let t : W32 := if early then 0x79CC4519 else 0x7A879D8A
  let a12 := v.a.rotateLeft 12
  let ss1 := (a12 + v.e + t.rotateLeft (j % 32)).rotateLeft 7
  let ff := if early then v.a ^^^ v.b ^^^ v.c else (v.a &&& v.b) ||| (v.a &&& v.c) ||| (v.b &&& v.c)
  let gg := if early then v.e ^^^ v.f ^^^ v.g else (v.e &&& v.f) ||| (~~~v.e &&& v.g)
  let wj := w.getD j 0
  let tt1 := ff + v.d + (ss1 ^^^ a12) + (wj ^^^ w.getD (j + 4) 0)
  let tt2 := gg + v.h + ss1 + wj
  ⟨tt1, v.a, v.b.rotateLeft 9, v.c, sm3P0 tt2, v.e, v.f.rotateLeft 19, v.g⟩

/-- The compression of one block of 64 bytes. -/
def sm3Block (v : Sm3) (b : List Byte) : Sm3 :=
  let w := sm3Expand 52 ((List.range 16).map fun i => BitVec.ofNat 32 (beNat ((b.drop (4 * i)).take 4)))
  let r := (List.range 64).foldl (sm3Round w) v
  ⟨r.a ^^^ v.a, r.b ^^^ v.b, r.c ^^^ v.c, r.d ^^^ v.d, r.e ^^^ v.e, r.f ^^^ v.f, r.g ^^^ v.g, r.h ^^^ v.h⟩

/-- The SM3 digest of some bytes: 32 bytes (GB/T 32905). -/
def digest (m : List Byte) : List Byte :=
  let p := sm3Pad m
  let v := (List.range (p.length / 64)).foldl (fun v i => sm3Block v ((p.drop (64 * i)).take 64)) sm3Start
  [v.a, v.b, v.c, v.d, v.e, v.f, v.g, v.h].flatMap fun x => beBytes 4 x.toNat

/-! ### SM2 (GB/T 32918) -/

/-! The recommended curve y² = x³ + ax + b over the field of p, its base point and the order n of it. -/
def sm2P : Nat := 0xFFFFFFFEFFFFFFFFFFFFFFFFFFFFFFFFFFFFFFFF00000000FFFFFFFFFFFFFFFF
def sm2A : Nat := sm2P - 3
def sm2B : Nat := 0x28E9FA9E9D9F5E344D5A9E4BCF6509A7F39789F515AB8F92DDBCBD414D940E93
def sm2N : Nat := 0xFFFFFFFEFFFFFFFFFFFFFFFFFFFFFFFF7203DF6B21C6052B53BBF40939D54123
def sm2Gx : Nat := 0x32C4AE2C1F1981195F9904466A39C9948FE30BBFF2660BE1715A4589334C74C7
def sm2Gy : Nat := 0xBC3736A2F4F6779C59BDCEE36B692153D0A9877CC62A474002DF32E52139F0A0

/-- `b` to the power of an exponent of at most `k` bits, modulo `m`. -/
def powMod (m : Nat) : Nat → Nat → Nat → Nat
  | 0, _, _ => 1
  | k + 1, b, e =>
    let h := powMod m k (b * b % m) (e / 2)
    if e % 2 = 1 then b * h % m else h

/-- The inverse modulo a prime below 2^256. -/
def invMod (m x : Nat) : Nat := powMod m 256 (x % m) (m - 2)

def subMod (m a b : Nat) : Nat := (a % m + (m - b % m)) % m

/-- A point of the curve; none is the point at infinity. -/
abbrev Sm2Point := Option (Nat × Nat)

/-- The sum of two points. -/
def sm2Add (p q : Sm2Point) : Sm2Point :=
  match p, q with
  | none, q => q
  | p, none => p
  | some (x1, y1), some (x2, y2) =>
    if x1 = x2 ∧ (y1 + y2) % sm2P = 0 then none
    else
      let l := (if x1 = x2 then (3 * x1 * x1 + sm2A) * invMod sm2P (2 * y1)
        else subMod sm2P y2 y1 * invMod sm2P (subMod sm2P x2 x1)) % sm2P
      let x3 := subMod sm2P (l * l) (x1 + x2)
      some (x3, subMod sm2P (l * subMod sm2P x1 x3) y1)

/-- A point times a number of at most `k` bits. -/
def sm2Mul : Nat → Nat → Sm2Point → Sm2Point
  | 0, _, _ => none
  | k + 1, n, p =>
    let h := sm2Mul k (n / 2) (sm2Add p p)
    if n % 2 = 1 then sm2Add p h else h

def sm2G : Sm2Point := some (sm2Gx, sm2Gy)

/-- A pair lies on the curve. -/
def sm2OnCurve (x y : Nat) : Bool :=
  decide (x < sm2P ∧ y < sm2P ∧ y * y % sm2P = (x * x * x + sm2A * x + sm2B) % sm2P)

/-- The number that a signature is over: the digest of the signer's and the message's, the signer under the standard's default
name. -/
def sm2Hash (x y : Nat) (m : List Byte) : Nat :=
  let name : List Byte := [0x31, 0x32, 0x33, 0x34, 0x35, 0x36, 0x37, 0x38, 0x31, 0x32, 0x33, 0x34, 0x35, 0x36, 0x37, 0x38]
  let z := digest (beBytes 2 128 ++ name ++ [sm2A, sm2B, sm2Gx, sm2Gy, x, y].flatMap (beBytes 32))
  beNat (digest (z ++ m))

/-- A public key's 64 bytes verify a signature of 64 bytes over a message. -/
def sm2Verify (key m sig : List Byte) : Bool :=
  let x := beNat (key.take 32)
  let y := beNat (key.drop 32)
  let r := beNat (sig.take 32)
  let s := beNat (sig.drop 32)
  let t := (r + s) % sm2N
  decide (key.length = 64 ∧ sig.length = 64 ∧ 1 ≤ r ∧ r < sm2N ∧ 1 ≤ s ∧ s < sm2N ∧ t ≠ 0) && sm2OnCurve x y &&
    (match sm2Add (sm2Mul 256 s sm2G) (sm2Mul 256 t (some (x, y))) with
     | some (x1, _) => (sm2Hash x y m + x1) % sm2N == r
     | none => false)

/-- The private key a number stands for: itself from 1 to n - 2, as the standard asks; else brought into that range. -/
def sm2Private (d : Nat) : Nat := 1 + (d - 1) % (sm2N - 2)

/-- The public key of a private one, as 64 bytes. -/
def sm2Public (d : Nat) : List Byte :=
  match sm2Mul 256 (sm2Private d) sm2G with
  | some (x, y) => beBytes 32 x ++ beBytes 32 y
  | none => List.replicate 64 0

/-- A signature over the number `e` from one random number `k` of 1 to n - 1; none where the standard has the signer draw again: r
or s is 0, or r + k is n. -/
def sm2Try (d k e : Nat) : Option (List Byte) :=
  match sm2Mul 256 k sm2G with
  | none => none
  | some (x1, _) =>
    let r := (e + x1) % sm2N
    let s := invMod sm2N (1 + d) * subMod sm2N k (r * d) % sm2N
    if r = 0 ∨ r + k = sm2N ∨ s = 0 then none else some (beBytes 32 r ++ beBytes 32 s)

/-- Draw until a signature stands: the numbers drawn are the digits of `k` to the base n - 1, each brought into 1 to n - 1, the later
ones with the draws that are left added, so that no two draws are one number for want of digits. -/
def sm2Draw (d e : Nat) : Nat → Nat → List Byte
  | 0, _ => List.replicate 64 0
  | n + 1, k =>
    match sm2Try d (1 + (k - 1) % (sm2N - 1)) e with
    | some sig => sig
    | none => sm2Draw d e n ((k - 1) / (sm2N - 1) + n)

/-- The signature with private key `d` over a message, `k` being the signer's random numbers. -/
def sm2Sign (d k : Nat) (m : List Byte) : List Byte :=
  match sm2Mul 256 (sm2Private d) sm2G with
  | some (x, y) => sm2Draw (sm2Private d) (sm2Hash x y m) 64 k
  | none => List.replicate 64 0

end Sys2Proof.Machine
end

