-- ==== Sys2Proof/Machine/PfCmd.lean ====
section
/-!
DEFINITION. Boot and the PF commands (R17, R303, R363, R373, R374, R384, R388, R391, R395-R399). The arguments' places in the
command area are log 16.
-/

namespace Sys2Proof.Machine

open Host (Outcome)

/-! ### Boot (R395-R399) -/

/-- Boot stops with a failure code. -/
def bootFail (code : Nat) (s : State) : State := setPf (fun f => { f with phase := 15, fail := code }) s

/-- The image's signature verifies with the key whose digest the ROM holds (R395). -/
def Flash.imageOk (f : Flash) : Bool :=
  digest f.key == (List.range 32).map Config.romDigest && sm2Verify f.key (digest f.image) f.imageSig

/-- The configuration's signature verifies with firmware's key (R397). -/
def Flash.configOk (f : Flash) : Bool := sm2Verify f.fwKey (digest f.config) f.configSig

/-- POWER_ON_RESET: the ROM starts; then it loads the image and verifies its signature, and firmware runs (R395, R398). It also
ends a power-off. -/
def execPowerOnReset (s : State) : Outcome State Fault Refusal :=
  match s.pf.phase with
  | 0 => .next (setPow (fun p => { p with off := false }) (setPf (fun f => { f with phase := 1, save := false }) s))
  | 1 =>
    if !s.pf.flash.imagePresent then .next (bootFail 1 s)
    else if !s.pf.flash.imageOk then .next (bootFail 2 s)
    else .next (setPf (fun f => { f with phase := 2 }) s)
  | _ => .next s

/-- ENTER_REDUCED: configuration, identity key and memory training have succeeded (R395, R397, R399). -/
def execEnterReduced (s : State) : Outcome State Fault Refusal :=
  if s.pf.phase ≠ 2 then .next s
  else if !s.pf.flash.configOk then .next (bootFail 3 s)
  else if !s.pf.flash.pufOk then .next (bootFail 4 s)
  else if !s.pf.flash.hbmOk then .next (bootFail 5 s)
  else .next (setPow (fun p => { p with calib := s.pf.flash.calib })
    (setFab (fun f => { f with remap := s.pf.flash.remap }) (setPf (fun f => { f with phase := 3 }) s)))

/-- ENTER_FULL: every cluster goes to 1.25 GHz as a request for it would, with the bias it has where the supply can serve that
(R380-R382, log 92); cadences then fall one step per decision (R399). Not during an emergency save (R384). -/
def execEnterFull (s : State) : Outcome State Fault Refusal :=
  if s.pf.phase ≠ 3 ∨ s.pf.save then .next s
  else
    let ask := fun (s : State) (k : Nat) =>
      let b := (clusterAt k s).bias
      askCluster k 4 (if vmin 4 b ≤ 850 then b else 0) s
    .next ((List.range 128).foldl ask (setPf (fun f => { f with phase := 4 }) s))

/-- The part serves (R395, R398). -/
def serves (s : State) : Bool := decide (s.pf.phase = 3 ∨ s.pf.phase = 4) && !s.pow.off

/-! ### Commands -/

/-- A command's end: its status (0 done, 1 unknown, 2 bad argument, 3 refused) and the state; a failed one changes nothing. -/
abbrev PfRes := Except Nat State

/-- The status of a command that waits. -/
def pfBusy : Nat := 2 ^ 63

/-- Run a command: the status word shows how it ended, or that it is busy (R390). A part that does not serve ignores it. -/
def pfRun (s : State) (r : PfRes) : State :=
  if !serves s then s
  else match r with
    | .ok t => setPf (fun f => { f with cmdStatus := 0 }) t
    | .error c => setPf (fun f => { f with cmdStatus := w64 c }) s

/-- The command in an endpoint's area is busy. -/
def pfWaits (s : State) : Bool := s.pf.cmdStatus.getLsbD 63

/-- A command that firmware meets outside a command area: none is begun while the area's command is busy, or that has to wait. -/
def pfRow (s : State) (r : PfRes) : State :=
  if pfWaits s then s
  else match r with
  | .error c => if c = pfBusy then s else pfRun s r
  | .ok _ => pfRun s r

/-- The command area, status and report of the other endpoint's PF change places with those that commands use (R387). -/
def swapPf (s : State) : State :=
  setPf (fun f => { f with
    cmd := f.second.cmd
    cmdStatus := f.second.cmdStatus
    report := f.second.report
    second := ⟨f.cmd, f.cmdStatus, f.report⟩ }) s

/-- Act on an endpoint's PF. -/
def onPf (endpoint : Nat) (f : State → State) (s : State) : State := if endpoint = 0 then f s else swapPf (f (swapPf s))

/-- A demand, or a status. -/
def pfMust (b : Bool) (code : Nat) : Except Nat Unit := if b then .ok () else .error code

/-- Two nodes of the tree overlap: one contains the other. -/
def nodesMeet (a b : Nat) : Bool :=
  let f := nodeFrame a
  let g := nodeFrame b
  f.hasCell (g.cell 0 0 0) || g.hasCell (f.cell 0 0 0)

/-- A node's collective of its own (R374). -/
def ownColl (num : Nat) : Nat := 65536 + num

/-- Nodes become inactive, and leave their collectives. -/
def dropNodes (gone : List Nat) (s : State) : State :=
  setPow (fun p => { p with colls :=
      (p.colls.map fun c => { c with nodes := c.nodes.filter fun n => !gone.contains n }).filter fun c => !c.nodes.isEmpty })
    (setSch (fun t => { t with nodes := t.nodes.filter fun n => !gone.contains n.num }) s)

/-- Make a node active, in place of the idle nodes it overlaps: a split or a merge (R16, R17). In REDUCED its cadence is 4
(R399). DESIGN CHOICE (log 103): the idle VFs of a node that goes keep its number, so that the node hosts them again, and may give them
slices, once an ASSIGNVF makes that number active anew; till then they have no slice unless they are assigned themselves. -/
def activate (num : Nat) (s : State) : State :=
  if (nodeAt num s).isSome then s
  else
    let s1 := dropNodes ((s.sch.nodes.filter fun n => nodesMeet n.num num).map (·.num)) s
    setPow (fun p => { p with colls := p.colls ++ [⟨ownColl num, [num], if s.pf.phase = 3 then 4 else 1, none, []⟩] })
      (setSch (fun t => { t with nodes := t.nodes ++ [⟨num, List.replicate 16 (0, 0, false), 15, .idle, false⟩] }) s1)

/-- A VF has left a node: its slice entries there are not valid any more, its pages pass to the VFs that stay, as firmware chooses
(R164, log 22), and with no VF left the node is not active (R17, R337). -/
def leaveNode (vf node : Nat) (s : State) : State :=
  match (s.trans.vfs.filter fun f => f.node == node).map (·.id) with
  | [] => dropNodes [node] s
  | v :: vs =>
    let pass := fun (e : Nat × Nat × Nat) =>
      if e.2.2 = vf && (nodeFrame node).hasCell (cellOf e.1) then
        (e.1, e.2.1, (v :: vs).getD (Config.pageShare s.freeNo e.1 e.2.1 % (vs.length + 1)) v) else e
    let t := setFab (fun f => { f with pageOwner := f.pageOwner.map pass }) { s with freeNo := s.freeNo + 1 }
    setNode node (fun n => { n with slices := n.slices.map fun e => if e.1 = vf then (0, 0, false) else e }) t

/-- Physical ranges the host assigns to a VF: HBM below firmware's GiB, and the tier-3 memory of its own endpoint
(R387, R388, log 16). -/
def vfRanges (vf : Nat) : List (Nat × Nat) :=
  let t := 140737488355328 + vf / 512 * 2 ^ 46
  [(0, 0x76F5940000), (t, t + 2 ^ 46)]

/-- A new VF: every slot at generation 0, every queue enabled with priority 0 and weight 1, launch window in firmware's memory. -/
def Vf.fresh (vf node share : Nat) (compat : Bool) : Vf where
  id := vf
  node := node
  compat := compat
  share := share
  root := 0
  s2 := Vector.replicate 48 0
  gens := []
  ranges := []
  hostRanges := vfRanges vf
  svec := 0
  scopecap := .sys
  queues := Vector.replicate 16 0x100
  queueCredit := Vector.replicate 16 0
  launchBase := 0x76F5940000 + vf * 16384

def VfAcct.fresh (vf now : Nat) : VfAcct where
  id := vf
  budget := 0
  alloc := 0
  granted := 0
  period := 0
  periodStart := now
  lowPosted := false
  weight := 1
  energy := 0
  energyPj := 0
  seq := 0
  mbox := none
  s2wait := false
  request := []
  overflow := []
  pwr := []
  notices := 0

/-- The page ownership map of a node that several VFs share, as firmware sets it (R164): free. -/
def mapPages (num : Nat) (s : State) : State :=
  let vs := (s.trans.vfs.filter fun f => f.node == num).map (·.id)
  let cores := nodeCores num
  let owner := fun (c p : Nat) => vs.getD (Config.pageShare s.freeNo c p % vs.length) 0
  let mine := if vs.length ≤ 1 then [] else cores.flatMap fun c => (List.range 48).map fun p => (c, p, owner c p)
  { s with
    fab := { s.fab with pageOwner := (s.fab.pageOwner.filter fun e => !cores.contains e.1) ++ mine }
    freeNo := s.freeNo + 1 }

/-- ASSIGNVF (R17, R373, R391, R399). A new mode for a VF that is there, which none of its continuations may be using, bumps every
slot, as SETS2 does (R194, log 16). -/
def assignVf (vf node share : Nat) (compat : Bool) (s : State) : PfRes := do
  pfMust (decide (vf < 1024 ∧ node < 4095)) 2
  let f := nodeFrame node
  let moded := (s.trans.vf? vf).any fun x => x.compat != compat
  pfMust (!moded || !vfPresent vf s) 3
  pfMust (s.pf.phase != 3 || decide (f.die + f.dies ≤ 2)) 3
  pfMust ((s.trans.vf? vf).all fun x => x.node == node || !vfPresent vf s) 3
  pfMust (s.sch.nodes.all fun n => n.num == node || !nodesMeet n.num node || nodeIdle n.num s) 3
  pfMust (decide ((s.trans.vfs.filter fun x => x.node == node && x.id != vf).length < 16)) 3
  pfMust (!moded || !vfBusy vf s) pfBusy
  let s1 := activate node s
  let s2 := match s1.trans.vf? vf with
    | some x =>
      let t := setVf s1 vf fun x => { x with node := node, share := share, compat := compat }
      let u := if x.node = node then t else leaveNode vf x.node t
      if moded then bumpAll vf u else u
    | none => { s1 with trans := { s1.trans with
        vfs := s1.trans.vfs ++ [Vf.fresh vf node share compat]
        acct := s1.trans.acct ++ [VfAcct.fresh vf s.now] } }
  .ok (mapPages node s2)

def execAssignvf (vf node share : Nat) (compat : Bool) (s : State) : Outcome State Fault Refusal :=
  .next (pfRow s (assignVf vf node share compat s))

/-- A stage-2 entry keeps to the ranges the host assigned, clear of reserved and firmware-owned memory (R187, R388). -/
def s2Allowed (f : Vf) (e : W128) : Bool :=
  let lo := s2Host e * 65536
  let hi := lo + (s2Limit e + 1 - s2Base e) * 65536
  f.hostRanges.any fun r => decide (r.1 ≤ lo ∧ hi ≤ r.2)

/-- A range register of a compatibility-mode VF, laid out as a stage-2 entry with the intermediate base in HOST (R196). -/
def rangeReg (e : W128) : CRange :=
  if s2Valid e then ⟨s2Base e, s2Limit e, s2Host e, e.getLsbD 112, e.getLsbD 113, e.getLsbD 114⟩ else ⟨1, 0, 0, false, false, false⟩

/-- SETS2 (R187, R194, R391): entries 0-47; for a compatibility-mode VF, 48-111 are its range registers (R196, log 16). It is busy
until every access under the old generations has been performed (R194). DESIGN CHOICE (log 104): a valid entry whose BASE lies above its
LIMIT has a bad argument, status 2, and the old entry stays. -/
def setS2 (vf i : Nat) (e : W128) (s : State) : PfRes := do
  match s.trans.vf? vf with
  | none => .error 2
  | some f =>
    pfMust (decide (i < 48) || (f.compat && decide (i < 112))) 2
    pfMust (decide (fld e.toNat 115 13 = 0 ∧ fld e.toNat 1 15 = 0)) 2
    pfMust (!s2Valid e || decide (s2Base e ≤ s2Limit e)) 2
    pfMust (!s2Valid e || decide (48 ≤ i) || s2Allowed f e) 3
    pfMust (!vfBusy vf s) pfBusy
    let pad := f.ranges ++ List.replicate (64 - f.ranges.length) ⟨1, 0, 0, false, false, false⟩
    let s1 := if i < 48 then setVf s vf fun f => { f with s2 := f.s2.set! i e }
      else setVf s vf fun f => { f with ranges := pad.set (i - 48) (rangeReg e) }
    .ok (bumpAll vf s1)

def execSets2 (vf i : Nat) (e : W128) (s : State) : Outcome State Fault Refusal := .next (pfRow s (setS2 vf i e s))

/-- SETSLICE (R337). -/
def setSlice (node i vf units : Nat) (valid : Bool) (s : State) : PfRes := do
  pfMust ((nodeAt node s).isSome && decide (i < 16)) 2
  pfMust (!valid || decide (1 ≤ units ∧ units ≤ 255)) 2
  pfMust (!valid || (s.trans.vf? vf).any fun f => f.node == node) 3
  .ok (setNode node (fun n => { n with slices := n.slices.set i (vf, units, valid) }) s)

def execSetslice (node i vf units : Nat) (valid : Bool) (s : State) : Outcome State Fault Refusal :=
  .next (pfRow s (setSlice node i vf units valid s))

/-- The cadence of the collective a node leaves. -/
def nodeCadence (node : Nat) (s : State) : Nat :=
  ((s.pow.colls.find? fun c => c.nodes.contains node).map (·.inForce s)).getD 1

/-- SETCOLL (R374): a node joins a collective; 4096 and above name the peer chip on a link (log 16). -/
def setColl' (node coll : Nat) (s : State) : PfRes := do
  if 4096 ≤ node then
    pfMust (decide (node < 4112) && s.pow.colls.any fun c => c.id == coll) 2
    pfMust (!s.pf.linksDown.contains (node - 4096)) 3
    .ok (setColl coll (fun c => { c with links := c.links.filter (· != node - 4096) ++ [node - 4096] }) s)
  else
    pfMust (nodeAt node s).isSome 2
    let cad := nodeCadence node s
    .ok (setPow (fun p =>
      let left := (p.colls.map fun c => { c with nodes := c.nodes.filter (· != node) }).filter
        fun c => !c.nodes.isEmpty || c.id == coll
      { p with colls := if left.any fun c => c.id == coll then
          left.map fun c => if c.id == coll then { c with nodes := c.nodes ++ [node] } else c
        else left ++ [⟨coll, [node], cad, none, []⟩] }) s)

def execSetcoll (node coll : Nat) (s : State) : Outcome State Fault Refusal := .next (pfRow s (setColl' node coll s))

/-- SETWAY (R179). -/
def setWay (vf cell : Nat) (mask : BitVec 16) (s : State) : PfRes := do
  pfMust ((s.trans.vf? vf).isSome && decide (cell < 2048)) 2
  .ok (setFab (fun f =>
    let rest := f.waymask.filter fun e => !(e.1 == vf && e.2.1 == cell)
    { f with waymask := if mask = 0xFFFF then rest else rest ++ [(vf, cell, mask)] }) s)

def execSetway (vf cell : Nat) (mask : BitVec 16) (s : State) : Outcome State Fault Refusal :=
  .next (pfRow s (setWay vf cell mask s))

/-- SETSCOPE (R102). -/
def setScope (vf : Nat) (sc : Scope) (s : State) : PfRes := do
  pfMust (s.trans.vf? vf).isSome 2
  .ok (setVf s vf fun f => { f with scopecap := sc })

def execSetscope (vf : Nat) (sc : Scope) (s : State) : Outcome State Fault Refusal := .next (pfRow s (setScope vf sc s))

/-- A mailbox as it stands right after an assignment (R303). -/
def Mailbox.fresh (n : Nat) (vf : Option Nat) : Mailbox where
  n := n
  vf := vf
  state := .idle
  owed := none
  waiting := none
  current := none
  posted := false
  pendingEnd := none
  zeroing := none
  minver := 0
  wdstep := 0
  wdtotal := 0
  image := none
  limStep := 0
  limTotal := 0
  step := 0
  turnStart := 0
  used := 0
  hart := none

/-- SETMBOX (R303): the mailbox is assigned and reset; an observation still owed there will not come. -/
def setMboxOwner (n : Nat) (vf : Option Nat) (s : State) : PfRes := do
  pfMust (decide (n < 256) && vf.all fun v => (s.trans.vf? v).isSome) 2
  let s1 := match (mbox? s n).bind fun m => if m.posted then none else m.owed with
    | some k => onOwner k (fun c => { c with qs := { c.qs with owed := c.qs.owed - 1 } }) s
    | none => s
  .ok { s1 with api := { s1.api with
    mboxes := (s1.api.mboxes.filter fun m => m.n != n) ++ [Mailbox.fresh n vf]
    cores := s1.api.cores.filter fun c => c.2 != n
    queue := s1.api.queue.filter (· != n) } }

def execSetmbox (n : Nat) (vf : Option Nat) (s : State) : Outcome State Fault Refusal :=
  .next (pfRow s (setMboxOwner n vf s))

/-- SETBUDGET (R243, R252): the allocation counts from the next period, the length of the period and the weight at once (log 62);
`period` is in GCYCLE cycles (log 16). -/
def setBudget (vf units period weight : Nat) (s : State) : PfRes := do
  pfMust ((s.trans.vf? vf).isSome && decide (1 ≤ weight ∧ weight ≤ 16)) 2
  .ok (setAcct s vf fun a => { a with alloc := units, period := period, weight := weight })

def execSetbudget (vf units period weight : Nat) (s : State) : Outcome State Fault Refusal :=
  .next (pfRow s (setBudget vf units period weight s))

/-- RESETDIE (R363): refused unless the die is lost. -/
def resetDieCmd (die : Nat) (s : State) : PfRes := do
  pfMust (decide (die < 12)) 2
  pfMust (dieLost s die) 3
  .ok (resetDie die s)

def execResetdie (die : Nat) (s : State) : Outcome State Fault Refusal := .next (pfRow s (resetDieCmd die s))

/-- SAVEREGION (R384): a region of host memory; a save that has begun goes on. -/
def saveRegionCmd (base size : Nat) (s : State) : PfRes := do
  pfMust (decide (140737488355328 ≤ base ∧ base + size ≤ 281474976710656 ∧ 0 < size)) 2
  let s1 := setPow (fun p => { p with saveRegion := some (base, size) }) s
  .ok (if s.pf.save then emergency s1 else s1)

def execSaveregion (base size : Nat) (s : State) : Outcome State Fault Refusal := .next (pfRow s (saveRegionCmd base size s))

/-- The private identity key (R396). -/
def Flash.identity (f : Flash) : Nat := Config.pufKey f.pufHelper

/-- What a report says (R396): nonce, digest of the firmware, digest of the configuration, part code, identity public key, and the versions
of firmware and configuration (log 23). -/
def Flash.report (f : Flash) (nonce : List Byte) : List Byte :=
  let part : List Byte := [0x4B, 0x50, 0x43, 0x2D, 0x4B, 0x39]
  nonce ++ digest f.image ++ digest f.config ++ part ++ sm2Public f.identity ++
    bytesOf 4 (Config.versionOf f.image).toNat ++ bytesOf 4 (Config.versionOf f.config).toNat

/-- ATTEST (R396): the report, signed with the identity key. -/
def attestCmd (nonce : List Byte) (s : State) : PfRes := do
  pfMust (decide (nonce.length = 32)) 2
  let r := s.pf.flash.report nonce
  .ok { s with
    pf := { s.pf with report := r ++ sm2Sign s.pf.flash.identity (Config.signerNonce s.freeNo) r }
    freeNo := s.freeNo + 1 }

def execAttest (nonce : List Byte) (s : State) : Outcome State Fault Refusal := .next (pfRow s (attestCmd nonce s))

/-- Answer a VF's request: notice 0x07 to its issuer with sequence number, status and result (R266). -/
def answer (vf status result : Nat) (s : State) : State :=
  match (s.trans.acct? vf).bind (·.mbox) with
  | some (seq, k) =>
    postNotice k 0x07 (seq % 65536 + status % 65536 * 2 ^ 16 + result % 2 ^ 24 * 2 ^ 32)
      (setAcct s vf fun a => { a with mbox := none, s2wait := false })
  | none => s

/-- S2REPLY (R391, R392): the host's answer to a forwarded S2REQ. -/
def s2Reply (vf status result : Nat) (s : State) : PfRes := do
  pfMust (s.trans.vf? vf).isSome 2
  pfMust ((s.trans.acct? vf).any (·.s2wait)) 3
  .ok (answer vf status result s)

def execS2reply (vf status result : Nat) (s : State) : Outcome State Fault Refusal :=
  .next (pfRow s (s2Reply vf status result s))

end Sys2Proof.Machine
end

