-- ==== Sys2Proof/Machine/HostIf.lean ====
section
/-!
DEFINITION. VFCALL and its requests, host reads and writes with the BARs, and chunks from peer chips (R229, R266, R387-R393).
-/

namespace Sys2Proof.Machine

open Host (Outcome)

/-! ### VFCALL (R266) -/

/-- VFCALL: all ones while a request is unanswered; else a release at system scope, a 64-byte load, and the sequence number. -/
def execVfcall (rd rs1 : Reg) (s : State) : Outcome State Fault Refusal :=
  finish4 s do
    needSup s
    let p ← readReg rs1 s
    match s.trans.acct? s.vfid with
    | none => putPlain rd (BitVec.allOnes 64) [rs1] s
    | some a =>
      if a.mbox.isSome then putPlain rd (BitVec.allOnes 64) [rs1] s
      else
        let (_, s0) ← releaseAt (some .sys) s
        let (t, s1) ← issueAccess p 64 .read (.big true) true (fun _ => .ok ()) s0
        accessWaits ⟨t.place.addr, 64, true, false⟩ s
        if s.mem.anyPoison t.place.addr 64 then eccAt t.place t.place.addr 64 s1
        else
          let (bs, s2) := readMem t.place.addr 64 s1
          let k := s.ctx.claimKey
          putPlain rd (w64 a.seq) [rs1] (setAcct s2 s.vfid fun a =>
            { a with mbox := some (a.seq, k), request := bs, seq := (a.seq + 1) % 65536 })

/-! ### Requests (R392) -/

/-- An argument of a request. -/
def reqArg (a : VfAcct) (i : Nat) : Nat := ofBytes ((a.request.drop (8 + 8 * i)).take 8)

/-- A request's answer: status, result and the state; a status of 8 or more leaves it unanswered for now. -/
abbrev VfRes := Except Nat (Nat × State)

/-- Serve a VF's unanswered request when it has this code. One whose bytes 2-7 are not zero, or with an unknown code, is answered
so by whichever row meets it. -/
def serve (vf code : Nat) (f : VfAcct → State → VfRes) (s : State) : State :=
  match s.trans.acct? vf with
  | none => s
  | some a =>
    let c := ofBytes (a.request.take 2)
    if a.mbox.isNone || a.s2wait || !serves s then s
    else if ofBytes ((a.request.drop 2).take 6) ≠ 0 then answer vf 2 0 s
    else if c = 0 ∨ 8 < c then answer vf 1 0 s
    else if c ≠ code then s
    else match f a s with
      | .ok (r, t) => answer vf 0 r t
      | .error st => if 8 ≤ st then s else answer vf st 0 s

def vfMust (b : Bool) (code : Nat) : Except Nat Unit := if b then .ok () else .error code

/-- SETROOT: a 16 KiB aligned root, then every slot is bumped, once every access under the old generations has been performed
(R194). -/
def execSetroot (vf : Nat) (s : State) : Outcome State Fault Refusal :=
  .next (serve vf 1 (fun a s => do
    let r := reqArg a 0
    vfMust (decide (r % 16384 = 0 ∧ r < 2 ^ 48)) 2
    vfMust (!vfBusy vf s) 8
    .ok (0, bumpAll vf (setVf s vf fun f => { f with root := r }))) s)

/-- The core and page a coordinate pointer names in a VF's frame; none where it names none the VF owns, or one that has moved or
is lost. -/
def vfPage (vf : Nat) (p : W64) (s : State) : Option (Nat × Nat) :=
  let f := vfFrame s vf
  let w := ptrWin p
  let core := f.cell (ptrDie p) (ptrY p) (ptrX p) * 4 + ptrRank p
  let page := ptrOff p / winScale w / 4096
  if isCoord p ∧ fld p.toNat 37 26 = 0 ∧ w ≤ 8 ∧ f.holds (ptrDie p) (ptrY p) (ptrX p) ∧ ptrOff p < winEnd w ∧
      ownsPage s vf core page ∧ (tombOf s core page).isNone ∧ !pageLost s core page ∧ !dieLost s (dieOf core) then
    some (core, page)
  else none

/-- RESERVE: a page slot joins the VF's reserve, which holds at most 64 (R163, R175, log 91). -/
def execReserve (vf : Nat) (s : State) : Outcome State Fault Refusal :=
  .next (serve vf 2 (fun a s => do
    let p := w64 (reqArg a 0)
    let n := (s.fab.reserve.filter fun r => r.vf == vf).length
    match vfPage vf p s with
    | none => .error 2
    | some (core, page) =>
      vfMust (decide (ptrWin p = 0 ∧ ptrOff p % 4096 = 0)) 2
      vfMust (!s.fab.reserve.contains ⟨vf, core, page⟩ && !s.fab.retired.contains (cellOf core)) 2
      vfMust (decide (n < 64)) 4
      .ok (n + 1, setFab (fun f => { f with reserve := f.reserve ++ [⟨vf, core, page⟩] }) s)) s)

/-- RELOCATE: the move follows; refused when the reserve holds no slot for it, and for a page whose move is already asked for. -/
def execRelocate (vf : Nat) (s : State) : Outcome State Fault Refusal :=
  .next (serve vf 3 (fun a s => do
    match vfPage vf (w64 (reqArg a 0)) s with
    | none => .error 2
    | some (core, page) =>
      vfMust (!s.fab.relocQ.contains (vf, core, page)) 2
      let asked := (s.fab.relocQ.filter fun q => q.1 == vf).length
      vfMust (decide (asked < (s.fab.reserve.filter fun r => r.vf == vf).length)) 4
      .ok (0, setFab (fun f => { f with relocQ := f.relocQ ++ [(vf, core, page)] }) s)) s)

/-- SETQ: a guest queue-table entry (R338). -/
def execSetq (vf : Nat) (s : State) : Outcome State Fault Refusal :=
  .next (serve vf 4 (fun a s => do
    let e : BitVec 16 := BitVec.ofNat 16 (reqArg a 1)
    vfMust (decide (fld e.toNat 9 7 = 0)) 2
    .ok (0, setVf s vf fun f => { f with queues := f.queues.set! (fld (reqArg a 0) 0 4) e })) s)

/-- S2REQ: forwarded to the host; S2REPLY answers it. -/
def execS2req (vf : Nat) (s : State) : Outcome State Fault Refusal :=
  match s.trans.acct? vf with
  | none => .next s
  | some a =>
    if ofBytes (a.request.take 8) = 5 ∧ a.mbox.isSome ∧ serves s then
      .next (setAcct s vf fun a => { a with s2wait := true })
    else .next (serve vf 5 (fun _ s => .ok (0, s)) s)

/-- The lowest ring number not in use; there are 65,536 (R248). -/
def freeRing (s : State) : Option Nat :=
  let used := s.cp.rings.map Prod.fst
  (List.range (used.length + 1)).find? fun n => decide (n < 65536) && !used.contains n

/-- PUBLISH: a landing ring for one VF of the peer on one link (R393). -/
def execPublish (vf : Nat) (s : State) : Outcome State Fault Refusal :=
  .next (serve vf 6 (fun a s => do
    let p := w64 (reqArg a 0)
    match vfPage vf p s, freeRing s with
    | none, _ => .error 2
    | some _, none => .error 5
    | some (core, _), some n =>
      vfMust (decide (ptrWin p = 0 ∧ ptrOff p % 32 = 0)) 2
      .ok (n, { s with cp := { s.cp with
        rings := s.cp.rings ++ [(n, vf, scratchAddr core (ptrOff p), fld (reqArg a 1) 0 4, fld (reqArg a 1) 16 10)] } })) s)

/-- UNPUBLISH: the commands under way to the ring end, and what has arrived of each fills its slot (R258, R393). -/
def execUnpublish (vf : Nat) (s : State) : Outcome State Fault Refusal :=
  .next (serve vf 7 (fun a s => do
    let n := fld (reqArg a 0) 0 16
    vfMust (s.cp.rings.any fun r => r.1 == n && r.2.1 == vf) 2
    let t := endPeers (fun e => e.2.1 == n) s
    .ok (0, { t with cp := { t.cp with rings := t.cp.rings.filter fun r => r.1 != n } })) s)

/-- PWRREAD: the cadence of the VF's node and the number of cadence notices (R376). -/
def execPwrread (vf : Nat) (s : State) : Outcome State Fault Refusal :=
  .next (serve vf 8 (fun a s =>
    let node := ((s.trans.vf? vf).map (·.node)).getD 0
    .ok (nodeCadence node s % 32 + a.notices % 65536 * 256, s)) s)

/-! ### BARs (R389, R390) -/

/-- One byte of a 64-bit register at `base` of a BAR. -/
def regByte (v : Nat) (i : Nat) : Byte := BitVec.ofNat 8 (v / 2 ^ (8 * i))

/-- A byte of a VF's BAR0; that of a VF not assigned shows the service phase and no node. -/
def vfBarByte (vf off : Nat) (s : State) : Byte :=
  match s.trans.vf? vf, s.trans.acct? vf with
  | some f, some a =>
    let i := off % 8
    if off < 8 then regByte (s.pf.phase % 16 + f.node * 256) i
    else if off < 16 then regByte a.energy.toNat i
    else if off < 24 then regByte a.budget i
    else if off < 32 then regByte f.launchBase i
    else if 0x100 ≤ off ∧ off < 0x140 then a.request.getD (off - 0x100) 0
    else if 0x140 ≤ off ∧ off < 0x148 then
      regByte ((if a.mbox.isSome then 1 else 0) + (a.seq + 65535) % 65536 * 2 ^ 16) i
    else if 0x200 ≤ off ∧ off < 0x240 then regByte ((a.pwr[(off - 0x200) / 8]?).getD 0).toNat i
    else 0
  | _, _ => if off < 8 then regByte (s.pf.phase % 16) off else 0

/-- PFSTAT. -/
def pfStat (s : State) : Nat :=
  s.pf.phase % 16 + s.pf.fail % 64 * 2 ^ 4 + s.pf.flow.toNat * 2 ^ 10 + s.pf.est.toNat * 2 ^ 11 +
    s.pf.save.toNat * 2 ^ 12 + s.pf.eff % 8 * 2 ^ 13 + s.fab.lost.toNat * 2 ^ 23

/-- A byte of a PF's BAR0, with the report of the last ATTEST from 0x0180 on (log 16); a part that does not serve answers only
PFSTAT (R395). -/
def pfBarByte (endpoint off : Nat) (s : State) : Byte :=
  let p : PfArea := if endpoint = 0 then ⟨s.pf.cmd, s.pf.cmdStatus, s.pf.report⟩ else s.pf.second
  if off < 8 then regByte (pfStat s) off
  else if !serves s then 0
  else if 0x100 ≤ off ∧ off < 0x140 then p.cmd.getD (off - 0x100) 0
  else if 0x140 ≤ off ∧ off < 0x148 then regByte p.cmdStatus.toNat (off % 8)
  else if 0x180 ≤ off then p.report.getD (off - 0x180) 0
  else 0

/-- Run the command in the command area: code in byte 0, arguments as words from byte 8 (log 16). -/
def pfCommand (s : State) : State :=
  let c := s.pf.cmd
  let a := fun (i : Nat) => ofBytes ((c.drop (8 + 8 * i)).take 8)
  let code := (c.headD 0).toNat
  let sub := (c.getD 1 0).toNat
  pfRun s (match code with
    | 1 => assignVf (a 0) (a 1) (a 2) (bitAt (a 3) 0) s
    | 2 => setS2 (a 0) (a 1) (BitVec.ofNat 128 (a 2 + a 3 * 2 ^ 64)) s
    | 3 => setSlice (a 0) (a 1) (a 2) (a 3) (bitAt (a 4) 0) s
    | 4 => setColl' (a 0) (a 1) s
    | 5 =>
      if sub = 0 then setWay (a 0) (a 1) (BitVec.ofNat 16 (a 2)) s
      else match a 1 with
        | 1 => setScope (a 0) .cell s
        | 2 => setScope (a 0) .die s
        | 3 => setScope (a 0) .pkg s
        | 4 => setScope (a 0) .sys s
        | _ => .error 2
    | 6 => setMboxOwner (a 0) (if bitAt (a 2) 0 then some (a 1) else none) s
    | 7 => setBudget (a 0) (a 1) (a 2) (a 3) s
    | 8 => resetDieCmd (a 0) s
    | 9 => saveRegionCmd (a 0) (a 1) s
    | 10 => attestCmd ((c.drop 8).take 32) s
    | 11 => s2Reply (a 0) (a 1) (a 2) s
    | _ => .error 1)

/-- Firmware goes on with the busy command of an endpoint's PF. -/
def pfStep (endpoint : Nat) (s : State) : State := onPf endpoint (fun s => if pfWaits s then pfCommand s else s) s

/-! ### Host accesses (R229) -/

/-- The slots whose COMMIT byte lies in a written range and was 0, with their VF. -/
def commitsIn (a n : Nat) (s : State) : List (Nat × Nat) :=
  (s.trans.vfs.flatMap fun f => (List.range 64).map fun i => (f.id, i)).filter fun p =>
    let b := slotAddr p.1 p.2 s + 255
    decide (a ≤ b ∧ b < a + n) && s.mem.byte b == 0

/-- A posted write of the host to device or host memory, visible to every agent at once; the line monitor commits the slots whose
COMMIT byte it makes non-zero (R229, R325). -/
def hostStore (a : Nat) (bs : List Byte) (s : State) : State :=
  let cs := commitsIn a bs.length s
  let lines := (List.range (bs.length / 64 + 2)).map fun i => a / 64 * 64 + 64 * i
  let keep := fun (l : CLine) => !(lines.any fun x => x == l.pa && decide (x < a + bs.length))
  let s1 := setFab (fun f => { f with slices := f.slices.filter keep }) (placeAll a bs s)
  cs.foldl (fun s p => if s.mem.byte (slotAddr p.1 p.2 s + 255) = 0 then s else commitLaunch p.1 p.2 s) s1

/-- A host write to a PF's command area: one that makes byte 0x3F non-zero runs the command. While a command is busy the area
takes no write (log 16). -/
def pfWrite (off : Nat) (bs : List Byte) (s : State) : State :=
  if pfWaits s then s
  else
    let old := s.pf.cmd ++ List.replicate (64 - s.pf.cmd.length) 0
    let cmd := (List.range 64).map fun i =>
      if off ≤ 0x100 + i ∧ 0x100 + i < off + bs.length then bs.getD (0x100 + i - off) 0 else old.getD i 0
    let s1 := setPf (fun f => { f with cmd := cmd }) s
    let rung := decide (off ≤ 0x13F ∧ 0x13F < off + bs.length) && cmd.getD 63 0 != 0
    if rung then pfCommand s1 else s1

/-- HOST_WRITE. The VF BARs are read-only. A part that does not serve takes no write (R395). -/
def execHostWrite (t : HostTarget) (bs : List Byte) (s : State) : Outcome State Fault Refusal :=
  match t with
  | .mem pa =>
    if reservedPa pa || decide (281474976710656 < pa + bs.length) || reservedPa (pa + bs.length - 1) then
      .fault (.reservedAddress pa)
    else .next (if serves s then hostStore pa bs s else s)
  | .launch vf off =>
    if serves s ∧ (s.trans.vf? vf).isSome ∧ off + bs.length ≤ 16384 then .next (hostStore (slotAddr vf 0 s + off) bs s) else .next s
  | .vfBar _ _ => .next s
  | .pfBar ep off => .next (if serves s then onPf ep (pfWrite off bs) s else s)

/-- Writes that the host has read are performed at package scope, and with each the earlier writes on its lines (R224). -/
def Memory.hostSeen (m : Memory) (now a n : Nat) : Memory :=
  (m.msgs.filter fun w => w.performedAt.isNone && w.seenBy hostDie a n).foldl (fun m w => m.perform w.id now) m

/-- A coherent read of the host: no older than the newest write performed at system scope, and perhaps newer (R229). Its lines are
checked (R180). -/
def hostFetch (a n : Nat) (s : State) : State :=
  let r := s.mem.readVis hostDie s.now s.freeNo none a n
  { s with
    hostLatch := r.1
    mem := (r.2.hostSeen s.now a n).noted a n
    freeNo := s.freeNo + 1 }

/-- HOST_READ: the bytes go to `hostLatch`. A part that does not serve answers only PFSTAT (R395). -/
def execHostRead (t : HostTarget) (n : Nat) (s : State) : Outcome State Fault Refusal :=
  match t with
  | .mem pa =>
    if reservedPa pa || decide (281474976710656 < pa + n) || reservedPa (pa + n - 1) then .fault (.reservedAddress pa)
    else .next (if serves s then hostFetch pa n s else s)
  | .launch vf off =>
    if !serves s then .next s
    else if (s.trans.vf? vf).isSome ∧ off + n ≤ 16384 then .next (hostFetch (slotAddr vf 0 s + off) n s)
    else .next { s with hostLatch := [] }
  | .vfBar vf off =>
    .next (if serves s then { s with hostLatch := (List.range n).map fun i => vfBarByte vf (off + i) s } else s)
  | .pfBar ep off => .next { s with hostLatch := (List.range n).map fun i => pfBarByte ep (off + i) s }

/-! ### Peer chips (R393) -/

/-- Write an arriving chunk into its slot, poison included; the last one ends the command and the slot fills (R181, R258). -/
def peerWrite (vf target len chunk i : Nat) (data : List (Byte × Bool)) (s : State) : State :=
  let a := forward s target
  let c := peerCmd vf (scratchCore a) target len chunk (slotSide vf a len i s) (some i) s
  let r := c.range
  let bs := (data.take (r.2 - r.1)).map fun b => (⟨b.1, b.2, none⟩ : MoveByte)
  let s1 := writeWhole c bs r.1 s
  if len ≤ 4096 * (chunk + 1) then fillPeer c target s1 else s1

/-- PEER_CHUNK_ARRIVAL: admitted only from the published link and VFID; the first chunk claims a slot. What is refused or held
moves nothing here. -/
def execPeerChunkArrival (link ring vf cmd len chunk : Nat) (data : List (Byte × Bool)) (s : State) : Outcome State Fault Refusal :=
  match s.cp.rings.find? fun r => r.1 == ring && r.2.2.2.1 == link && r.2.2.2.2 == vf with
  | none => .next s
  | some (_, own, target, _, _) =>
    let a := forward s target
    let key := fun (e : Nat × Nat × Nat × Nat × Nat) => e.1 == link && e.2.1 == ring && e.2.2.1 == vf && e.2.2.2.1 == cmd
    let last := decide (len ≤ 4096 * (chunk + 1))
    let keep := fun (i : Nat) (s : State) => { s with cp := { s.cp with
      peerSlots := (s.cp.peerSlots.filter fun e => !key e) ++ (if last then [] else [(link, ring, vf, cmd, i)]) } }
    if s.pf.linksDown.contains link then .next s
    else if chunk = 0 then
      let probe := peerCmd own (scratchCore a) target len 0 CopySide.none none s
      if ringFull a s || s.cp.peerSlots.any key then .next s
      else match ringSide probe s with
        | .error _ => .next s
        | .ok _ =>
          let i := ringClaimed a s
          .next (keep i.toNat (peerWrite own target len 0 i.toNat data (objSet a 4 (i + 1) s)))
    else match s.cp.peerSlots.find? key with
      | none => .next s
      | some (_, _, _, _, i) => .next (keep i (peerWrite own target len chunk i data s))

end Sys2Proof.Machine
end

