-- ==== Sys2Proof/Machine/Riscv.lean ====
section
/-!
DEFINITION. The environment cores: RV64IMAFDC with Zicsr and Zifencei in user mode, under the region guard (R299, R301, R311).
The instruction set is RISC-V's own (log 14). A compressed instruction runs as the 32-bit instruction it stands for.
-/

namespace Sys2Proof.Machine

open Host (Outcome)

/-! ### Fields and immediates -/

def rvRd (w : Nat) : Nat := fld w 7 5
def rvRs1 (w : Nat) : Nat := fld w 15 5
def rvRs2 (w : Nat) : Nat := fld w 20 5
def rvF3 (w : Nat) : Nat := fld w 12 3
def rvF7 (w : Nat) : Nat := fld w 25 7

def rvImmI (w : Nat) : W64 := sx (fld w 20 12) 12
def rvImmS (w : Nat) : W64 := sx (fld w 25 7 * 32 + fld w 7 5) 12
def rvImmB (w : Nat) : W64 := sx (fld w 31 1 * 4096 + fld w 7 1 * 2048 + fld w 25 6 * 32 + fld w 8 4 * 2) 13
def rvImmU (w : Nat) : W64 := sx (fld w 12 20 * 4096) 32
def rvImmJ (w : Nat) : W64 := sx (fld w 31 1 * 1048576 + fld w 12 8 * 4096 + fld w 20 1 * 2048 + fld w 21 10 * 2) 21

/-! ### Compressed instructions -/

def rvEncI (imm rs1 f3 rd op : Nat) : Nat := imm % 4096 * 2 ^ 20 + rs1 * 2 ^ 15 + f3 * 2 ^ 12 + rd * 2 ^ 7 + op
def rvEncR (f7 rs2 rs1 f3 rd op : Nat) : Nat := f7 * 2 ^ 25 + rs2 * 2 ^ 20 + rs1 * 2 ^ 15 + f3 * 2 ^ 12 + rd * 2 ^ 7 + op
def rvEncS (imm rs2 rs1 f3 op : Nat) : Nat :=
  fld imm 5 7 * 2 ^ 25 + rs2 * 2 ^ 20 + rs1 * 2 ^ 15 + f3 * 2 ^ 12 + fld imm 0 5 * 2 ^ 7 + op
def rvEncB (imm rs1 f3 : Nat) : Nat :=
  fld imm 12 1 * 2 ^ 31 + fld imm 5 6 * 2 ^ 25 + rs1 * 2 ^ 15 + f3 * 2 ^ 12 + fld imm 1 4 * 2 ^ 8 + fld imm 11 1 * 2 ^ 7 + 0x63
def rvEncJ (imm rd : Nat) : Nat :=
  fld imm 20 1 * 2 ^ 31 + fld imm 1 10 * 2 ^ 21 + fld imm 11 1 * 2 ^ 20 + fld imm 12 8 * 2 ^ 12 + rd * 2 ^ 7 + 0x6F

/-- `v` of `n` bits, sign-extended to 21. -/
def rvSext (v n : Nat) : Nat := if bitAt v (n - 1) then v + (2 ^ 21 - 2 ^ n) else v

/-- Quadrant 0. -/
def rvExpand0 (h : Nat) : Option Nat :=
  let a := 8 + fld h 7 3
  let b := 8 + fld h 2 3
  let d := fld h 10 3 * 8 + fld h 5 2 * 64
  let w := fld h 10 3 * 8 + fld h 6 1 * 4 + fld h 5 1 * 64
  match fld h 13 3 with
  | 0 =>
    let imm := fld h 11 2 * 16 + fld h 7 4 * 64 + fld h 6 1 * 4 + fld h 5 1 * 8
    if imm = 0 then none else some (rvEncI imm 2 0 b 0x13)
  | 1 => some (rvEncI d a 3 b 0x07)
  | 2 => some (rvEncI w a 2 b 0x03)
  | 3 => some (rvEncI d a 3 b 0x03)
  | 5 => some (rvEncS d b a 3 0x27)
  | 6 => some (rvEncS w b a 2 0x23)
  | 7 => some (rvEncS d b a 3 0x23)
  | _ => none

/-- The arithmetic group of quadrant 1. -/
def rvExpandArith (h : Nat) : Option Nat :=
  let a := 8 + fld h 7 3
  let b := 8 + fld h 2 3
  let sh := fld h 12 1 * 32 + fld h 2 5
  match fld h 10 2 with
  | 0 => some (rvEncI sh a 5 a 0x13)
  | 1 => some (rvEncI (0x400 + sh) a 5 a 0x13)
  | 2 => some (rvEncI (rvSext sh 6) a 7 a 0x13)
  | _ =>
    match fld h 12 1, fld h 5 2 with
    | 0, 0 => some (rvEncR 0x20 b a 0 a 0x33)
    | 0, 1 => some (rvEncR 0 b a 4 a 0x33)
    | 0, 2 => some (rvEncR 0 b a 6 a 0x33)
    | 0, _ => some (rvEncR 0 b a 7 a 0x33)
    | _, 0 => some (rvEncR 0x20 b a 0 a 0x3B)
    | _, 1 => some (rvEncR 0 b a 0 a 0x3B)
    | _, _ => none

/-- Quadrant 1. -/
def rvExpand1 (h : Nat) : Option Nat :=
  let rd := fld h 7 5
  let imm := rvSext (fld h 12 1 * 32 + fld h 2 5) 6
  let bImm := rvSext (fld h 12 1 * 256 + fld h 10 2 * 8 + fld h 5 2 * 64 + fld h 3 2 * 2 + fld h 2 1 * 32) 9
  match fld h 13 3 with
  | 0 => some (rvEncI imm rd 0 rd 0x13)
  | 1 => if rd = 0 then none else some (rvEncI imm rd 0 rd 0x1B)
  | 2 => some (rvEncI imm 0 0 rd 0x13)
  | 3 =>
    if rd = 2 then
      let j := fld h 12 1 * 512 + fld h 6 1 * 16 + fld h 5 1 * 64 + fld h 3 2 * 128 + fld h 2 1 * 32
      if j = 0 then none else some (rvEncI (rvSext j 10) 2 0 2 0x13)
    else
      let j := fld h 12 1 * 32 + fld h 2 5
      if j = 0 then none else some (rvSext j 6 % 2 ^ 20 * 2 ^ 12 + rd * 2 ^ 7 + 0x37)
  | 4 => rvExpandArith h
  | 5 =>
    let j := fld h 12 1 * 2048 + fld h 11 1 * 16 + fld h 9 2 * 256 + fld h 8 1 * 1024 + fld h 7 1 * 64 +
      fld h 6 1 * 128 + fld h 3 3 * 2 + fld h 2 1 * 32
    some (rvEncJ (rvSext j 12) 0)
  | 6 => some (rvEncB bImm (8 + fld h 7 3) 0)
  | _ => some (rvEncB bImm (8 + fld h 7 3) 1)

/-- Quadrant 2. -/
def rvExpand2 (h : Nat) : Option Nat :=
  let rd := fld h 7 5
  let rs2 := fld h 2 5
  let ld := fld h 12 1 * 32 + fld h 5 2 * 8 + fld h 2 3 * 64
  let lw := fld h 12 1 * 32 + fld h 4 3 * 4 + fld h 2 2 * 64
  let sd := fld h 10 3 * 8 + fld h 7 3 * 64
  let sw := fld h 9 4 * 4 + fld h 7 2 * 64
  match fld h 13 3 with
  | 0 => some (rvEncI (fld h 12 1 * 32 + fld h 2 5) rd 1 rd 0x13)
  | 1 => some (rvEncI ld 2 3 rd 0x07)
  | 2 => if rd = 0 then none else some (rvEncI lw 2 2 rd 0x03)
  | 3 => if rd = 0 then none else some (rvEncI ld 2 3 rd 0x03)
  | 4 =>
    if fld h 12 1 = 0 then
      if rs2 = 0 then (if rd = 0 then none else some (rvEncI 0 rd 0 0 0x67))
      else some (rvEncR 0 rs2 0 0 rd 0x33)
    else if rs2 = 0 then (if rd = 0 then none else some (rvEncI 0 rd 0 1 0x67))
    else some (rvEncR 0 rs2 rd 0 rd 0x33)
  | 5 => some (rvEncS sd rs2 2 3 0x27)
  | 6 => some (rvEncS sw rs2 2 2 0x23)
  | _ => some (rvEncS sd rs2 2 3 0x23)

/-- The 32-bit instruction a 16-bit one stands for; none where it is reserved, or C.EBREAK. -/
def rvExpand (h : Nat) : Option Nat :=
  match h % 4 with
  | 0 => rvExpand0 h
  | 1 => rvExpand1 h
  | 2 => rvExpand2 h
  | _ => none

/-! ### Integer operations -/

/-- The M extension on 64 bits. -/
def rvMulDiv (f3 : Nat) (a b : W64) : W64 :=
  match f3 with
  | 0 => a * b
  | 1 => BitVec.ofInt 64 (a.toInt * b.toInt / 2 ^ 64)
  | 2 => BitVec.ofInt 64 (a.toInt * (b.toNat : Int) / 2 ^ 64)
  | 3 => w64 (a.toNat * b.toNat / 2 ^ 64)
  | 4 => if b = 0 then BitVec.allOnes 64 else a.sdiv b
  | 5 => if b = 0 then BitVec.allOnes 64 else a / b
  | 6 => if b = 0 then a else a.srem b
  | _ => if b = 0 then a else a % b

/-- The M extension on 32 bits; the results are sign-extended. -/
def rvMulDivW (f3 : Nat) (a b : W32) : Option W32 :=
  match f3 with
  | 0 => some (a * b)
  | 4 => some (if b = 0 then BitVec.allOnes 32 else a.sdiv b)
  | 5 => some (if b = 0 then BitVec.allOnes 32 else a / b)
  | 6 => some (if b = 0 then a else a.srem b)
  | 7 => some (if b = 0 then a else a % b)
  | _ => none

/-- The base operations; `alt` is the alternate function (SUB, SRA). -/
def rvAlu (f3 : Nat) (alt : Bool) (a b : W64) : Option W64 :=
  match f3 with
  | 0 => some (if alt then a - b else a + b)
  | 5 => some (if alt then a.sshiftRight (b.toNat % 64) else a >>> (b.toNat % 64))
  | _ =>
    if alt then none
    else match f3 with
      | 1 => some (a <<< (b.toNat % 64))
      | 2 => some (boolW (a.slt b))
      | 3 => some (boolW (a.ult b))
      | 4 => some (a ^^^ b)
      | 6 => some (a ||| b)
      | _ => some (a &&& b)

/-- The base operations on words. -/
def rvAluW (f3 : Nat) (alt : Bool) (a b : W32) : Option W32 :=
  match f3 with
  | 0 => some (if alt then a - b else a + b)
  | 1 => if alt then none else some (a <<< (b.toNat % 32))
  | 5 => some (if alt then a.sshiftRight (b.toNat % 32) else a >>> (b.toNat % 32))
  | _ => none

/-- Whether a branch is taken. -/
def rvTaken (f3 : Nat) (a b : W64) : Option Bool :=
  match f3 with
  | 0 => some (a == b)
  | 1 => some (a != b)
  | 4 => some (a.slt b)
  | 5 => some (!a.slt b)
  | 6 => some (a.ult b)
  | 7 => some (!a.ult b)
  | _ => none

/-- OP and OP-32 by funct7. -/
def rvOp (w : Nat) (a b : W64) : Option W64 :=
  match rvF7 w with
  | 0 => rvAlu (rvF3 w) false a b
  | 1 => some (rvMulDiv (rvF3 w) a b)
  | 32 => rvAlu (rvF3 w) true a b
  | _ => none

def rvOpW (w : Nat) (a b : W64) : Option W64 :=
  let x := a.setWidth 32
  let y := b.setWidth 32
  (match rvF7 w with
   | 0 => rvAluW (rvF3 w) false x y
   | 1 => rvMulDivW (rvF3 w) x y
   | 32 => rvAluW (rvF3 w) true x y
   | _ => none).map fun (v : W32) => v.signExtend 64

/-- OP-IMM: the shifts hold funct6 above a 6-bit amount. -/
def rvOpImm (w : Nat) (a : W64) : Option W64 :=
  match rvF3 w with
  | 1 => if fld w 26 6 = 0 then rvAlu 1 false a (w64 (fld w 20 6)) else none
  | 5 =>
    match fld w 26 6 with
    | 0 => rvAlu 5 false a (w64 (fld w 20 6))
    | 16 => rvAlu 5 true a (w64 (fld w 20 6))
    | _ => none
  | f3 => rvAlu f3 false a (rvImmI w)

def rvOpImmW (w : Nat) (a : W64) : Option W64 :=
  let x := a.setWidth 32
  (match rvF3 w, rvF7 w with
   | 0, _ => rvAluW 0 false x ((rvImmI w).setWidth 32)
   | 1, 0 => rvAluW 1 false x (w32 (fld w 20 5))
   | 5, 0 => rvAluW 5 false x (w32 (fld w 20 5))
   | 5, 32 => rvAluW 5 true x (w32 (fld w 20 5))
   | _, _ => none).map fun (v : W32) => v.signExtend 64

/-! ### Floating point (R299: the RISC-V F and D rules) -/

def rvFmt (dbl : Bool) : Fmt := if dbl then fp64 else fp32

/-- The pattern a register holds in a format; a single that is not NaN-boxed reads as the canonical NaN. -/
def rvUnbox (dbl : Bool) (v : W64) : Nat :=
  if dbl then v.toNat else if v.toNat / 2 ^ 32 = 0xFFFFFFFF then v.toNat % 2 ^ 32 else fp32.qnan

def rvBox (dbl : Bool) (n : Nat) : W64 := if dbl then w64 n else w64 (0xFFFFFFFF * 2 ^ 32 + n % 2 ^ 32)

/-- The rounding mode of an instruction; reserved modes are illegal. -/
def rvRm (rm : Nat) (fcsr : BitVec 8) : Option RMode :=
  match (if rm = 7 then fld fcsr.toNat 5 3 else rm) with
  | 0 => some .rne
  | 1 => some .rtz
  | 2 => some .rdn
  | 3 => some .rup
  | 4 => some .rmm
  | _ => none

/-- Where a floating-point instruction puts its result. -/
inductive FpRes where
  | f (v : W64) (fl : FFlags)
  | x (v : W64) (fl : FFlags)
deriving DecidableEq, Repr

/-- The four fused instructions: the product and the addend may be negated. -/
def rvFma (op w : Nat) (fcsr : BitVec 8) (a b c : W64) : Option FpRes :=
  if 1 < fld w 25 2 then none
  else
    let dbl := fld w 25 2 == 1
    let u := fun (v : W64) => unpack (rvFmt dbl) (rvUnbox dbl v)
    (rvRm (rvF3 w) fcsr).map fun rm =>
      let x := if op = 0x4B ∨ op = 0x4F then negFp (u a) else u a
      let z := if op = 0x47 ∨ op = 0x4F then negFp (u c) else u c
      let r := finishFp (rvFmt dbl) rm (fmaFp rm x (u b) z)
      .f (rvBox dbl r.1) r.2

/-- FADD, FSUB, FMUL, FDIV and FSQRT. -/
def rvArith (f5 : Nat) (dbl : Bool) (rm : RMode) (a b : Nat) : Option (Nat × FFlags) :=
  let f := rvFmt dbl
  let x := unpack f a
  let y := unpack f b
  match f5 with
  | 0 => some (finishFp f rm (addFp rm x y))
  | 1 => some (finishFp f rm (addFp rm x (negFp y)))
  | 2 => some (finishFp f rm (mulFp x y))
  | 3 => some (divBits f rm x y)
  | 11 => some (sqrtBits f rm x)
  | _ => none

/-- FSGNJ, FSGNJN and FSGNJX. -/
def rvSgnj (f3 : Nat) (dbl : Bool) (a b : Nat) : Option Nat :=
  let sb := (rvFmt dbl).signBit
  let sa := a / sb % 2
  let s := b / sb % 2
  match f3 with
  | 0 => some (a % sb + s * sb)
  | 1 => some (a % sb + (1 - s) * sb)
  | 2 => some (a % sb + (sa + s) % 2 * sb)
  | _ => none

/-- FLE, FLT and FEQ. -/
def rvCompare (f3 : Nat) (dbl : Bool) (a b : Nat) : Option (Bool × FFlags) :=
  let x := unpack (rvFmt dbl) a
  let y := unpack (rvFmt dbl) b
  let c := cmpFp x y
  match f3 with
  | 0 => some (c == some .lt || c == some .eq, nvIf c.isNone)
  | 1 => some (c == some .lt, nvIf c.isNone)
  | 2 => some (c == some .eq, nvIf (fpIsSnan x || fpIsSnan y))
  | _ => none

/-- Floating point to an integer of kind `k`: W, WU, L, LU. A NaN gives the largest value; word results are sign-extended. -/
def rvToInt (k : Nat) (dbl : Bool) (rm : RMode) (a : Nat) : Option (W64 × FFlags) :=
  let x := unpack (rvFmt dbl) a
  let go := fun (lo hi : Int) => toIntFp rm lo hi hi x
  match k with
  | 0 => let r := go (-2147483648) 2147483647; some (BitVec.ofInt 64 r.1, r.2)
  | 1 => let r := go 0 4294967295; some ((BitVec.ofInt 32 r.1).signExtend 64, r.2)
  | 2 => let r := go (-9223372036854775808) 9223372036854775807; some (BitVec.ofInt 64 r.1, r.2)
  | 3 => let r := go 0 18446744073709551615; some (BitVec.ofInt 64 r.1, r.2)
  | _ => none

/-- An integer register read as kind `k`. -/
def rvIntOf (k : Nat) (v : W64) : Option Int :=
  match k with
  | 0 => some (v.setWidth 32).toInt
  | 1 => some ((v.toNat % 2 ^ 32 : Nat) : Int)
  | 2 => some v.toInt
  | 3 => some (v.toNat : Int)
  | _ => none

/-- OP-FP: `a` and `b` are the f registers, `x` the integer register of rs1. -/
def rvFp (w : Nat) (fcsr : BitVec 8) (a b x : W64) : Option FpRes :=
  if 1 < fld w 25 2 then none
  else
    let dbl := fld w 25 2 == 1
    let f3 := rvF3 w
    let k := rvRs2 w
    let p := rvUnbox dbl a
    let q := rvUnbox dbl b
    let f5 := fld w 27 5
    match f5 with
    | 4 => (rvSgnj f3 dbl p q).map fun r => .f (rvBox dbl r) 0
    | 5 =>
      if 1 < f3 then none
      else
        let r := minMaxBits (rvFmt dbl) (f3 == 1) p q (unpack (rvFmt dbl) p) (unpack (rvFmt dbl) q)
        some (.f (rvBox dbl r.1) r.2)
    | 8 =>
      if (if dbl then k ≠ 0 else k ≠ 1) then none
      else (rvRm f3 fcsr).map fun rm =>
        let r := packFp (rvFmt dbl) rm (unpack (rvFmt (!dbl)) (rvUnbox (!dbl) a))
        .f (rvBox dbl r.1) r.2
    | 20 => (rvCompare f3 dbl p q).map fun r => .x (boolW r.1) r.2
    | 24 => (rvRm f3 fcsr).bind fun rm => (rvToInt k dbl rm p).map fun r => .x r.1 r.2
    | 26 => (rvRm f3 fcsr).bind fun rm => (rvIntOf k x).map fun i =>
        let r := packFp (rvFmt dbl) rm (intFp i)
        .f (rvBox dbl r.1) r.2
    | 28 =>
      if k ≠ 0 then none
      else if f3 = 0 then some (.x (if dbl then a else (a.setWidth 32).signExtend 64) 0)
      else if f3 = 1 then some (.x (w64 (classBits (rvFmt dbl) p)) 0)
      else none
    | 30 => if k = 0 ∧ f3 = 0 then some (.f (rvBox dbl x.toNat) 0) else none
    | _ =>
      if f5 = 11 ∧ k ≠ 0 then none
      else (rvRm f3 fcsr).bind fun rm => (rvArith f5 dbl rm p q).map fun r => .f (rvBox dbl r.1) r.2

/-! ### The hart -/

def Hart.reg (h : Hart) (i : Nat) : W64 := (h.x[i]?).getD 0
def Hart.freg (h : Hart) (i : Nat) : W64 := (h.f[i]?).getD 0
/-- x0 stays zero. -/
def Hart.setX (h : Hart) (i : Nat) (v : W64) : Hart := if i = 0 then h else { h with x := h.x.set! i v }
def Hart.setF (h : Hart) (i : Nat) (v : W64) : Hart := { h with f := h.f.set! i v }
def Hart.flags (h : Hart) (fl : FFlags) : Hart := { h with fcsr := h.fcsr ||| fl.setWidth 8 }
/-- The hart after an instruction of `len` bytes. -/
def Hart.next (h : Hart) (len : Nat) : Hart := { h with pc := h.pc + w64 len, instret := h.instret + 1 }
/-- The hart after a transfer. -/
def Hart.goto (h : Hart) (t : W64) : Hart := { h with pc := t, instret := h.instret + 1 }

def putHart (n : Nat) (h : Hart) (s : State) : State := setMbox n (fun m => { m with hart := some h }) s

/-! ### Memory under the region guard (R301, R311) -/

/-- Where an aligned user address lies. -/
inductive RvPlace where
  | region (u : Nat)
  | ctl (off : Nat)
deriving DecidableEq, Repr

/-- None for a misaligned access or any other address: ENVFAULT. -/
def rvPlace (a : W64) (size : Nat) : Option RvPlace :=
  if a.toNat % size ≠ 0 then none
  else if a.toNat < regionSize then some (.region a.toNat)
  else if 0x40000000 ≤ a.toNat ∧ a.toNat < 0x40001000 then some (.ctl (a.toNat - 0x40000000))
  else none

/-- A load from the region. -/
def rvRead (n : Nat) (a : W64) (size : Nat) (s : State) : Option Nat :=
  match rvPlace a size with
  | some (.region u) => some (ofBytes (s.mem.bytes (regionAddr n u) size))
  | _ => none

/-- A store to the region. -/
def rvWrite (n : Nat) (a : W64) (size v : Nat) (s : State) : Option State :=
  match rvPlace a size with
  | some (.region u) => some (setMem (fun m => m.write (regionAddr n u) (bytesOf size v)) s)
  | _ => none

/-- A loaded value by funct3. -/
def rvExtend (f3 v : Nat) : Option W64 :=
  match f3 with
  | 0 => some (sx v 8)
  | 1 => some (sx v 16)
  | 2 => some (sx v 32)
  | 3 => some (w64 v)
  | 4 => some (w64 v)
  | 5 => some (w64 v)
  | 6 => some (w64 v)
  | _ => none

/-- LOAD: an LD of the control block reads it, and an LD of WAIT ends the turn. -/
def rvLoad (n w len : Nat) (h : Hart) (s : State) : Option State :=
  let f3 := rvF3 w
  let a := h.reg (rvRs1 w) + rvImmI w
  match f3, rvPlace a 8 with
  | 3, some (.ctl off) =>
    if off = 0x208 then
      waitTurn n (BitVec.ofNat 5 (rvRd w)).toFin (putHart n { h with pc := h.pc + w64 len } s)
    else (ctlRead n off s).map fun v => putHart n ((h.setX (rvRd w) v).next len) s
  | _, _ =>
    (rvRead n a (2 ^ (f3 % 4)) s).bind fun v => (rvExtend f3 v).map fun r => putHart n ((h.setX (rvRd w) r).next len) s

/-- STORE: an SD to the control block writes it. -/
def rvStore (n w len : Nat) (h : Hart) (s : State) : Option State :=
  let f3 := rvF3 w
  let a := h.reg (rvRs1 w) + rvImmS w
  let v := h.reg (rvRs2 w)
  if 3 < f3 then none
  else match f3, rvPlace a 8 with
    | 3, some (.ctl off) => ctlWrite n off v (putHart n (h.next len) s)
    | _, _ => (rvWrite n a (2 ^ f3) v.toNat s).map (putHart n (h.next len))

/-- FLW, FLD, FSW and FSD. -/
def rvLoadFp (n w len : Nat) (h : Hart) (s : State) : Option State :=
  let f3 := rvF3 w
  if f3 = 2 ∨ f3 = 3 then
    (rvRead n (h.reg (rvRs1 w) + rvImmI w) (2 ^ f3) s).map fun v =>
      putHart n ((h.setF (rvRd w) (rvBox (f3 == 3) v)).next len) s
  else none

def rvStoreFp (n w len : Nat) (h : Hart) (s : State) : Option State :=
  let f3 := rvF3 w
  if f3 = 2 ∨ f3 = 3 then
    (rvWrite n (h.reg (rvRs1 w) + rvImmS w) (2 ^ f3) (h.freg (rvRs2 w)).toNat s).map (putHart n (h.next len))
  else none

/-- The new value of an AMO on words of `size` bytes. -/
def rvAmoOp (f5 size : Nat) (old v : Nat) : Option Nat :=
  let n := 8 * size
  let x := old % 2 ^ n
  let y := v % 2 ^ n
  match f5 with
  | 0 => some (x + y)
  | 1 => some y
  | 4 => some (x ^^^ y)
  | 8 => some (x ||| y)
  | 12 => some (x &&& y)
  | 16 => some (if sxInt y n < sxInt x n then y else x)
  | 20 => some (if sxInt x n < sxInt y n then y else x)
  | 24 => some (min x y)
  | 28 => some (max x y)
  | _ => none

/-- LR, SC and the AMOs. SC stores where the reservation of the last LR names its address and size (log 14). -/
def rvAtomic (n w len : Nat) (h : Hart) (s : State) : Option State :=
  let f3 := rvF3 w
  let f5 := fld w 27 5
  let size := 2 ^ f3
  let a := h.reg (rvRs1 w)
  let v := (h.reg (rvRs2 w)).toNat
  if f3 ≠ 2 ∧ f3 ≠ 3 then none
  else (rvRead n a size s).bind fun old =>
    let oldX := sx old (8 * size)
    if f5 = 2 then
      if rvRs2 w ≠ 0 then none
      else some (putHart n (({ h with resv := some (a.toNat, size) }.setX (rvRd w) oldX).next len) s)
    else if f5 = 3 then
      let h1 := { h with resv := none }
      if h.resv = some (a.toNat, size) then
        (rvWrite n a size v s).map (putHart n ((h1.setX (rvRd w) 0).next len))
      else some (putHart n ((h1.setX (rvRd w) 1).next len) s)
    else (rvAmoOp f5 size old v).bind fun r =>
      (rvWrite n a size r s).map (putHart n ((h.setX (rvRd w) oldX).next len))

/-! ### CSRs (R299) -/

/-- The value of a CSR; none for one that is not implemented. cycle counts at 2.0 GHz while the episode holds a core; time is
GCYCLE. -/
def rvCsr (c : Nat) (m : Mailbox) (h : Hart) (s : State) : Option W64 :=
  match c with
  | 1 => some (w64 (fld h.fcsr.toNat 0 5))
  | 2 => some (w64 (fld h.fcsr.toNat 5 3))
  | 3 => some (w64 h.fcsr.toNat)
  | 0xC00 => some (w64 ((m.used + turnCycles m s) * 8 / 5))
  | 0xC01 => some s.gcycle
  | 0xC02 => some h.instret
  | _ => none

/-- A write of a CSR; none where it is read-only. -/
def rvSetCsr (c : Nat) (v : W64) (h : Hart) : Option Hart :=
  match c with
  | 1 => some { h with fcsr := BitVec.ofNat 8 (setFld h.fcsr.toNat 0 5 v.toNat) }
  | 2 => some { h with fcsr := BitVec.ofNat 8 (setFld h.fcsr.toNat 5 3 v.toNat) }
  | 3 => some { h with fcsr := v.setWidth 8 }
  | _ => none

/-- SYSTEM: the six CSR instructions; ECALL, EBREAK and every other encoding end the episode. -/
def rvSystem (n w len : Nat) (m : Mailbox) (h : Hart) (s : State) : Option State :=
  let f3 := rvF3 w
  let c := fld w 20 12
  let v := if 4 ≤ f3 then w64 (rvRs1 w) else h.reg (rvRs1 w)
  if f3 % 4 = 0 then none
  else (rvCsr c m h s).bind fun old =>
    let h1 :=
      if f3 % 4 = 1 then rvSetCsr c v h
      else if rvRs1 w = 0 then some h
      else if f3 % 4 = 2 then rvSetCsr c (old ||| v) h
      else rvSetCsr c (old &&& ~~~v) h
    h1.map fun h1 => putHart n ((h1.setX (rvRd w) old).next len) s

/-! ### One instruction -/

/-- Put a floating-point result away. -/
def rvPutFp (n w len : Nat) (h : Hart) (r : FpRes) (s : State) : State :=
  match r with
  | .f v fl => putHart n (((h.setF (rvRd w) v).flags fl).next len) s
  | .x v fl => putHart n (((h.setX (rvRd w) v).flags fl).next len) s

/-- Run one instruction of `len` bytes; none where it ends the episode with ENVFAULT. -/
def rvExec (n w len : Nat) (m : Mailbox) (h : Hart) (s : State) : Option State :=
  let a := h.reg (rvRs1 w)
  let b := h.reg (rvRs2 w)
  let put := fun (v : W64) => putHart n ((h.setX (rvRd w) v).next len) s
  match fld w 0 7 with
  | 0x03 => rvLoad n w len h s
  | 0x07 => rvLoadFp n w len h s
  | 0x0F => if rvF3 w ≤ 1 then some (putHart n (h.next len) s) else none
  | 0x13 => (rvOpImm w a).map put
  | 0x17 => some (put (h.pc + rvImmU w))
  | 0x1B => (rvOpImmW w a).map put
  | 0x23 => rvStore n w len h s
  | 0x27 => rvStoreFp n w len h s
  | 0x2F => rvAtomic n w len h s
  | 0x33 => (rvOp w a b).map put
  | 0x37 => some (put (rvImmU w))
  | 0x3B => (rvOpW w a b).map put
  | 0x43 => (rvFma 0x43 w h.fcsr (h.freg (rvRs1 w)) (h.freg (rvRs2 w)) (h.freg (fld w 27 5))).map fun r => rvPutFp n w len h r s
  | 0x47 => (rvFma 0x47 w h.fcsr (h.freg (rvRs1 w)) (h.freg (rvRs2 w)) (h.freg (fld w 27 5))).map fun r => rvPutFp n w len h r s
  | 0x4B => (rvFma 0x4B w h.fcsr (h.freg (rvRs1 w)) (h.freg (rvRs2 w)) (h.freg (fld w 27 5))).map fun r => rvPutFp n w len h r s
  | 0x4F => (rvFma 0x4F w h.fcsr (h.freg (rvRs1 w)) (h.freg (rvRs2 w)) (h.freg (fld w 27 5))).map fun r => rvPutFp n w len h r s
  | 0x53 => (rvFp w h.fcsr (h.freg (rvRs1 w)) (h.freg (rvRs2 w)) a).map fun r => rvPutFp n w len h r s
  | 0x63 => (rvTaken (rvF3 w) a b).map fun t => putHart n (if t then h.goto (h.pc + rvImmB w) else h.next len) s
  | 0x67 =>
    if rvF3 w = 0 then
      some (putHart n ((h.setX (rvRd w) (h.pc + w64 len)).goto ((a + rvImmI w) &&& ~~~1)) s)
    else none
  | 0x6F => some (putHart n ((h.setX (rvRd w) (h.pc + w64 len)).goto (h.pc + rvImmJ w)) s)
  | 0x73 => rvSystem n w len m h s
  | _ => none

/-- Fetch and run the next instruction of an episode. -/
def rvStep (n : Nat) (s : State) : Option State :=
  match mbox? s n with
  | none => none
  | some m =>
    match m.hart with
    | none => none
    | some h =>
      (rvRead n h.pc 2 s).bind fun p =>
        if p % 4 ≠ 3 then (rvExpand p).bind fun w => rvExec n w 2 m h s
        else (rvRead n (h.pc + 2) 2 s).bind fun q => rvExec n (p + q * 65536) 4 m h s

/-- ENVIRONMENT_CORE_INSTRUCTION. -/
def execEnvironmentCoreInstruction (ac : Nat) (s : State) : Outcome State Fault Refusal := forEpisode ac rvStep s

end Sys2Proof.Machine
end

