-- ==== Sys2Proof/Machine/Dispatch.lean ====
section
/-!
DEFINITION. The meaning of every instruction and event of the opcode table, one arm each.
-/

namespace Sys2Proof.Machine

/-- One instruction or event, acting on the machine. -/
def exec (i : Instr) (s : State) : Host.Outcome State Fault Refusal :=
  match i with
  | .add rd rs1 rs2 => Sys2Proof.Machine.execAdd rd rs1 rs2 s
  | .sub rd rs1 rs2 => Sys2Proof.Machine.execSub rd rs1 rs2 s
  | .and rd rs1 rs2 => Sys2Proof.Machine.execAnd rd rs1 rs2 s
  | .or rd rs1 rs2 => Sys2Proof.Machine.execOr rd rs1 rs2 s
  | .xor rd rs1 rs2 => Sys2Proof.Machine.execXor rd rs1 rs2 s
  | .andn rd rs1 rs2 => Sys2Proof.Machine.execAndn rd rs1 rs2 s
  | .orn rd rs1 rs2 => Sys2Proof.Machine.execOrn rd rs1 rs2 s
  | .xnor rd rs1 rs2 => Sys2Proof.Machine.execXnor rd rs1 rs2 s
  | .sll rd rs1 rs2 => Sys2Proof.Machine.execSll rd rs1 rs2 s
  | .srl rd rs1 rs2 => Sys2Proof.Machine.execSrl rd rs1 rs2 s
  | .sra rd rs1 rs2 => Sys2Proof.Machine.execSra rd rs1 rs2 s
  | .rol rd rs1 rs2 => Sys2Proof.Machine.execRol rd rs1 rs2 s
  | .ror rd rs1 rs2 => Sys2Proof.Machine.execRor rd rs1 rs2 s
  | .slt rd rs1 rs2 => Sys2Proof.Machine.execSlt rd rs1 rs2 s
  | .sltu rd rs1 rs2 => Sys2Proof.Machine.execSltu rd rs1 rs2 s
  | .min rd rs1 rs2 => Sys2Proof.Machine.execMin rd rs1 rs2 s
  | .max rd rs1 rs2 => Sys2Proof.Machine.execMax rd rs1 rs2 s
  | .minu rd rs1 rs2 => Sys2Proof.Machine.execMinu rd rs1 rs2 s
  | .maxu rd rs1 rs2 => Sys2Proof.Machine.execMaxu rd rs1 rs2 s
  | .mul rd rs1 rs2 => Sys2Proof.Machine.execMul rd rs1 rs2 s
  | .mulh rd rs1 rs2 => Sys2Proof.Machine.execMulh rd rs1 rs2 s
  | .mulhu rd rs1 rs2 => Sys2Proof.Machine.execMulhu rd rs1 rs2 s
  | .mulhsu rd rs1 rs2 => Sys2Proof.Machine.execMulhsu rd rs1 rs2 s
  | .sh1add rd rs1 rs2 => Sys2Proof.Machine.execSh1add rd rs1 rs2 s
  | .sh2add rd rs1 rs2 => Sys2Proof.Machine.execSh2add rd rs1 rs2 s
  | .sh3add rd rs1 rs2 => Sys2Proof.Machine.execSh3add rd rs1 rs2 s
  | .czero rd rs1 rs2 => Sys2Proof.Machine.execCzero rd rs1 rs2 s
  | .addw rd rs1 rs2 => Sys2Proof.Machine.execAddw rd rs1 rs2 s
  | .subw rd rs1 rs2 => Sys2Proof.Machine.execSubw rd rs1 rs2 s
  | .sllw rd rs1 rs2 => Sys2Proof.Machine.execSllw rd rs1 rs2 s
  | .srlw rd rs1 rs2 => Sys2Proof.Machine.execSrlw rd rs1 rs2 s
  | .sraw rd rs1 rs2 => Sys2Proof.Machine.execSraw rd rs1 rs2 s
  | .mulw rd rs1 rs2 => Sys2Proof.Machine.execMulw rd rs1 rs2 s
  | .clz rd rs1 => Sys2Proof.Machine.execClz rd rs1 s
  | .ctz rd rs1 => Sys2Proof.Machine.execCtz rd rs1 s
  | .popc rd rs1 => Sys2Proof.Machine.execPopc rd rs1 s
  | .brev rd rs1 => Sys2Proof.Machine.execBrev rd rs1 s
  | .bswap rd rs1 => Sys2Proof.Machine.execBswap rd rs1 s
  | .sextb rd rs1 => Sys2Proof.Machine.execSextb rd rs1 s
  | .sexth rd rs1 => Sys2Proof.Machine.execSexth rd rs1 s
  | .sextw rd rs1 => Sys2Proof.Machine.execSextw rd rs1 s
  | .zextb rd rs1 => Sys2Proof.Machine.execZextb rd rs1 s
  | .zexth rd rs1 => Sys2Proof.Machine.execZexth rd rs1 s
  | .zextw rd rs1 => Sys2Proof.Machine.execZextw rd rs1 s
  | .addi rd rs1 imm => Sys2Proof.Machine.execAddi rd rs1 imm s
  | .andi rd rs1 imm => Sys2Proof.Machine.execAndi rd rs1 imm s
  | .ori rd rs1 imm => Sys2Proof.Machine.execOri rd rs1 imm s
  | .xori rd rs1 imm => Sys2Proof.Machine.execXori rd rs1 imm s
  | .slti rd rs1 imm => Sys2Proof.Machine.execSlti rd rs1 imm s
  | .sltiu rd rs1 imm => Sys2Proof.Machine.execSltiu rd rs1 imm s
  | .addiw rd rs1 imm => Sys2Proof.Machine.execAddiw rd rs1 imm s
  | .slli rd rs1 shamt => Sys2Proof.Machine.execSlli rd rs1 shamt s
  | .srli rd rs1 shamt => Sys2Proof.Machine.execSrli rd rs1 shamt s
  | .srai rd rs1 shamt => Sys2Proof.Machine.execSrai rd rs1 shamt s
  | .rori rd rs1 shamt => Sys2Proof.Machine.execRori rd rs1 shamt s
  | .slliw rd rs1 shamt => Sys2Proof.Machine.execSlliw rd rs1 shamt s
  | .srliw rd rs1 shamt => Sys2Proof.Machine.execSrliw rd rs1 shamt s
  | .sraiw rd rs1 shamt => Sys2Proof.Machine.execSraiw rd rs1 shamt s
  | .lui rd imm => Sys2Proof.Machine.execLui rd imm s
  | .auipc rd imm => Sys2Proof.Machine.execAuipc rd imm s
  | .crdself rd => Sys2Proof.Machine.execCrdself rd s
  | .crdmk rd rs1 rs2 => Sys2Proof.Machine.execCrdmk rd rs1 rs2 s
  | .crdget rd rs1 field => Sys2Proof.Machine.execCrdget rd rs1 field s
  | .crdset rd rs1 rs2 field => Sys2Proof.Machine.execCrdset rd rs1 rs2 field s
  | .crdadd rd rs1 rs2 => Sys2Proof.Machine.execCrdadd rd rs1 rs2 s
  | .div la rd rs1 rs2 => Sys2Proof.Machine.execDiv la rd rs1 rs2 s
  | .divu la rd rs1 rs2 => Sys2Proof.Machine.execDivu la rd rs1 rs2 s
  | .rem la rd rs1 rs2 => Sys2Proof.Machine.execRem la rd rs1 rs2 s
  | .remu la rd rs1 rs2 => Sys2Proof.Machine.execRemu la rd rs1 rs2 s
  | .divw la rd rs1 rs2 => Sys2Proof.Machine.execDivw la rd rs1 rs2 s
  | .remw la rd rs1 rs2 => Sys2Proof.Machine.execRemw la rd rs1 rs2 s
  | .fdiv la rd rs1 rs2 => Sys2Proof.Machine.execFdiv la rd rs1 rs2 s
  | .fsqrt la rd rs1 => Sys2Proof.Machine.execFsqrt la rd rs1 s
  | .beq rs1 rs2 off => Sys2Proof.Machine.execBeq rs1 rs2 off s
  | .bne rs1 rs2 off => Sys2Proof.Machine.execBne rs1 rs2 off s
  | .blt rs1 rs2 off => Sys2Proof.Machine.execBlt rs1 rs2 off s
  | .bge rs1 rs2 off => Sys2Proof.Machine.execBge rs1 rs2 off s
  | .bltu rs1 rs2 off => Sys2Proof.Machine.execBltu rs1 rs2 off s
  | .bgeu rs1 rs2 off => Sys2Proof.Machine.execBgeu rs1 rs2 off s
  | .beqz rs1 off => Sys2Proof.Machine.execBeqz rs1 off s
  | .bnez rs1 off => Sys2Proof.Machine.execBnez rs1 off s
  | .bltz rs1 off => Sys2Proof.Machine.execBltz rs1 off s
  | .bgez rs1 off => Sys2Proof.Machine.execBgez rs1 off s
  | .bgtz rs1 off => Sys2Proof.Machine.execBgtz rs1 off s
  | .blez rs1 off => Sys2Proof.Machine.execBlez rs1 off s
  | .jal rd off => Sys2Proof.Machine.execJal rd off s
  | .jalr rd rs1 imm => Sys2Proof.Machine.execJalr rd rs1 imm s
  | .ldB la rd base off => Sys2Proof.Machine.execLdB la rd base off s
  | .ldBu la rd base off => Sys2Proof.Machine.execLdBu la rd base off s
  | .ldH la rd base off => Sys2Proof.Machine.execLdH la rd base off s
  | .ldHu la rd base off => Sys2Proof.Machine.execLdHu la rd base off s
  | .ldW la rd base off => Sys2Proof.Machine.execLdW la rd base off s
  | .ldWu la rd base off => Sys2Proof.Machine.execLdWu la rd base off s
  | .ldD la rd base off => Sys2Proof.Machine.execLdD la rd base off s
  | .ldxB la rd base index => Sys2Proof.Machine.execLdxB la rd base index s
  | .ldxBu la rd base index => Sys2Proof.Machine.execLdxBu la rd base index s
  | .ldxH la rd base index => Sys2Proof.Machine.execLdxH la rd base index s
  | .ldxHu la rd base index => Sys2Proof.Machine.execLdxHu la rd base index s
  | .ldxW la rd base index => Sys2Proof.Machine.execLdxW la rd base index s
  | .ldxWu la rd base index => Sys2Proof.Machine.execLdxWu la rd base index s
  | .ldxD la rd base index => Sys2Proof.Machine.execLdxD la rd base index s
  | .ldaqB la scope rd base => Sys2Proof.Machine.execLdaqB la scope rd base s
  | .ldaqBu la scope rd base => Sys2Proof.Machine.execLdaqBu la scope rd base s
  | .ldaqH la scope rd base => Sys2Proof.Machine.execLdaqH la scope rd base s
  | .ldaqHu la scope rd base => Sys2Proof.Machine.execLdaqHu la scope rd base s
  | .ldaqW la scope rd base => Sys2Proof.Machine.execLdaqW la scope rd base s
  | .ldaqWu la scope rd base => Sys2Proof.Machine.execLdaqWu la scope rd base s
  | .ldaqD la scope rd base => Sys2Proof.Machine.execLdaqD la scope rd base s
  | .stB rs base off g rel => Sys2Proof.Machine.execStB rs base off g rel s
  | .stH rs base off g rel => Sys2Proof.Machine.execStH rs base off g rel s
  | .stW rs base off g rel => Sys2Proof.Machine.execStW rs base off g rel s
  | .stD rs base off g rel => Sys2Proof.Machine.execStD rs base off g rel s
  | .logstB rs base off g rel => Sys2Proof.Machine.execLogstB rs base off g rel s
  | .logstH rs base off g rel => Sys2Proof.Machine.execLogstH rs base off g rel s
  | .amoadd dword scope rd base rs2 => Sys2Proof.Machine.execAmoadd dword scope rd base rs2 s
  | .amoand dword scope rd base rs2 => Sys2Proof.Machine.execAmoand dword scope rd base rs2 s
  | .amoor dword scope rd base rs2 => Sys2Proof.Machine.execAmoor dword scope rd base rs2 s
  | .amoxor dword scope rd base rs2 => Sys2Proof.Machine.execAmoxor dword scope rd base rs2 s
  | .amomin dword scope rd base rs2 => Sys2Proof.Machine.execAmomin dword scope rd base rs2 s
  | .amomax dword scope rd base rs2 => Sys2Proof.Machine.execAmomax dword scope rd base rs2 s
  | .amominu dword scope rd base rs2 => Sys2Proof.Machine.execAmominu dword scope rd base rs2 s
  | .amomaxu dword scope rd base rs2 => Sys2Proof.Machine.execAmomaxu dword scope rd base rs2 s
  | .amoswap dword scope rd base rs2 => Sys2Proof.Machine.execAmoswap dword scope rd base rs2 s
  | .amocas dword scope rd base rs2 => Sys2Proof.Machine.execAmocas dword scope rd base rs2 s
  | .fence scope rr rw wr ww => Sys2Proof.Machine.execFence scope rr rw wr ww s
  | .fenceE scope => Sys2Proof.Machine.execFenceE scope s
  | .tdclr => Sys2Proof.Machine.execTdclr s
  | .cbnd kd ks rs2 => Sys2Proof.Machine.execCbnd kd ks rs2 s
  | .cperm kd ks rs2 => Sys2Proof.Machine.execCperm kd ks rs2 s
  | .cgetb rd ks => Sys2Proof.Machine.execCgetb rd ks s
  | .cgetl rd ks => Sys2Proof.Machine.execCgetl rd ks s
  | .cgetp rd ks => Sys2Proof.Machine.execCgetp rd ks s
  | .cgett rd ks => Sys2Proof.Machine.execCgett rd ks s
  | .cmov kd ks => Sys2Proof.Machine.execCmov kd ks s
  | .cclr kd => Sys2Proof.Machine.execCclr kd s
  | .lcap la kd base off => Sys2Proof.Machine.execLcap la kd base off s
  | .scap ks base off => Sys2Proof.Machine.execScap ks base off s
  | .fadd rd rs1 rs2 => Sys2Proof.Machine.execFadd rd rs1 rs2 s
  | .fsub rd rs1 rs2 => Sys2Proof.Machine.execFsub rd rs1 rs2 s
  | .fmul rd rs1 rs2 => Sys2Proof.Machine.execFmul rd rs1 rs2 s
  | .fmin rd rs1 rs2 => Sys2Proof.Machine.execFmin rd rs1 rs2 s
  | .fmax rd rs1 rs2 => Sys2Proof.Machine.execFmax rd rs1 rs2 s
  | .feq rd rs1 rs2 => Sys2Proof.Machine.execFeq rd rs1 rs2 s
  | .flt rd rs1 rs2 => Sys2Proof.Machine.execFlt rd rs1 rs2 s
  | .fle rd rs1 rs2 => Sys2Proof.Machine.execFle rd rs1 rs2 s
  | .fsgnj rd rs1 rs2 => Sys2Proof.Machine.execFsgnj rd rs1 rs2 s
  | .fsgnjn rd rs1 rs2 => Sys2Proof.Machine.execFsgnjn rd rs1 rs2 s
  | .fsgnjx rd rs1 rs2 => Sys2Proof.Machine.execFsgnjx rd rs1 rs2 s
  | .fclass rd rs1 => Sys2Proof.Machine.execFclass rd rs1 s
  | .fcvtWS rd rs1 => Sys2Proof.Machine.execFcvtWS rd rs1 s
  | .fcvtWuS rd rs1 => Sys2Proof.Machine.execFcvtWuS rd rs1 s
  | .fcvtSW rd rs1 => Sys2Proof.Machine.execFcvtSW rd rs1 s
  | .fcvtSWu rd rs1 => Sys2Proof.Machine.execFcvtSWu rd rs1 s
  | .fcvtSH rd rs1 => Sys2Proof.Machine.execFcvtSH rd rs1 s
  | .fcvtHS rd rs1 => Sys2Proof.Machine.execFcvtHS rd rs1 s
  | .fcvtSBf rd rs1 => Sys2Proof.Machine.execFcvtSBf rd rs1 s
  | .fcvtBfS rd rs1 => Sys2Proof.Machine.execFcvtBfS rd rs1 s
  | .fcvtLS rd rs1 => Sys2Proof.Machine.execFcvtLS rd rs1 s
  | .fcvtSL rd rs1 => Sys2Proof.Machine.execFcvtSL rd rs1 s
  | .fmadd rd rs1 rs2 rs3 => Sys2Proof.Machine.execFmadd rd rs1 rs2 rs3 s
  | .fnmadd rd rs1 rs2 rs3 => Sys2Proof.Machine.execFnmadd rd rs1 rs2 rs3 s
  | .lnscvtB rd rs1 => Sys2Proof.Machine.execLnscvtB rd rs1 s
  | .lnscvtH rd rs1 => Sys2Proof.Machine.execLnscvtH rd rs1 s
  | .lincvtB rd rs1 => Sys2Proof.Machine.execLincvtB rd rs1 s
  | .lincvtH rd rs1 => Sys2Proof.Machine.execLincvtH rd rs1 s
  | .lmulB rd rs1 rs2 => Sys2Proof.Machine.execLmulB rd rs1 rs2 s
  | .lmulH rd rs1 rs2 => Sys2Proof.Machine.execLmulH rd rs1 rs2 s
  | .vaddW vd vs1 vs2 vm => Sys2Proof.Machine.execVaddW vd vs1 vs2 vm s
  | .vsubW vd vs1 vs2 vm => Sys2Proof.Machine.execVsubW vd vs1 vs2 vm s
  | .vmulW vd vs1 vs2 vm => Sys2Proof.Machine.execVmulW vd vs1 vs2 vm s
  | .vmulhW vd vs1 vs2 vm => Sys2Proof.Machine.execVmulhW vd vs1 vs2 vm s
  | .vminW vd vs1 vs2 vm => Sys2Proof.Machine.execVminW vd vs1 vs2 vm s
  | .vmaxW vd vs1 vs2 vm => Sys2Proof.Machine.execVmaxW vd vs1 vs2 vm s
  | .vminuW vd vs1 vs2 vm => Sys2Proof.Machine.execVminuW vd vs1 vs2 vm s
  | .vmaxuW vd vs1 vs2 vm => Sys2Proof.Machine.execVmaxuW vd vs1 vs2 vm s
  | .vand vd vs1 vs2 vm => Sys2Proof.Machine.execVand vd vs1 vs2 vm s
  | .vor vd vs1 vs2 vm => Sys2Proof.Machine.execVor vd vs1 vs2 vm s
  | .vxor vd vs1 vs2 vm => Sys2Proof.Machine.execVxor vd vs1 vs2 vm s
  | .vsll vd vs1 vs2 vm => Sys2Proof.Machine.execVsll vd vs1 vs2 vm s
  | .vsrl vd vs1 vs2 vm => Sys2Proof.Machine.execVsrl vd vs1 vs2 vm s
  | .vsra vd vs1 vs2 vm => Sys2Proof.Machine.execVsra vd vs1 vs2 vm s
  | .vdot4 vd vs1 vs2 vm => Sys2Proof.Machine.execVdot4 vd vs1 vs2 vm s
  | .vdot4u vd vs1 vs2 vm => Sys2Proof.Machine.execVdot4u vd vs1 vs2 vm s
  | .vfadd vd vs1 vs2 vm => Sys2Proof.Machine.execVfadd vd vs1 vs2 vm s
  | .vfsub vd vs1 vs2 vm => Sys2Proof.Machine.execVfsub vd vs1 vs2 vm s
  | .vfmul vd vs1 vs2 vm => Sys2Proof.Machine.execVfmul vd vs1 vs2 vm s
  | .vfma vd vs1 vs2 vm => Sys2Proof.Machine.execVfma vd vs1 vs2 vm s
  | .vfmin vd vs1 vs2 vm => Sys2Proof.Machine.execVfmin vd vs1 vs2 vm s
  | .vfmax vd vs1 vs2 vm => Sys2Proof.Machine.execVfmax vd vs1 vs2 vm s
  | .vfrcp vd vs1 vm => Sys2Proof.Machine.execVfrcp vd vs1 vm s
  | .vfrsq vd vs1 vm => Sys2Proof.Machine.execVfrsq vd vs1 vm s
  | .vexp2 vd vs1 vm => Sys2Proof.Machine.execVexp2 vd vs1 vm s
  | .vlog2 vd vs1 vm => Sys2Proof.Machine.execVlog2 vd vs1 vm s
  | .vfabs vd vs1 vm => Sys2Proof.Machine.execVfabs vd vs1 vm s
  | .vfneg vd vs1 vm => Sys2Proof.Machine.execVfneg vd vs1 vm s
  | .vceqW vmd vs1 vs2 vm => Sys2Proof.Machine.execVceqW vmd vs1 vs2 vm s
  | .vcltW vmd vs1 vs2 vm => Sys2Proof.Machine.execVcltW vmd vs1 vs2 vm s
  | .vcltuW vmd vs1 vs2 vm => Sys2Proof.Machine.execVcltuW vmd vs1 vs2 vm s
  | .vfceq vmd vs1 vs2 vm => Sys2Proof.Machine.execVfceq vmd vs1 vs2 vm s
  | .vfclt vmd vs1 vs2 vm => Sys2Proof.Machine.execVfclt vmd vs1 vs2 vm s
  | .vfcle vmd vs1 vs2 vm => Sys2Proof.Machine.execVfcle vmd vs1 vs2 vm s
  | .vsel vd vs1 vs2 sel => Sys2Proof.Machine.execVsel vd vs1 vs2 sel s
  | .vmov vd vs1 vm => Sys2Proof.Machine.execVmov vd vs1 vm s
  | .vperm vd vs1 vs2 vm => Sys2Proof.Machine.execVperm vd vs1 vs2 vm s
  | .vcvtSW vd vs1 vm => Sys2Proof.Machine.execVcvtSW vd vs1 vm s
  | .vcvtWS vd vs1 vm => Sys2Proof.Machine.execVcvtWS vd vs1 vm s
  | .vcvtSH vd vs1 vm => Sys2Proof.Machine.execVcvtSH vd vs1 vm s
  | .vcvtHS vd vs1 vm => Sys2Proof.Machine.execVcvtHS vd vs1 vm s
  | .vcvtSBf vd vs1 vm => Sys2Proof.Machine.execVcvtSBf vd vs1 vm s
  | .vcvtBfS vd vs1 vm => Sys2Proof.Machine.execVcvtBfS vd vs1 vm s
  | .vlmulH vd vs1 vs2 vm => Sys2Proof.Machine.execVlmulH vd vs1 vs2 vm s
  | .vlinH vd vs1 vm => Sys2Proof.Machine.execVlinH vd vs1 vm s
  | .vlogH vd vs1 vm => Sys2Proof.Machine.execVlogH vd vs1 vm s
  | .vlinB vd vs1 vm => Sys2Proof.Machine.execVlinB vd vs1 vm s
  | .vlogB vd vs1 vm => Sys2Proof.Machine.execVlogB vd vs1 vm s
  | .vredsumW vs1 vm => Sys2Proof.Machine.execVredsumW vs1 vm s
  | .vredsumS vs1 vm => Sys2Proof.Machine.execVredsumS vs1 vm s
  | .vredmaxS vs1 vm => Sys2Proof.Machine.execVredmaxS vs1 vm s
  | .vredminS vs1 vm => Sys2Proof.Machine.execVredminS vs1 vm s
  | .vredmaxW vs1 vm => Sys2Proof.Machine.execVredmaxW vs1 vm s
  | .vaddWShort vd vs => Sys2Proof.Machine.execVaddWShort vd vs s
  | .vsubWShort vd vs => Sys2Proof.Machine.execVsubWShort vd vs s
  | .vmulWShort vd vs => Sys2Proof.Machine.execVmulWShort vd vs s
  | .vandShort vd vs => Sys2Proof.Machine.execVandShort vd vs s
  | .vorShort vd vs => Sys2Proof.Machine.execVorShort vd vs s
  | .vxorShort vd vs => Sys2Proof.Machine.execVxorShort vd vs s
  | .vminWShort vd vs => Sys2Proof.Machine.execVminWShort vd vs s
  | .vmaxWShort vd vs => Sys2Proof.Machine.execVmaxWShort vd vs s
  | .vfaddShort vd vs => Sys2Proof.Machine.execVfaddShort vd vs s
  | .vfsubShort vd vs => Sys2Proof.Machine.execVfsubShort vd vs s
  | .vfmulShort vd vs => Sys2Proof.Machine.execVfmulShort vd vs s
  | .vfminShort vd vs => Sys2Proof.Machine.execVfminShort vd vs s
  | .vfmaxShort vd vs => Sys2Proof.Machine.execVfmaxShort vd vs s
  | .vmovShort vd vs => Sys2Proof.Machine.execVmovShort vd vs s
  | .vlmulHShort vd vs => Sys2Proof.Machine.execVlmulHShort vd vs s
  | .vsllShort vd vs => Sys2Proof.Machine.execVsllShort vd vs s
  | .vaddWBcast vd o => Sys2Proof.Machine.execVaddWBcast vd o s
  | .vsubWBcast vd o => Sys2Proof.Machine.execVsubWBcast vd o s
  | .vmulWBcast vd o => Sys2Proof.Machine.execVmulWBcast vd o s
  | .vandBcast vd o => Sys2Proof.Machine.execVandBcast vd o s
  | .vorBcast vd o => Sys2Proof.Machine.execVorBcast vd o s
  | .vxorBcast vd o => Sys2Proof.Machine.execVxorBcast vd o s
  | .vminWBcast vd o => Sys2Proof.Machine.execVminWBcast vd o s
  | .vmaxWBcast vd o => Sys2Proof.Machine.execVmaxWBcast vd o s
  | .vfaddBcast vd o => Sys2Proof.Machine.execVfaddBcast vd o s
  | .vfsubBcast vd o => Sys2Proof.Machine.execVfsubBcast vd o s
  | .vfmulBcast vd o => Sys2Proof.Machine.execVfmulBcast vd o s
  | .vfminBcast vd o => Sys2Proof.Machine.execVfminBcast vd o s
  | .vfmaxBcast vd o => Sys2Proof.Machine.execVfmaxBcast vd o s
  | .vmovBcast vd o => Sys2Proof.Machine.execVmovBcast vd o s
  | .vlmulHBcast vd o => Sys2Proof.Machine.execVlmulHBcast vd o s
  | .vsllBcast vd o => Sys2Proof.Machine.execVsllBcast vd o s
  | .vld vd k rs2 vm => Sys2Proof.Machine.execVld vd k rs2 vm s
  | .vst vd k rs2 vm => Sys2Proof.Machine.execVst vd k rs2 vm s
  | .vlds vd k rs2 vm => Sys2Proof.Machine.execVlds vd k rs2 vm s
  | .vsts vd k rs2 vm => Sys2Proof.Machine.execVsts vd k rs2 vm s
  | .vldg vd k vm => Sys2Proof.Machine.execVldg vd k vm s
  | .vstg vd k vn vm => Sys2Proof.Machine.execVstg vd k vn vm s
  | .vbcast vd rs1 vm => Sys2Proof.Machine.execVbcast vd rs1 vm s
  | .vmovs vd rs2 => Sys2Proof.Machine.execVmovs vd rs2 s
  | .vins vd rs1 rs2 => Sys2Proof.Machine.execVins vd rs1 rs2 s
  | .viota vd vm => Sys2Proof.Machine.execViota vd vm s
  | .vrand vd vm => Sys2Proof.Machine.execVrand vd vm s
  | .gang rs1 => Sys2Proof.Machine.execGang rs1 s
  | .ungang => Sys2Proof.Machine.execUngang s
  | .vfence => Sys2Proof.Machine.execVfence s
  | .vsetw rs1 => Sys2Proof.Machine.execVsetw rs1 s
  | .vmand vmd vms1 vms2 => Sys2Proof.Machine.execVmand vmd vms1 vms2 s
  | .vmor vmd vms1 vms2 => Sys2Proof.Machine.execVmor vmd vms1 vms2 s
  | .vmnot vmd vms1 => Sys2Proof.Machine.execVmnot vmd vms1 s
  | .vmpopc rd vms1 => Sys2Proof.Machine.execVmpopc rd vms1 s
  | .mclaim rd => Sys2Proof.Machine.execMclaim rd s
  | .mfree => Sys2Proof.Machine.execMfree s
  | .mldw rs1 => Sys2Proof.Machine.execMldw rs1 s
  | .mswap => Sys2Proof.Machine.execMswap s
  | .mstream rs1 rs2 => Sys2Proof.Machine.execMstream rs1 rs2 s
  | .mzero rs1 rs2 => Sys2Proof.Machine.execMzero rs1 rs2 s
  | .mstore rs1 rs2 => Sys2Proof.Machine.execMstore rs1 rs2 s
  | .mwait => Sys2Proof.Machine.execMwait s
  | .mmode rs1 => Sys2Proof.Machine.execMmode rs1 s
  | .mscale rs1 rs2 => Sys2Proof.Machine.execMscale rs1 rs2 s
  | .mstat rd => Sys2Proof.Machine.execMstat rd s
  | .cpq q => Sys2Proof.Machine.execCpq q s
  | .cpqt rd q => Sys2Proof.Machine.execCpqt rd q s
  | .rinit rs1 => Sys2Proof.Machine.execRinit rs1 s
  | .rawait rd rs1 => Sys2Proof.Machine.execRawait rd rs1 s
  | .rrel rs1 => Sys2Proof.Machine.execRrel rs1 s
  | .rpeek rd rs1 => Sys2Proof.Machine.execRpeek rd rs1 s
  | .binit rs1 rs2 => Sys2Proof.Machine.execBinit rs1 rs2 s
  | .barv rd rs1 => Sys2Proof.Machine.execBarv rd rs1 s
  | .bexp rs1 rs2 => Sys2Proof.Machine.execBexp rs1 rs2 s
  | .bwait rd rs1 rs2 => Sys2Proof.Machine.execBwait rd rs1 rs2 s
  | .btest rd rs1 rs2 => Sys2Proof.Machine.execBtest rd rs1 rs2 s
  | .grank rd rs1 => Sys2Proof.Machine.execGrank rd rs1 s
  | .gsize rd rs1 => Sys2Proof.Machine.execGsize rd rs1 s
  | .garv rd rs1 => Sys2Proof.Machine.execGarv rd rs1 s
  | .gwait rs1 rs2 => Sys2Proof.Machine.execGwait rs1 rs2 s
  | .evsig rs1 rs2 => Sys2Proof.Machine.execEvsig rs1 rs2 s
  | .evwait rs1 => Sys2Proof.Machine.execEvwait rs1 s
  | .evtry rd rs1 => Sys2Proof.Machine.execEvtry rd rs1 s
  | .evset rs1 => Sys2Proof.Machine.execEvset rs1 s
  | .evclr rs1 => Sys2Proof.Machine.execEvclr rs1 s
  | .spawn rd rs1 => Sys2Proof.Machine.execSpawn rd rs1 s
  | .suspend => Sys2Proof.Machine.execSuspend s
  | .yield => Sys2Proof.Machine.execYield s
  | .exit => Sys2Proof.Machine.execExit s
  | .resume rs1 => Sys2Proof.Machine.execResume rs1 s
  | .dist rd rs1 size => Sys2Proof.Machine.execDist rd rs1 size s
  | .srd rd sr => Sys2Proof.Machine.execSrd rd sr s
  | .swr rd sr rs1 => Sys2Proof.Machine.execSwr rd sr rs1 s
  | .sset rd sr rs1 => Sys2Proof.Machine.execSset rd sr rs1 s
  | .sclr rd sr rs1 => Sys2Proof.Machine.execSclr rd sr rs1 s
  | .trap code => Sys2Proof.Machine.execTrap code s
  | .uret => Sys2Proof.Machine.execUret s
  | .uiret => Sys2Proof.Machine.execUiret s
  | .sret => Sys2Proof.Machine.execSret s
  | .brk => Sys2Proof.Machine.execBrk s
  | .wfi => Sys2Proof.Machine.execWfi s
  | .uien rs1 => Sys2Proof.Machine.execUien rs1 s
  | .pref rs1 => Sys2Proof.Machine.execPref rs1 s
  | .invl rs1 => Sys2Proof.Machine.execInvl rs1 s
  | .hmbump rs1 => Sys2Proof.Machine.execHmbump rs1 s
  | .relack rs1 => Sys2Proof.Machine.execRelack rs1 s
  | .flushl rs1 => Sys2Proof.Machine.execFlushl rs1 s
  | .vfcall rd rs1 => Sys2Proof.Machine.execVfcall rd rs1 s
  | .qrnPop => Sys2Proof.Machine.execQrnPop s
  | .qcsPop => Sys2Proof.Machine.execQcsPop s
  | .qntPop => Sys2Proof.Machine.execQntPop s
  | .qvsPop => Sys2Proof.Machine.execQvsPop s
  | .qmoPop => Sys2Proof.Machine.execQmoPop s
  | .qmiPush v => Sys2Proof.Machine.execQmiPush v s
  | .qsaPush v => Sys2Proof.Machine.execQsaPush v s
  | .qsoPop => Sys2Proof.Machine.execQsoPop s
  | .lookaheadResult i1 => Sys2Proof.Machine.execLookaheadResult i1 s
  | .storeOrdered i1 => Sys2Proof.Machine.execStoreOrdered i1 s
  | .acknowledgement i1 => Sys2Proof.Machine.execAcknowledgement i1 s
  | .amoResult => Sys2Proof.Machine.execAmoResult s
  | .allowanceEnd i1 => Sys2Proof.Machine.execAllowanceEnd i1 s
  | .userInterrupt => Sys2Proof.Machine.execUserInterrupt s
  | .asynchronousTrap => Sys2Proof.Machine.execAsynchronousTrap s
  | .vectorGrant cell => Sys2Proof.Machine.execVectorGrant cell s
  | .vectorComplete => Sys2Proof.Machine.execVectorComplete s
  | .copyChunkStart engine => Sys2Proof.Machine.execCopyChunkStart engine s
  | .copyChunkDone id => Sys2Proof.Machine.execCopyChunkDone id s
  | .copyCompletion id => Sys2Proof.Machine.execCopyCompletion id s
  | .periodRefill vf => Sys2Proof.Machine.execPeriodRefill vf s
  | .planeLoad cell => Sys2Proof.Machine.execPlaneLoad cell s
  | .rowInjection cell => Sys2Proof.Machine.execRowInjection cell s
  | .rowComplete cell => Sys2Proof.Machine.execRowComplete cell s
  | .pageRelocation => Sys2Proof.Machine.execPageRelocation s
  | .cellRetirement cell => Sys2Proof.Machine.execCellRetirement cell s
  | .scrub cell corrected => Sys2Proof.Machine.execScrub cell corrected s
  | .softErrorHalving => Sys2Proof.Machine.execSoftErrorHalving s
  | .stage2Load vf => Sys2Proof.Machine.execStage2Load vf s
  | .pageWalk i1 => Sys2Proof.Machine.execPageWalk i1 s
  | .hostWrite t data => Sys2Proof.Machine.execHostWrite t data s
  | .hostRead t n => Sys2Proof.Machine.execHostRead t n s
  | .launchCommit vf slot => Sys2Proof.Machine.execLaunchCommit vf slot s
  | .launchCompletion id => Sys2Proof.Machine.execLaunchCompletion id s
  | .dispatch => Sys2Proof.Machine.execDispatch s
  | .sliceEnding node => Sys2Proof.Machine.execSliceEnding node s
  | .sliceEnd node => Sys2Proof.Machine.execSliceEnd node s
  | .coreHalt => Sys2Proof.Machine.execCoreHalt s
  | .flushComplete node => Sys2Proof.Machine.execFlushComplete node s
  | .sliceStart node => Sys2Proof.Machine.execSliceStart node s
  | .actionRecord => Sys2Proof.Machine.execActionRecord s
  | .setmin => Sys2Proof.Machine.execSetmin s
  | .setwd => Sys2Proof.Machine.execSetwd s
  | .setimg => Sys2Proof.Machine.execSetimg s
  | .actionDelivery ac => Sys2Proof.Machine.execActionDelivery ac s
  | .post ac => Sys2Proof.Machine.execPost ac s
  | .wait ac => Sys2Proof.Machine.execWait ac s
  | .controlBlockWrite ac off v => Sys2Proof.Machine.execControlBlockWrite ac off v s
  | .episodeZeroed n => Sys2Proof.Machine.execEpisodeZeroed n s
  | .watchdogExpiry n => Sys2Proof.Machine.execWatchdogExpiry n s
  | .cappingDecision coll need => Sys2Proof.Machine.execCappingDecision coll need s
  | .cadenceApply coll => Sys2Proof.Machine.execCadenceApply coll s
  | .tokenGrant mj => Sys2Proof.Machine.execTokenGrant mj s
  | .tokenTrade inward mj => Sys2Proof.Machine.execTokenTrade inward mj s
  | .fallbackGrant => Sys2Proof.Machine.execFallbackGrant s
  | .estimatorRefit shunt rms counts => Sys2Proof.Machine.execEstimatorRefit shunt rms counts s
  | .telemetryRead mw => Sys2Proof.Machine.execTelemetryRead mw s
  | .energyRefresh vf use => Sys2Proof.Machine.execEnergyRefresh vf use s
  | .stallrUpdate cluster v => Sys2Proof.Machine.execStallrUpdate cluster v s
  | .setv die mv => Sys2Proof.Machine.execSetv die mv s
  | .setfb cluster freq bias => Sys2Proof.Machine.execSetfb cluster freq bias s
  | .voltageStepSettled die => Sys2Proof.Machine.execVoltageStepSettled die s
  | .biasSettled cluster => Sys2Proof.Machine.execBiasSettled cluster s
  | .thermalSample sensor degC => Sys2Proof.Machine.execThermalSample sensor degC s
  | .coolantFlowLow decilitres => Sys2Proof.Machine.execCoolantFlowLow decilitres s
  | .ackTimeout i1 => Sys2Proof.Machine.execAckTimeout i1 s
  | .hivePortFailure die => Sys2Proof.Machine.execHivePortFailure die s
  | .peerChunkArrival link ring vf cmd len chunk data => Sys2Proof.Machine.execPeerChunkArrival link ring vf cmd len chunk data s
  | .chipLinkFailure link => Sys2Proof.Machine.execChipLinkFailure link s
  | .powerOnReset => Sys2Proof.Machine.execPowerOnReset s
  | .enterReduced => Sys2Proof.Machine.execEnterReduced s
  | .enterFull => Sys2Proof.Machine.execEnterFull s
  | .assignvf vf node share compat => Sys2Proof.Machine.execAssignvf vf node share compat s
  | .sets2 vf i1 e => Sys2Proof.Machine.execSets2 vf i1 e s
  | .setslice node i1 vf units valid => Sys2Proof.Machine.execSetslice node i1 vf units valid s
  | .setcoll node coll => Sys2Proof.Machine.execSetcoll node coll s
  | .setway vf cell mask => Sys2Proof.Machine.execSetway vf cell mask s
  | .setscope vf scope => Sys2Proof.Machine.execSetscope vf scope s
  | .setmbox n owner => Sys2Proof.Machine.execSetmbox n owner s
  | .setbudget vf units period weight => Sys2Proof.Machine.execSetbudget vf units period weight s
  | .resetdie die => Sys2Proof.Machine.execResetdie die s
  | .saveregion base size => Sys2Proof.Machine.execSaveregion base size s
  | .attest nonce => Sys2Proof.Machine.execAttest nonce s
  | .s2reply vf status result => Sys2Proof.Machine.execS2reply vf status result s
  | .setroot vf => Sys2Proof.Machine.execSetroot vf s
  | .reserve vf => Sys2Proof.Machine.execReserve vf s
  | .relocate vf => Sys2Proof.Machine.execRelocate vf s
  | .setq vf => Sys2Proof.Machine.execSetq vf s
  | .s2req vf => Sys2Proof.Machine.execS2req vf s
  | .publish vf => Sys2Proof.Machine.execPublish vf s
  | .unpublish vf => Sys2Proof.Machine.execUnpublish vf s
  | .pwrread vf => Sys2Proof.Machine.execPwrread vf s
  | .reservedEncoding w => Sys2Proof.Machine.execReservedEncoding w s
  | .fetchFault => Sys2Proof.Machine.execFetchFault s
  | .environmentCoreInstruction ac => Sys2Proof.Machine.execEnvironmentCoreInstruction ac s
  | .hiveDieFault => Sys2Proof.Machine.execHiveDieFault s
  | .matrixInstructionComplete cell => Sys2Proof.Machine.execMatrixInstructionComplete cell s

end Sys2Proof.Machine
end

