-- ==== Sys2Proof/Machine/Turns.lean ====
section
/-!
DEFINITION. One turn of an agent: a core's next instruction with what precedes it at a boundary, a row of another agent, and
the acts of time and damage (log 1, R11, R33, R34, R60, R180, R224, R357, R358).
-/

namespace Sys2Proof.Machine

open Host (Outcome)

/-! ### A core's turn -/

/-- The core issues nothing: it runs no continuation, has halted, follows a gang's leader, its VF's slice does not run, or it waits
for the acknowledgement of its own release (R144, R205, R337, R342). -/
def idleCore (s : State) : Bool :=
  !s.live || s.ctx.halted || isFollower s.cur s || !vfRuns s.vfid s || stopDue s || s.ctx.acks.any (·.rel)

/-- Before these instructions the core waits for every result, and they raise no LAVIOL (R33). -/
def endsWindows : Instr → Bool
  | .suspend => true
  | .yield => true
  | .evwait _ => true
  | .exit => true
  | .uret => true
  | .uiret => true
  | .sret => true
  | .gang _ => true
  | .ungang => true
  | .trap _ => true
  | .brk => true
  | _ => false

/-- The checks that come before LAVIOL once an encoding has decoded (R60, R104): privilege, and read-only registers. -/
def checkedFirst (i : Instr) (s : State) : Res Unit :=
  match i with
  | .srd _ sr => sysCheck false sr s
  | .swr _ sr _ => sysCheck true sr s
  | .sset _ sr _ => sysCheck true sr s
  | .sclr _ sr _ => sysCheck true sr s
  | .hmbump _ => needSup s
  | .relack _ => needSup s
  | .vfcall _ _ => needSup s
  | _ => .ok ()

/-- The oldest leading instruction in whose window this one names the destination (R34). -/
def laviol (i : Instr) (s : State) : Option LaEnt :=
  if endsWindows i then none
  else s.ctx.la.find? fun e => e.dests.any fun d => d.1 != .z && (instrRegs i).contains d.1

/-- Issue an instruction, after the checks of R60 that come before its own. -/
def issue (i : Instr) (s : State) : Outcome State Fault Refusal :=
  match checkedFirst i s with
  | .error e => finish s (.error e)
  | .ok () =>
    match laviol i s with
    | some e => finish s (raise cLAVIOL (w64 (e.pc.toNat % 2 ^ 63)))
    | none => exec i s

/-- Fetch, decode and issue the instruction at the pc (R60). -/
noncomputable def runNext (s : State) : Outcome State Fault Refusal :=
  match fetch s with
  | .error _ => exec .fetchFault s
  | .ok (w, t) =>
    let u := { t with insn := w64 w }
    match decodeWord w with
    | none => exec (.reservedEncoding (BitVec.ofNat 32 w)) u
    | some i => issue i u

/-- A core's turn: a count that waits for its result, then the asynchronous traps, then a user interrupt, then the instruction, whose
synchronous trap comes last: a fault-upcall that waits for its write-back goes on only when none of the others is due (R149, R353,
R358). A trap taken before it finds its instruction not executed, and the fault is taken anew after the return. -/
noncomputable def instrTurn (s : State) : Outcome State Fault Refusal :=
  if idleCore s then .next s
  else if s.ctx.vec.popc.isSome then runNext s
  else if (asyncDue s).isSome && !supOpen s then exec .asynchronousTrap s
  else if !s.ctx.qs.pendUi.isEmpty && interruptDue s then exec .userInterrupt s
  else match s.ctx.tr.pendFault with
    | some f => finish s (faultUpcall f s)
    | none => runNext s

/-! ### Time and damage -/

/-- The events that `n` cycles of GCYCLE count for a context on a core (R240). -/
def Ctx.elapse (n : Nat) (c : Ctx) : Ctx :=
  if c.halted then c
  else
    let c1 := c.addEvent 0x02 n
    if c1.waitQ then c1.addEvent 0x0D n else c1

/-- GCYCLE advances (R11). -/
def elapse (n : Nat) (s : State) : State :=
  { s with
    gcycle := s.gcycle + w64 n
    ctx := if s.live then s.ctx.elapse n else s.ctx
    parked := s.parked.map fun p => (p.1, p.2.elapse n) }

/-- The stored check value of a global line becomes `v` (R180). -/
def damageLine (line : Nat) (v : W32) (s : State) : State :=
  let a := line / 64 * 64
  if isGlobal a then setMem (fun m => { m with checks := (a, v) :: m.checks.filter fun c => c.1 != a }) s else s

/-- An uncorrectable 8-byte SRAM word: of a scratchpad, or of a slice that holds its line (R180). -/
def damageWord (a : Nat) (s : State) : State :=
  let held := if isGlobal a then s.fab.slices.any fun l => l.pa == a / 64 * 64 else decide (a < episodeBase)
  if held then setMem (fun m => m.setPoison a) s else s

/-- What one turn does, the acting core's context in place. -/
noncomputable def act (a : Act) (s : State) : Outcome State Fault Refusal :=
  match a with
  | .instr => instrTurn s
  | .event e => if agentRow e then exec e s else .next s
  | .elapse n => .next (elapse n s)
  | .shown i => .next (storeShown i s)
  | .performed id => .next (setMem (fun m => m.perform id s.now) s)
  | .damage line v => .next (damageLine line v s)
  | .wordError a => .next (damageWord a s)
  | .dieFailure die => .next (declareDie die s)
  | .peerCadence link coll new t => .next (peerDecision link coll new t s)
  | .peerEnd link ring vf cmd =>
    .next (endPeers (fun e => e.1 == link && e.2.1 == ring && e.2.2.1 == vf && e.2.2.2.1 == cmd) s)
  | .saveStep => .next (saveNext s)
  | .pfStep endpoint => .next (pfStep endpoint s)

/-- What a part whose dies are off does: only the host restarts the package (R383, R384). -/
def actOff (a : Act) (s : State) : Outcome State Fault Refusal :=
  match a with
  | .event .powerOnReset => exec .powerOnReset s
  | .event (.hostRead t n) => exec (.hostRead t n) s
  | .elapse n => .next (elapse n s)
  | _ => .next s

/-! ### The turn taken -/

/-- Take the head of the schedule, or the free turn. -/
def takeTurn (s : State) : Turn × State :=
  match s.schedule with
  | t :: ts => (t, { s with schedule := ts })
  | [] => (Config.turn s.turnNo, { s with turnNo := s.turnNo + 1 })

/-- One turn in a part that has booted; a failed part takes host reads and time only (R395). Cores are numbered below 8,192. -/
noncomputable def runTurn (s : State) : Outcome State Fault Refusal :=
  let p := takeTurn s
  let t := swapTo (p.1.core % 8192) p.2
  if t.pow.off || decide (t.pf.phase ≠ 3 ∧ t.pf.phase ≠ 4) then actOff p.1.act t else act p.1.act t

/-- One step of the machine: boot by itself as far as REDUCED (R395, R398), then turns. -/
noncomputable def oneStep (s : State) : Outcome State Fault Refusal :=
  if s.pow.off then runTurn s
  else if s.pf.phase = 0 ∨ s.pf.phase = 1 then exec .powerOnReset s
  else if s.pf.phase = 2 then exec .enterReduced s
  else runTurn s

/-! ### A program placed for the next step (log 4) -/

/-- The lines of the two parcels at a fetch address. -/
def placedLines (va : Nat) (s : State) : List CLine :=
  let line := fun (a : Nat) =>
    (⟨s.cur, 0, s.vfid, a / 64 * 64, a / 64 * 64 % 2 ^ 38, genAt s s.vfid (a / 64 * 64), true, true, true, false, 0,
      s.ctx.info.key⟩ : CLine)
  if va / 64 = (va + 2) / 64 then [line va] else [line va, line (va + 2)]

/-- The VF of the acting context is placed on a node whose slice runs. -/
def placeVf (s : State) : State :=
  let vf := s.vfid
  let s1 := match s.trans.vf? vf with
    | some _ => setVf s vf fun f => { f with compat := false }
    | none =>
      let f : Vf := ⟨vf, 0, false, 0, 0, Vector.replicate 48 0, [], [], [], 0, .sys, Vector.replicate 16 0,
        Vector.replicate 16 0, 0⟩
      { s with trans := { s.trans with vfs := f :: s.trans.vfs } }
  let node := ((s1.trans.vf? vf).map (·.node)).getD 0
  if vfRuns vf s1 && !stopDue s1 then s1
  else
    let others := s1.sch.nodes.filter fun n => !(nodeFrame n.num).hasCell (cellOf s.cur) && n.num != node
    setSch (fun t => { t with nodes := ⟨node, [(vf, 1, true)], 0, .slice vf (s.now + 12500), false⟩ :: others }) s1

/-- The acting continuation runs, with nothing due before its next instruction. -/
def readyCtx (c : Ctx) : Ctx :=
  { c with
    tr := { c.tr with pendDie := 0, ackDue := false, pendEcc := [], pendFault := none }
    qs := { c.qs with pendUi := [], pendUiScope := [] }
    vec := { c.vec with popc := none }
    pcBad := false
    la := []
    acks := c.acks.filter fun a => !a.rel
    fences := []
    wfi := false
    halted := false }

/-- Bytes placed where the acting core fetches next, with all that the fetch needs: a part that serves, a VF whose slice runs, a
continuation on the core, and its instruction cache holding the lines. -/
def placeBytes (bs : List Byte) (s : State) : State :=
  let va := s.ctx.pc.toNat / 2 * 2
  let s1 := placeVf { s with
    live := true
    ctx := readyCtx s.ctx
    parked := s.parked.filter fun p => !decide (p.1 ≤ s.cur ∧ s.cur < p.1 + p.2.vec.gang)
    pow := { s.pow with off := false }
    pf := { s.pf with phase := 4, save := false }
    schedule := [⟨s.cur, .instr⟩] }
  let ls := placedLines va s1
  let rest := s1.fab.icache.filter fun l => !(l.unit == s.cur && l.vf == s.vfid)
  setMem (fun m => m.writeAll (va % 2 ^ 38) bs) (setFab (fun f => { f with icache := ls ++ rest }) s1)

end Sys2Proof.Machine
end

