-- ==== Sys2Proof/Machine/Step.lean ====
section
/-!
DEFINITION. The step, and an instruction placed where it fetches next (log 1, log 4).
-/

namespace Sys2Proof.Machine

/-- One step. -/
noncomputable def step (s : State) : Host.Outcome State Fault Refusal := oneStep s

/-- The instruction of `nbits` bits `w`, the bits above zero up to 32, stored where `step` fetches its next instruction. -/
def State.withFetchWord (s : State) (nbits w : Nat) : State := placeBytes (bytesOf 4 (w % 2 ^ nbits)) s

end Sys2Proof.Machine
end

