-- ==== Sys2Proof/Safety.lean ====
section
/-!
DEFINITION. What counts as a safe state and a safe outcome, in the terms of the statements.
-/

namespace Sys2Proof.Machine

open Host (Outcome)

/-- The invariant of every step: memory has its canonical form. -/
def State.Inv (s : State) : Prop := s.mem.wf = true

/-- A step goes on: it neither faults nor refuses. -/
def GoesOn (o : Outcome State Fault Refusal) : Prop := ∃ t, o = .next t

/-- An outcome, when it is a next state, has a property. -/
def NextHas (o : Outcome State Fault Refusal) (p : State → Prop) : Prop := ∀ t, o = .next t → p t

end Sys2Proof.Machine
end

