-- ==== Sys2Proof/Certificates/Slice0/Obligations.lean ====
section
/-!
DEFINITION. The statements for the provers. The tables and predicates they are written in stand in Sys2Proof.Stmt, in the words of
the spec and not of the model's own functions wherever the spec gives a formula.
-/

namespace Sys2Proof.Stmt

open Sys2Proof.Machine

/-! ### Tables of the scalar families: a constructor beside the value its rule gives -/

/-- The low `n` bits of a number read as two's complement. -/
def signedLow (n v : Nat) : Int := if v % 2 ^ n < 2 ^ (n - 1) then (v % 2 ^ n : Nat) else (v % 2 ^ n : Nat) - 2 ^ n

/-- Sx of an integer: its low `n` bits, sign-extended to 64. -/
def sxOf (n : Nat) (v : Int) : W64 := BitVec.ofInt 64 (signedLow n (v % 2 ^ n).toNat)

/-- One or zero. -/
def oneIf (p : Prop) [Decidable p] : W64 := if p then 1 else 0

/-- How many of the bits `f 0, f 1, …` of a word stand before the first one. -/
def zerosBefore (f : Nat → Bool) : Nat := ((List.range 64).takeWhile fun i => !f i).length

/-- ALU instructions of two sources with the value of R109, and CRDMK and CRDADD with R115 and R117. -/
def twoSource : List ((Reg → Reg → Reg → Instr) × (W64 → W64 → W64)) := [
  (.add, fun a b => a + b),
  (.sub, fun a b => a - b),
  (.and, fun a b => a &&& b),
  (.or, fun a b => a ||| b),
  (.xor, fun a b => a ^^^ b),
  (.andn, fun a b => a &&& ~~~b),
  (.orn, fun a b => a ||| ~~~b),
  (.xnor, fun a b => ~~~(a ^^^ b)),
  (.sll, fun a b => w64 (a.toNat * 2 ^ (b.toNat % 64))),
  (.srl, fun a b => w64 (a.toNat / 2 ^ (b.toNat % 64))),
  (.sra, fun a b => BitVec.ofInt 64 (a.toInt / 2 ^ (b.toNat % 64))),
  (.rol, fun a b => w64 (a.toNat * 2 ^ (b.toNat % 64) + a.toNat / 2 ^ (64 - b.toNat % 64))),
  (.ror, fun a b => w64 (a.toNat / 2 ^ (b.toNat % 64) + a.toNat * 2 ^ (64 - b.toNat % 64))),
  (.slt, fun a b => oneIf (a.toInt < b.toInt)),
  (.sltu, fun a b => oneIf (a.toNat < b.toNat)),
  (.min, fun a b => if a.toInt ≤ b.toInt then a else b),
  (.max, fun a b => if a.toInt ≤ b.toInt then b else a),
  (.minu, fun a b => if a.toNat ≤ b.toNat then a else b),
  (.maxu, fun a b => if a.toNat ≤ b.toNat then b else a),
  (.mul, fun a b => w64 (a.toNat * b.toNat)),
  (.mulh, fun a b => BitVec.ofInt 64 (a.toInt * b.toInt / 2 ^ 64)),
  (.mulhu, fun a b => w64 (a.toNat * b.toNat / 2 ^ 64)),
  (.mulhsu, fun a b => BitVec.ofInt 64 (a.toInt * b.toNat / 2 ^ 64)),
  (.sh1add, fun a b => w64 (2 * a.toNat + b.toNat)),
  (.sh2add, fun a b => w64 (4 * a.toNat + b.toNat)),
  (.sh3add, fun a b => w64 (8 * a.toNat + b.toNat)),
  (.czero, fun a b => if b = 0 then 0 else a),
  (.addw, fun a b => sxOf 32 (a.toNat + b.toNat)),
  (.subw, fun a b => sxOf 32 (a.toNat - b.toNat)),
  (.sllw, fun a b => sxOf 32 (a.toNat % 2 ^ 32 * 2 ^ (b.toNat % 32))),
  (.srlw, fun a b => sxOf 32 (a.toNat % 2 ^ 32 / 2 ^ (b.toNat % 32) : Nat)),
  (.sraw, fun a b => sxOf 32 (signedLow 32 a.toNat / 2 ^ (b.toNat % 32))),
  (.mulw, fun a b => sxOf 32 (a.toNat * b.toNat))]

/-- ALU instructions of one source with the value of R109. -/
def oneSource : List ((Reg → Reg → Instr) × (W64 → W64)) := [
  (.clz, fun a => w64 (zerosBefore fun i => a.getLsbD (63 - i))),
  (.ctz, fun a => w64 (zerosBefore fun i => a.getLsbD i)),
  (.popc, fun a => w64 ((List.range 64).countP fun i => a.getLsbD i)),
  (.brev, fun a => w64 (((List.range 64).map fun i => (a.getLsbD i).toNat * 2 ^ (63 - i)).sum)),
  (.bswap, fun a => w64 (((List.range 8).map fun i => a.toNat / 256 ^ i % 256 * 256 ^ (7 - i)).sum)),
  (.sextb, fun a => sxOf 8 a.toNat),
  (.sexth, fun a => sxOf 16 a.toNat),
  (.sextw, fun a => sxOf 32 a.toNat),
  (.zextb, fun a => w64 (a.toNat % 2 ^ 8)),
  (.zexth, fun a => w64 (a.toNat % 2 ^ 16)),
  (.zextw, fun a => w64 (a.toNat % 2 ^ 32))]

/-- The immediate majors with the value of R110; `i` is Sx(imm13, 13). -/
def immSource : List ((Reg → Reg → BitVec 13 → Instr) × (W64 → W64 → W64)) := [
  (.addi, fun a i => a + i),
  (.andi, fun a i => a &&& i),
  (.ori, fun a i => a ||| i),
  (.xori, fun a i => a ^^^ i),
  (.slti, fun a i => oneIf (a.toInt < i.toInt)),
  (.sltiu, fun a i => oneIf (a.toNat < i.toNat)),
  (.addiw, fun a i => sxOf 32 (a.toNat + i.toNat))]

/-- SHI with a 6-bit shift amount (R111). -/
def shift6 : List ((Reg → Reg → BitVec 6 → Instr) × (W64 → Nat → W64)) := [
  (.slli, fun a n => w64 (a.toNat * 2 ^ n)),
  (.srli, fun a n => w64 (a.toNat / 2 ^ n)),
  (.srai, fun a n => BitVec.ofInt 64 (a.toInt / 2 ^ n)),
  (.rori, fun a n => w64 (a.toNat / 2 ^ n + a.toNat * 2 ^ (64 - n)))]

/-- SHI in its W forms (R111). -/
def shift5 : List ((Reg → Reg → BitVec 5 → Instr) × (W64 → Nat → W64)) := [
  (.slliw, fun a n => sxOf 32 (a.toNat % 2 ^ 32 * 2 ^ n)),
  (.srliw, fun a n => sxOf 32 (a.toNat % 2 ^ 32 / 2 ^ n : Nat)),
  (.sraiw, fun a n => sxOf 32 (signedLow 32 a.toNat / 2 ^ n))]

/-- Scalar floating point of two sources: value and FSTAT flags (R122, R123). Values are of FP32 patterns in bits 31:0. -/
def fpTwo : List ((Reg → Reg → Reg → Instr) × (W32 → W32 → W64 × FFlags)) := [
  (.fadd, fun a b => ((fadd32 a b).1.setWidth 64, (fadd32 a b).2)),
  (.fsub, fun a b => ((fsub32 a b).1.setWidth 64, (fsub32 a b).2)),
  (.fmul, fun a b => ((fmul32 a b).1.setWidth 64, (fmul32 a b).2)),
  (.fmin, fun a b => ((fmin32 a b).1.setWidth 64, (fmin32 a b).2)),
  (.fmax, fun a b => ((fmax32 a b).1.setWidth 64, (fmax32 a b).2)),
  (.feq, fun a b => (oneIf ((feq32 a b).1 = true), (feq32 a b).2)),
  (.flt, fun a b => (oneIf ((flt32 a b).1 = true), (flt32 a b).2)),
  (.fle, fun a b => (oneIf ((fle32 a b).1 = true), (fle32 a b).2)),
  (.fsgnj, fun a b => (w64 (b.toNat / 2 ^ 31 * 2 ^ 31 + a.toNat % 2 ^ 31), 0)),
  (.fsgnjn, fun a b => (w64 ((1 - b.toNat / 2 ^ 31) * 2 ^ 31 + a.toNat % 2 ^ 31), 0)),
  (.fsgnjx, fun a b => (w64 ((a.toNat / 2 ^ 31 + b.toNat / 2 ^ 31) % 2 * 2 ^ 31 + a.toNat % 2 ^ 31), 0))]

/-- Scalar floating point of one source (R122); the source is the whole register word. -/
def fpOne : List ((Reg → Reg → Instr) × (W64 → W64 × FFlags)) := [
  (.fclass, fun a => (w64 (classBits fp32 (a.toNat % 2 ^ 32)), 0)),
  (.fcvtWS, fun a => (BitVec.ofInt 64 (toSigned 32 (a.setWidth 32)).1, (toSigned 32 (a.setWidth 32)).2)),
  (.fcvtWuS, fun a => (BitVec.ofInt 64 (toUnsigned 32 (a.setWidth 32)).1, (toUnsigned 32 (a.setWidth 32)).2)),
  (.fcvtSW, fun a => ((ofInt32 (signedLow 32 a.toNat)).1.setWidth 64, (ofInt32 (signedLow 32 a.toNat)).2)),
  (.fcvtSWu, fun a => ((ofInt32 (a.toNat % 2 ^ 32 : Nat)).1.setWidth 64, (ofInt32 (a.toNat % 2 ^ 32 : Nat)).2)),
  (.fcvtSH, fun a => ((widen32 fp16 (a.toNat % 2 ^ 16)).1.setWidth 64, (widen32 fp16 (a.toNat % 2 ^ 16)).2)),
  (.fcvtHS, fun a => (w64 (narrow32 fp16 (a.setWidth 32)).1, (narrow32 fp16 (a.setWidth 32)).2)),
  (.fcvtSBf, fun a => ((widen32 bf16 (a.toNat % 2 ^ 16)).1.setWidth 64, (widen32 bf16 (a.toNat % 2 ^ 16)).2)),
  (.fcvtBfS, fun a => (w64 (narrow32 bf16 (a.setWidth 32)).1, (narrow32 bf16 (a.setWidth 32)).2)),
  (.fcvtLS, fun a => (BitVec.ofInt 64 (toSigned 64 (a.setWidth 32)).1, (toSigned 64 (a.setWidth 32)).2)),
  (.fcvtSL, fun a => ((ofInt32 a.toInt).1.setWidth 64, (ofInt32 a.toInt).2))]

/-- Fused multiply-add (R125). -/
def fpThree : List ((Reg → Reg → Reg → Reg → Instr) × (W32 → W32 → W32 → W32 × FFlags)) := [
  (.fmadd, fmadd32),
  (.fnmadd, fnmadd32)]

/-- Scalar LNS of one source: value and LFLAGS (R126). -/
def lnsOne : List ((Reg → Reg → Instr) × (W64 → W64 × LFlags)) := [
  (.lnscvtB, fun a => (w64 (log8 false (a.setWidth 32)).1, (log8 false (a.setWidth 32)).2)),
  (.lnscvtH, fun a => (w64 (log16 false (a.setWidth 32)).1, (log16 false (a.setWidth 32)).2)),
  (.lincvtB, fun a => ((lin8 (lns8 (a.toNat % 2 ^ 8))).setWidth 64, 0)),
  (.lincvtH, fun a => ((lin16 false (lns16 (a.toNat % 2 ^ 16))).1.setWidth 64, (lin16 false (lns16 (a.toNat % 2 ^ 16))).2))]

/-- Scalar LNS of two sources (R81, R126). -/
def lnsTwo : List ((Reg → Reg → Reg → Instr) × (W64 → W64 → W64 × LFlags)) := [
  (.lmulB, fun a b => (w64 (lnsMul 7 (lns8 (a.toNat % 2 ^ 8)) (lns8 (b.toNat % 2 ^ 8))).1,
    (lnsMul 7 (lns8 (a.toNat % 2 ^ 8)) (lns8 (b.toNat % 2 ^ 8))).2)),
  (.lmulH, fun a b => (w64 (lnsMul 15 (lns16 (a.toNat % 2 ^ 16)) (lns16 (b.toNat % 2 ^ 16))).1,
    (lnsMul 15 (lns16 (a.toNat % 2 ^ 16)) (lns16 (b.toNat % 2 ^ 16))).2))]

/-! ### What an instruction that only computes leaves alone -/

/-- The registers that outstanding lookahead results will write. -/
def owedRegs (s : State) : List Reg := s.ctx.la.flatMap fun e => e.dests.map Prod.fst

/-- A source that pops nothing. -/
def plainSrc : Reg → Bool
  | .m _ => true
  | .o _ => true
  | .l _ => true
  | .z => true
  | _ => false

/-- A destination that pushes nothing. -/
def plainDst : Reg → Bool
  | .m _ => true
  | .o _ => true
  | .z => true
  | _ => false

/-- The value a register of the file holds in a state; 0 for z and the queue registers. -/
def held (r : Reg) (s : State) : W64 :=
  match r with
  | .m i => s.ctx.g.m[i]
  | .o i => s.ctx.g.cur.o[i]
  | .l i => s.ctx.g.cur.l[i]
  | _ => 0

/-- From `s` to `t` nothing changes outside the acting context's general registers, program counter, windows, sticky flags, event
counters and wait marks: memory, modes, trap registers, vector state, queues and every other agent stand as they were. -/
def OnlyScalar (s t : State) : Prop :=
  t = { s with ctx := { s.ctx with
    g := t.ctx.g
    pc := t.ctx.pc
    pcBad := t.ctx.pcBad
    la := t.ctx.la
    waitQ := t.ctx.waitQ
    wfi := t.ctx.wfi
    sys := { s.ctx.sys with evc := t.ctx.sys.evc, fstat := t.ctx.sys.fstat, lflags := t.ctx.sys.lflags } } }

/-- The registers outside `rd` and outside the windows' destinations are as they were, and so is the active set. -/
def RegsKept (rd : Reg) (s t : State) : Prop :=
  (∀ i : Fin 32, Reg.m i ≠ rd → Reg.m i ∉ owedRegs s → t.ctx.g.m[i] = s.ctx.g.m[i]) ∧
  (∀ i : Fin 8, Reg.o i ≠ rd → Reg.o i ∉ owedRegs s → t.ctx.g.cur.o[i] = s.ctx.g.cur.o[i]) ∧
  (∀ k : Fin 16, (∀ i : Fin 32, i.val / 2 = k.val → Reg.m i ≠ rd ∧ Reg.m i ∉ owedRegs s) →
    t.ctx.g.tags[k] = s.ctx.g.tags[k]) ∧
  t.ctx.g.active = s.ctx.g.active

/-- A one-cycle result `v` with flags has landed: in rd, with its tag cleared, and in the last-result file; the pc has moved on by 4
bytes; sticky flags are those before and the result's own; and nothing else is touched. Registers and flags that windows ending here
write are outside it. -/
def Landed (rd : Reg) (v : W64) (ff : FFlags) (lf : LFlags) (s t : State) : Prop :=
  (rd ≠ .z → rd ∉ owedRegs s → held rd t = v) ∧
  (∀ i : Fin 32, rd = .m i → rd ∉ owedRegs s → (∀ j : Fin 32, j.val / 2 = i.val / 2 → Reg.m j ∉ owedRegs s) →
    t.ctx.g.tags[i.val / 2] = false) ∧
  t.ctx.g.cur.l = #v[v, s.ctx.g.cur.l[0], s.ctx.g.cur.l[1], s.ctx.g.cur.l[2]] ∧
  t.ctx.pc = pcAdd s.ctx.pc 4 ∧
  ((∀ e ∈ s.ctx.la, e.fstat = 0) → t.ctx.sys.fstat = s.ctx.sys.fstat ||| ff) ∧
  ((∀ e ∈ s.ctx.la, e.lflags = 0) → t.ctx.sys.lflags = s.ctx.sys.lflags ||| lf) ∧
  RegsKept rd s t ∧ OnlyScalar s t

end Sys2Proof.Stmt

open Sys2Proof Sys2Proof.Machine Sys2Proof.Stmt

/-! ### Scalar families -/

/-- R109: an ALU instruction of two sources writes its value to rd, takes it into the last-result file and pops its queue sources,
for every form of its operands; with plain registers nothing else changes. -/
def Sys2Proof.Stmt.AluTwoSourceResults : Prop :=
  ∀ p ∈ twoSource, ∀ (rd x y : Reg) (s : State) (a b : W64), readReg x s = .ok a → readReg y s = .ok b →
    (∀ u, writeReg rd (p.2 a b) s = .ok u →
      exec (p.1 rd x y) s = .next (retire 4 (pushL (p.2 a b) (popReg y (popReg x u))))) ∧
    (plainSrc x = true → plainSrc y = true → plainDst rd = true →
      ∃ t, exec (p.1 rd x y) s = .next t ∧ Landed rd (p.2 a b) 0 0 s t)

/-- R109, R110, R111: the ALU instructions of one source, the immediate majors and SHI, in the same way. -/
def Sys2Proof.Stmt.AluOneSourceAndImmediateResults : Prop :=
  ∀ (rd x : Reg) (s : State) (a : W64), readReg x s = .ok a →
    ∀ (i : Instr) (v : W64),
      ((∃ p ∈ oneSource, i = p.1 rd x ∧ v = p.2 a) ∨
        (∃ p ∈ immSource, ∃ imm : BitVec 13, i = p.1 rd x imm ∧ v = p.2 a (imm.signExtend 64)) ∨
        (∃ p ∈ shift6, ∃ n : BitVec 6, i = p.1 rd x n ∧ v = p.2 a n.toNat) ∨
        (∃ p ∈ shift5, ∃ n : BitVec 5, i = p.1 rd x n ∧ v = p.2 a n.toNat)) →
      (∀ u, writeReg rd v s = .ok u → exec i s = .next (retire 4 (pushL v (popReg x u)))) ∧
      (plainSrc x = true → plainDst rd = true → ∃ t, exec i s = .next t ∧ Landed rd v 0 0 s t)

/-- R41, R112, R114, R130: LUI, AUIPC, CRDSELF and the CGET instructions write their value, which no source register gives, and take
it into the last-result file. CGETL's length is cut to 2^64 - 1; AUIPC's is the whole 64-bit sum, which may set bit 63 (log 30). -/
def Sys2Proof.Stmt.ResultsWithoutSources : Prop :=
  ∀ (rd : Reg) (ks : Cap) (imm : BitVec 19) (s : State) (i : Instr) (v : W64),
    ((i = .lui rd imm ∧ v = imm.signExtend 64 * 8192) ∨
      (i = .auipc rd imm ∧ v = w64 (s.ctx.pc.toNat % 2 ^ 63) + imm.signExtend 64 * 8192) ∨
      (i = .crdself rd ∧ v = (1 <<< 63) + (sysRead .celld s <<< 34) + (sysRead .celly s <<< 30) + (sysRead .cellx s <<< 26) +
        (sysRead .rank s <<< 24)) ∨
      (i = .cgetb rd ks ∧ v = s.ctx.g.m[2 * ks.val]) ∨
      (i = .cgetl rd ks ∧ v = w64 (min (fld (s.ctx.g.m[2 * ks.val + 1]).toNat 10 18 *
        2 ^ fld (s.ctx.g.m[2 * ks.val + 1]).toNat 28 6) (2 ^ 64 - 1))) ∨
      (i = .cgetp rd ks ∧ v = w64 (fld (s.ctx.g.m[2 * ks.val + 1]).toNat 34 5 +
        fld (s.ctx.g.m[2 * ks.val + 1]).toNat 9 1 * 2 ^ 8 + fld (s.ctx.g.m[2 * ks.val + 1]).toNat 0 9 * 2 ^ 16)) ∨
      (i = .cgett rd ks ∧ v = oneIf (s.ctx.g.tags[ks] = true))) →
    (∀ u, writeReg rd v s = .ok u → exec i s = .next (retire 4 (pushL v u))) ∧
    (plainDst rd = true → ∃ t, exec i s = .next t ∧ Landed rd v 0 0 s t)

/-- R115: CRDMK packs a coordinate pointer, whatever the higher bits of its sources hold. -/
def Obligations.CrdmkPacksPointer : Prop :=
  ∀ (rd x y : Reg) (s : State) (a b : W64), readReg x s = .ok a → readReg y s = .ok b →
    ∀ v : W64, v = w64 (2 ^ 63 + a.toNat % 2 ^ 13 * 2 ^ 24 + b.toNat % 2 ^ 24) →
      v.toNat / 2 ^ 37 % 2 ^ 26 = 0 ∧
      (∀ u, writeReg rd v s = .ok u → exec (.crdmk rd x y) s = .next (retire 4 (pushL v (popReg y (popReg x u))))) ∧
      (plainSrc x = true → plainSrc y = true → plainDst rd = true →
        ∃ t, exec (.crdmk rd x y) s = .next t ∧ Landed rd v 0 0 s t)

/-- The lowest bit and the width of each pointer field (R113). -/
def Sys2Proof.Stmt.fieldOf : CrdField → Nat × Nat
  | .die => (34, 3)
  | .y => (30, 4)
  | .x => (26, 4)
  | .rank => (24, 2)
  | .window => (20, 4)
  | .offset => (0, 20)

/-- CRDSET's value (R116): the field replaced, bit 63 set, bit 62 set when the new value does not fit. -/
def Sys2Proof.Stmt.crdsetVal (f : CrdField) (a v : W64) : W64 :=
  let lo := (fieldOf f).1
  let w := (fieldOf f).2
  let mask : W64 := w64 ((2 ^ w - 1) * 2 ^ lo)
  (a &&& ~~~mask) ||| ((v <<< lo) &&& mask) ||| (1 <<< 63) ||| (if v.toNat ≥ 2 ^ w then 1 <<< 62 else 0)

/-- CRDADD's value (R117): x, y and die moved by signed deltas, each modulo its field, bit 63 set, bit 62 set when one leaves its
range. -/
def Sys2Proof.Stmt.crdaddVal (p d : W64) : W64 :=
  let nx := (fld p.toNat 26 4 : Int) + signedLow 8 d.toNat
  let ny := (fld p.toNat 30 4 : Int) + signedLow 8 (d.toNat / 2 ^ 8)
  let nd := (fld p.toNat 34 3 : Int) + signedLow 8 (d.toNat / 2 ^ 16)
  let inRange := 0 ≤ nx ∧ nx ≤ 15 ∧ 0 ≤ ny ∧ ny ≤ 15 ∧ 0 ≤ nd ∧ nd ≤ 7
  let mask : W64 := w64 (2 ^ 37 - 2 ^ 26)
  (p &&& ~~~mask) ||| w64 ((nd % 8).toNat * 2 ^ 34 + (ny % 16).toNat * 2 ^ 30 + (nx % 16).toNat * 2 ^ 26) ||| (1 <<< 63) |||
    (if inRange then 0 else 1 <<< 62)

/-- R116, R117: CRDGET, CRDSET and CRDADD. -/
def Obligations.CoordinateFieldResults : Prop :=
  ∀ (rd x y : Reg) (f : CrdField) (s : State) (a b : W64), readReg x s = .ok a → readReg y s = .ok b →
    (∀ v : W64, v = (a >>> (fieldOf f).1) &&& w64 (2 ^ (fieldOf f).2 - 1) →
      (∀ u, writeReg rd v s = .ok u → exec (.crdget rd x f) s = .next (retire 4 (pushL v (popReg x u)))) ∧
      (plainSrc x = true → plainDst rd = true → ∃ t, exec (.crdget rd x f) s = .next t ∧ Landed rd v 0 0 s t)) ∧
    (∀ (i : Instr) (v : W64), (i = .crdset rd x y f ∧ v = crdsetVal f a b) ∨ (i = .crdadd rd x y ∧ v = crdaddVal a b) →
      (∀ u, writeReg rd v s = .ok u → exec i s = .next (retire 4 (pushL v (popReg y (popReg x u))))) ∧
      (plainSrc x = true → plainSrc y = true → plainDst rd = true → ∃ t, exec i s = .next t ∧ Landed rd v 0 0 s t))

/-- R78, R107, R122, R125: a scalar floating-point instruction reads bits 31:0 of its sources, writes its value, takes it into the
last-result file and ORs its flags into FSTAT. -/
def Obligations.ScalarFloatResults : Prop :=
  ∀ (rd x y w : Reg) (s : State) (a b c : W64), readReg x s = .ok a → readReg y s = .ok b → readReg w s = .ok c →
    (∀ p ∈ fpTwo, ∀ r, r = p.2 (a.setWidth 32) (b.setWidth 32) →
      (∀ u, writeReg rd r.1 s = .ok u →
        exec (p.1 rd x y) s = .next (retire 4 (orFstat r.2 (pushL r.1 (popReg y (popReg x u)))))) ∧
      (plainSrc x = true → plainSrc y = true → plainDst rd = true →
        ∃ t, exec (p.1 rd x y) s = .next t ∧ Landed rd r.1 r.2 0 s t)) ∧
    (∀ p ∈ fpOne, ∀ r, r = p.2 a →
      (∀ u, writeReg rd r.1 s = .ok u → exec (p.1 rd x) s = .next (retire 4 (orFstat r.2 (pushL r.1 (popReg x u))))) ∧
      (plainSrc x = true → plainDst rd = true → ∃ t, exec (p.1 rd x) s = .next t ∧ Landed rd r.1 r.2 0 s t)) ∧
    (∀ p ∈ fpThree, ∀ r, r = p.2 (a.setWidth 32) (b.setWidth 32) (c.setWidth 32) →
      (∀ u, writeReg rd (r.1.setWidth 64) s = .ok u → exec (p.1 rd x y w) s =
        .next (retire 4 (orFstat r.2 (pushL (r.1.setWidth 64) (popReg w (popReg y (popReg x u))))))) ∧
      (plainSrc x = true → plainSrc y = true → plainSrc w = true → plainDst rd = true →
        ∃ t, exec (p.1 rd x y w) s = .next t ∧ Landed rd (r.1.setWidth 64) r.2 0 s t))

/-- A NaN pattern of FP32. -/
def Sys2Proof.Stmt.nan (a : W32) : Prop := 0x7F800000 < a.toNat % 2 ^ 31

/-- R123: FMIN and FMAX with NaN operands and with zeros of opposite signs; FEQ, FLT and FLE with a NaN operand. -/
def Obligations.MinMaxAndCompareOfNaNs : Prop :=
  ∀ a b : W32,
    (nan a → ¬ nan b → (fmin32 a b).1 = b ∧ (fmax32 a b).1 = b) ∧
    (¬ nan a → nan b → (fmin32 a b).1 = a ∧ (fmax32 a b).1 = a) ∧
    (nan a → nan b → (fmin32 a b).1 = 0x7FC00000 ∧ (fmax32 a b).1 = 0x7FC00000) ∧
    (fmin32 0x80000000 0).1 = 0x80000000 ∧ (fmin32 0 0x80000000).1 = 0x80000000 ∧
    (fmax32 0x80000000 0).1 = 0 ∧ (fmax32 0 0x80000000).1 = 0 ∧
    (nan a ∨ nan b → (feq32 a b).1 = false ∧ (flt32 a b).1 = false ∧ (fle32 a b).1 = false) ∧
    ∀ (i j k : Fin 32) (s : State), s.ctx.la = [] → (s.ctx.g.m[i]).setWidth 32 = a → (s.ctx.g.m[j]).setWidth 32 = b →
      ∀ p ∈ [(Instr.fmin (.m k) (.m i) (.m j), (fmin32 a b).1.setWidth 64), (.fmax (.m k) (.m i) (.m j), (fmax32 a b).1.setWidth 64),
        (.feq (.m k) (.m i) (.m j), oneIf ((feq32 a b).1 = true)), (.flt (.m k) (.m i) (.m j), oneIf ((flt32 a b).1 = true)),
        (.fle (.m k) (.m i) (.m j), oneIf ((fle32 a b).1 = true))],
        ∃ t, exec p.1 s = .next t ∧ t.ctx.g.m[k] = p.2

/-- R124: FCLASS sets exactly the bit of its operand's class. -/
def Obligations.FclassSetsOneBit : Prop :=
  ∀ (rd x : Reg) (s : State) (a : W64), readReg x s = .ok a →
    ∀ (neg : Bool) (e f n : Nat), neg = a.getLsbD 31 → e = a.toNat / 2 ^ 23 % 2 ^ 8 → f = a.toNat % 2 ^ 23 →
      n = (if e = 255 ∧ 2 ^ 22 ≤ f then 9 else if e = 255 ∧ f ≠ 0 then 8
        else if e = 255 then (if neg then 0 else 7)
        else if e ≠ 0 then (if neg then 1 else 6)
        else if f ≠ 0 then (if neg then 2 else 5)
        else if neg then 3 else 4) →
      ∀ u, writeReg rd (w64 (2 ^ n)) s = .ok u →
        exec (.fclass rd x) s = .next (retire 4 (orFstat 0 (pushL (w64 (2 ^ n)) (popReg x u))))

/-- R81, R87, R126: the scalar LNS instructions, with their flags in LFLAGS. -/
def Obligations.ScalarLnsResults : Prop :=
  ∀ (rd x y : Reg) (s : State) (a b : W64), readReg x s = .ok a → readReg y s = .ok b →
    (∀ p ∈ lnsOne, ∀ r, r = p.2 a →
      (∀ u, writeReg rd r.1 s = .ok u → exec (p.1 rd x) s = .next (retire 4 (orLflags r.2 (pushL r.1 (popReg x u))))) ∧
      (plainSrc x = true → plainDst rd = true → ∃ t, exec (p.1 rd x) s = .next t ∧ Landed rd r.1 0 r.2 s t)) ∧
    (∀ p ∈ lnsTwo, ∀ r, r = p.2 a b →
      (∀ u, writeReg rd r.1 s = .ok u →
        exec (p.1 rd x y) s = .next (retire 4 (orLflags r.2 (pushL r.1 (popReg y (popReg x u)))))) ∧
      (plainSrc x = true → plainSrc y = true → plainDst rd = true →
        ∃ t, exec (p.1 rd x y) s = .next t ∧ Landed rd r.1 0 r.2 s t))

/-- The entry of a lookahead result. -/
def Sys2Proof.Stmt.laEntry (rd : Reg) (v : W64) (ff : FFlags) (lf : LFlags) (s : State) : LaEnt :=
  ⟨s.ctx.pc, [(rd, v)], none, ff, lf, 0, false, none⟩

/-- R118: the division instructions, whose corner values are b = 0 and the overflow of the most negative dividend. Signed values are
read as integers; quotients truncate toward zero. -/
def Sys2Proof.Stmt.divisions : List ((BitVec 4 → Reg → Reg → Reg → Instr) × (W64 → W64 → W64)) := [
  (.div, fun a b => if b = 0 then BitVec.allOnes 64 else BitVec.ofInt 64 (a.toInt.tdiv b.toInt)),
  (.divu, fun a b => if b = 0 then BitVec.allOnes 64 else w64 (a.toNat / b.toNat)),
  (.rem, fun a b => if b = 0 then a else BitVec.ofInt 64 (a.toInt.tmod b.toInt)),
  (.remu, fun a b => if b = 0 then a else w64 (a.toNat % b.toNat)),
  (.divw, fun a b => if signedLow 32 b.toNat = 0 then BitVec.allOnes 64
    else sxOf 32 ((signedLow 32 a.toNat).tdiv (signedLow 32 b.toNat))),
  (.remw, fun a b => if signedLow 32 b.toNat = 0 then sxOf 32 (signedLow 32 a.toNat)
    else sxOf 32 ((signedLow 32 a.toNat).tmod (signedLow 32 b.toNat)))]

/-- R33, R118, R119: a division, FDIV or FSQRT completes whatever its operands; with LA = 0 its result is in rd at once, with LA = k it
is outstanding for k instructions more. No result enters the last-result file. -/
def Sys2Proof.Stmt.DivisionResults : Prop :=
  ∀ (la : BitVec 4) (rd x y : Reg) (s : State) (a b : W64), readReg x s = .ok a → readReg y s = .ok b →
    ∀ (i : Instr) (v : W64) (ff : FFlags) (pops : State → State),
      ((∃ p ∈ divisions, i = p.1 la rd x y ∧ v = p.2 a b ∧ ff = 0 ∧ pops = fun u => popReg y (popReg x u)) ∨
        (i = .fdiv la rd x y ∧ v = (fdiv32 (a.setWidth 32) (b.setWidth 32)).1.setWidth 64 ∧
          ff = (fdiv32 (a.setWidth 32) (b.setWidth 32)).2 ∧ pops = fun u => popReg y (popReg x u)) ∨
        (i = .fsqrt la rd x ∧ v = (fsqrt32 (a.setWidth 32)).1.setWidth 64 ∧ ff = (fsqrt32 (a.setWidth 32)).2 ∧
          pops = fun u => popReg x u)) →
      (rd ≠ .qmi → rd ≠ .qsa → exec i s = .next (retire 4 (lookahead la.toNat (laEntry rd v ff 0 s) (pops s)))) ∧
      (∀ u, rd = .qmi ∨ rd = .qsa → writeReg rd v s = .ok u →
        exec i s = .next (retire 4 (lookahead la.toNat { laEntry rd v ff 0 s with done := true }
          (orFstat ff (orLflags 0 (pops u)))))) ∧
      (plainSrc x = true → plainSrc y = true → plainDst rd = true → ∃ t, exec i s = .next t ∧
        t.ctx.pc = pcAdd s.ctx.pc 4 ∧ t.ctx.g.cur.l = s.ctx.g.cur.l ∧ OnlyScalar s t ∧
        (la = 0 → rd ≠ .z → rd ∉ owedRegs s → held rd t = v) ∧
        (s.ctx.la = [] → RegsKept rd s t ∧ (la ≠ 0 → t.ctx.la = [{ laEntry rd v ff 0 s with left := la.toNat }] ∧
          held rd t = held rd s)))

/-- Together: AluTwoSourceResults, AluOneSourceAndImmediateResults, ResultsWithoutSources, DivisionResults. -/
def Obligations.ScalarArithmeticResults : Prop := Sys2Proof.Stmt.AluTwoSourceResults ∧ Sys2Proof.Stmt.AluOneSourceAndImmediateResults ∧ Sys2Proof.Stmt.ResultsWithoutSources ∧ Sys2Proof.Stmt.DivisionResults

/-- R33, R34: while a result is outstanding, a later instruction that retires counts its window down, and the retirement that ends the
window writes the result and its flags. -/
def Obligations.WindowEndWritesResult : Prop :=
  ∀ (i : Fin 32) (v : W64) (e : LaEnt) (s : State), s.ctx.la = [e] → e.dests = [(.m i, v)] → e.tag = none → e.done = false →
    (1 < e.left → (retire 4 s).ctx.la = [{ e with left := e.left - 1 }] ∧ (retire 4 s).ctx.g = s.ctx.g) ∧
    (e.left ≤ 1 → (retire 4 s).ctx.la = [] ∧ (retire 4 s).ctx.g.m[i] = v ∧
      (retire 4 s).ctx.sys.fstat = s.ctx.sys.fstat ||| e.fstat ∧ (retire 4 s).ctx.sys.lflags = s.ctx.sys.lflags ||| e.lflags)

/-- The compare-and-branch instructions with their conditions (R120). -/
def Sys2Proof.Stmt.branchTwo : List ((Reg → Reg → BitVec 10 → Instr) × (W64 → W64 → Bool)) := [
  (.beq, fun a b => decide (a = b)),
  (.bne, fun a b => decide (a ≠ b)),
  (.blt, fun a b => decide (a.toInt < b.toInt)),
  (.bge, fun a b => decide (b.toInt ≤ a.toInt)),
  (.bltu, fun a b => decide (a.toNat < b.toNat)),
  (.bgeu, fun a b => decide (b.toNat ≤ a.toNat))]

def Sys2Proof.Stmt.branchOne : List ((Reg → BitVec 16 → Instr) × (W64 → Bool)) := [
  (.beqz, fun a => decide (a = 0)),
  (.bnez, fun a => decide (a ≠ 0)),
  (.bltz, fun a => decide (a.toInt < 0)),
  (.bgez, fun a => decide (0 ≤ a.toInt)),
  (.bgtz, fun a => decide (0 < a.toInt)),
  (.blez, fun a => decide (a.toInt ≤ 0))]

/-- A branch or jump of offset `d` bytes has been taken: the pc's low 63 bits move, its high bits stay, every window has ended with its
result written, and no register is written by it. -/
def Sys2Proof.Stmt.Jumped (d : Int) (s t : State) : Prop :=
  t.ctx.pc.toNat / 2 ^ 63 = s.ctx.pc.toNat / 2 ^ 63 ∧
  ((t.ctx.pc.toNat % 2 ^ 63 : Nat) : Int) = ((s.ctx.pc.toNat : Int) + d) % 2 ^ 63 ∧
  t.ctx.la = [] ∧ (s.ctx.la = [] → t.ctx.g = s.ctx.g) ∧ OnlyScalar s t

/-- R120, R401: a branch is taken to its own address plus twice its offset when its condition holds, and else goes on with no effect
but its pops. -/
def Obligations.BranchesGoWhereConditionsSay : Prop :=
  ∀ (x y : Reg) (s : State) (a b : W64), readReg x s = .ok a → readReg y s = .ok b →
    (∀ p ∈ branchTwo, ∀ off : BitVec 10,
      (p.2 a b = true → exec (p.1 x y off) s = .next (branchTo (off.toInt * 2) (popReg y (popReg x s)))) ∧
      (p.2 a b = false → exec (p.1 x y off) s = .next (retire 4 (popReg y (popReg x s)))) ∧
      (plainSrc x = true → plainSrc y = true → ∃ t, exec (p.1 x y off) s = .next t ∧
        (p.2 a b = true → Jumped (off.toInt * 2) s t) ∧
        (p.2 a b = false → t.ctx.pc = pcAdd s.ctx.pc 4 ∧ RegsKept .z s t ∧ OnlyScalar s t))) ∧
    (∀ p ∈ branchOne, ∀ off : BitVec 16,
      (p.2 a = true → exec (p.1 x off) s = .next (branchTo (off.toInt * 2) (popReg x s))) ∧
      (p.2 a = false → exec (p.1 x off) s = .next (retire 4 (popReg x s))) ∧
      (plainSrc x = true → ∃ t, exec (p.1 x off) s = .next t ∧
        (p.2 a = true → Jumped (off.toInt * 2) s t) ∧
        (p.2 a = false → t.ctx.pc = pcAdd s.ctx.pc 4 ∧ RegsKept .z s t ∧ OnlyScalar s t)))

/-- The address of the instruction after this one, as a link register takes it: bits 62:0 (R121, R401). -/
def Sys2Proof.Stmt.link (s : State) : W64 := w64 ((s.ctx.pc.toNat + 4) % 2 ^ 63)

/-- R121, R401: JAL and JALR write pc + 4 to rd and go to their target; JALR reads its source before rd is written and lands under the
current AX. -/
def Sys2Proof.Stmt.JumpsLinkAndLand : Prop :=
  ∀ (rd x : Reg) (s : State) (a : W64), readReg x s = .ok a → plainSrc x = true → plainDst rd = true →
    (∀ off : BitVec 19, ∃ t, exec (.jal rd off) s = .next t ∧
      t.ctx.pc.toNat / 2 ^ 63 = s.ctx.pc.toNat / 2 ^ 63 ∧
      ((t.ctx.pc.toNat % 2 ^ 63 : Nat) : Int) = ((s.ctx.pc.toNat : Int) + off.toInt * 2) % 2 ^ 63 ∧
      (rd ≠ .z → s.ctx.la = [] → held rd t = link s) ∧ t.ctx.g.cur.l = s.ctx.g.cur.l ∧ t.ctx.la = [] ∧
      RegsKept rd s t ∧ OnlyScalar s t) ∧
    (∀ imm : BitVec 13, ∀ g : W64, g = (a + imm.signExtend 64) &&& ~~~1 → ∃ t, exec (.jalr rd x imm) s = .next t ∧
      t.ctx.pc.toNat / 2 ^ 63 = s.ctx.sys.ax.toNat ∧ t.ctx.pc.toNat % 2 ^ 63 = g.toNat % 2 ^ 63 ∧
      t.ctx.pcBad = g.getLsbD 63 ∧
      (rd ≠ .z → s.ctx.la = [] → held rd t = link s) ∧ t.ctx.g.cur.l = s.ctx.g.cur.l ∧ t.ctx.la = [] ∧
      RegsKept rd s t ∧ OnlyScalar s t)

/-- R107: the jumps with a push queue as destination: the link value is pushed, and they go on as otherwise. -/
def Sys2Proof.Stmt.JumpsPushTheirLink : Prop :=
  ∀ (rd x : Reg) (s u : State) (a : W64), readReg x s = .ok a → writeReg rd (link s) s = .ok u →
    (∀ off : BitVec 19, exec (.jal rd off) s = .next (branchTo (off.toInt * 2) u)) ∧
    (∀ imm : BitVec 13, exec (.jalr rd x imm) s =
      .next (retireJump (xferPc ((a + imm.signExtend 64) &&& ~~~1) (flushLa (popReg x u)))))

/-- Together: JumpsLinkAndLand, JumpsPushTheirLink. -/
def Obligations.JumpsLinkLandAndPush : Prop := Sys2Proof.Stmt.JumpsLinkAndLand ∧ Sys2Proof.Stmt.JumpsPushTheirLink

/-! ### Memory instructions -/

/-- LD with the size in bytes and whether it sign-extends (R201). -/
def Sys2Proof.Stmt.ldForms : List ((BitVec 4 → Reg → Reg → BitVec 6 → Instr) × Nat × Bool) := [
  (.ldB, 1, true), (.ldBu, 1, false), (.ldH, 2, true), (.ldHu, 2, false), (.ldW, 4, true), (.ldWu, 4, false), (.ldD, 8, true)]

def Sys2Proof.Stmt.ldxForms : List ((BitVec 4 → Reg → Reg → Reg → Instr) × Nat × Bool) := [
  (.ldxB, 1, true), (.ldxBu, 1, false), (.ldxH, 2, true), (.ldxHu, 2, false), (.ldxW, 4, true), (.ldxWu, 4, false),
  (.ldxD, 8, true)]

def Sys2Proof.Stmt.ldaqForms : List ((BitVec 4 → Scope → Reg → Reg → Instr) × Nat × Bool) := [
  (.ldaqB, 1, true), (.ldaqBu, 1, false), (.ldaqH, 2, true), (.ldaqHu, 2, false), (.ldaqW, 4, true), (.ldaqWu, 4, false),
  (.ldaqD, 8, true)]

/-- The register value of `n` loaded bytes. -/
def Sys2Proof.Stmt.extended (signed : Bool) (n v : Nat) : W64 :=
  if signed then sxOf (8 * n) v else w64 (v % 2 ^ (8 * n))

/-- Where a load's result goes: a push queue takes it at once, any other register when its window of `la` instructions says. -/
def Sys2Proof.Stmt.Lands (la : BitVec 4) (rd : Reg) (v : W64) (lf : LFlags) (u t : State) : Prop :=
  (rd ≠ .qmi ∧ rd ≠ .qsa ∧ t = lookahead la.toNat (laEntry rd v 0 lf u) u) ∨
  ((rd = .qmi ∨ rd = .qsa) ∧ ∃ w, writeReg rd v u = .ok w ∧
    t = lookahead la.toNat { laEntry rd v 0 lf u with done := true } (orFstat 0 (orLflags lf w)))

/-- R198, R201, R202, R212: a load that no fence holds and whose address can be formed and read completes; its value is extended to
64 bits as its mnemonic says, and LDAQ acquires at its scope, demoted where R215 demotes it. The address of LD is base + off6 units of
its size, of LDX base + index units, of LDAQ the base alone. While its window is open the value of LD and LDX may still be fixed
later than those of the window's loads (R226, log 5); loads of the window that read the same bytes fix it. -/
def Obligations.LoadsDeliverWhatTheyRead : Prop :=
  ∀ (la : BitVec 4) (rd base : Reg) (g s u t : State) (p ea : W64) (v : Nat) (lf : LFlags) (pl : Place),
    fenceGate true false g = .ok s → readReg base s = .ok p →
    (∀ f ∈ ldForms, ∀ off : BitVec 6, formEa p (off.toNat * f.2.1 : Nat) = .ok ea → readScalar ea f.2.1 s = .ok (v, lf, pl, u) →
      Lands la rd (extended f.2.2 f.2.1 v) lf (fixMeeting (pl.span f.2.1) u) t →
      exec (f.1 la rd base off) g = .next (retire 4 (offerRead la.toNat ⟨pl, f.2.1, f.2.2, false, s.mem.nextMsg⟩ t))) ∧
    (∀ f ∈ ldxForms, ∀ (index : Reg) (x : W64), readReg index g = .ok x →
      formEa p (signedLow 64 (x.toNat * f.2.1)) = .ok ea → readScalar ea f.2.1 s = .ok (v, lf, pl, u) →
      Lands la rd (extended f.2.2 f.2.1 v) lf (fixMeeting (pl.span f.2.1) u) t →
      exec (f.1 la rd base index) g = .next (retire 4 (offerRead la.toNat ⟨pl, f.2.1, f.2.2, false, s.mem.nextMsg⟩ t))) ∧
    (∀ f ∈ ldaqForms, ∀ scope : Scope, formEa p 0 = .ok ea → readScalar ea f.2.1 s = .ok (v, lf, pl, u) →
      Lands la rd (extended f.2.2 f.2.1 v) lf (fixMeeting (pl.span f.2.1) u) t →
      exec (f.1 la scope rd base) g = .next (retire 4 (acquire (demote scope t).1 (demote scope t).2)))

/-- Nothing of the acting thread or of the fabric stands between a scalar access and the bytes of memory: no queued store, vector
instruction, AMO or pending fence, no moved or lost page, no lost die, no poison. -/
def Sys2Proof.Stmt.CalmMemory (s : State) : Prop :=
  s.mem.stores = [] ∧ s.ctx.vec.q = [] ∧ s.ctx.amo = none ∧ s.ctx.fences = [] ∧ s.mem.poison = [] ∧ s.mem.checks = [] ∧ s.mem.msgs = [] ∧
  s.fab.tombs = [] ∧ s.fab.lostPages = [] ∧ s.fab.lost = 0

/-- A coordinate pointer through window 0 to storage byte `b` of a core, usable by the acting VF: inside its frame, on a page it
owns. -/
def Sys2Proof.Stmt.RawPointer (ea : W64) (core b : Nat) (s : State) : Prop :=
  ea.getLsbD 63 = true ∧ ea.toNat / 2 ^ 37 % 2 ^ 26 = 0 ∧ ptrWin ea = 0 ∧ ptrOff ea = b ∧ b < 0x30000 ∧
  (vfFrame s s.vfid).holds (ptrDie ea) (ptrY ea) (ptrX ea) = true ∧ ptrCore ea s = core ∧
  ownsPage s s.vfid core (b / 4096) = true

/-- R2, R163, R198, R201: a load of 1, 2, 4 or 8 bytes at an aligned storage byte of a scratchpad gives the little-endian value of the
bytes stored there, leaves every byte of memory as it was, and touches the die of that core (R199). -/
def Sys2Proof.Stmt.LoadReturnsScratchpadBytes : Prop :=
  ∀ (i : Fin 32) (base : Reg) (off : BitVec 6) (s : State) (p ea : W64) (core b : Nat), CalmMemory s → s.ctx.la = [] →
    s.ctx.sys.mlimit = BitVec.allOnes 64 → readReg base s = .ok p →
    ∀ f ∈ ldForms, formEa p (off.toNat * f.2.1 : Nat) = .ok ea → RawPointer ea core b s → b % f.2.1 = 0 →
      ∃ t, exec (f.1 0 (.m i) base off) s = .next t ∧
        t.ctx.g.m[i] = extended f.2.2 f.2.1 (((List.range f.2.1).map fun k =>
          (s.mem.byte (scratchAddr core b + k)).toNat * 256 ^ k).sum) ∧
        (∀ j : Fin 32, j ≠ i → t.ctx.g.m[j] = s.ctx.g.m[j]) ∧
        t.mem = s.mem ∧ t.ctx.pc = pcAdd s.ctx.pc 4 ∧
        t.ctx.sys.meter.toNat = min (s.ctx.sys.meter.toNat + accessCharge s (.core core) f.2.1) (2 ^ 64 - 1) ∧
        t.ctx.sys.tdmask = s.ctx.sys.tdmask ||| diesOf (dieOf s.cur) (.core core)

/-- No saved context and no exited continuation has counters that the events of a line's fill could be credited to (R241, log 55). -/
def Sys2Proof.Stmt.NoCountersAway (s : State) : Prop := s.sch.images = [] ∧ ∀ m ∈ s.trans.misses, ∀ w ∈ m.waits, w.area = none

/-- Stores and LOGST with their size, and what they make of the register: the value stored and its LFLAGS (R204, R206). -/
def Sys2Proof.Stmt.stForms : List ((Reg → Reg → BitVec 6 → Bool → Option Scope → Instr) × Nat × (W64 → W64 × LFlags)) := [
  (.stB, 1, fun v => (v, 0)), (.stH, 2, fun v => (v, 0)), (.stW, 4, fun v => (v, 0)), (.stD, 8, fun v => (v, 0)),
  (.logstB, 1, fun v => (w64 (log8 false (v.setWidth 32)).1, (log8 false (v.setWidth 32)).2)),
  (.logstH, 2, fun v => (w64 (log16 false (v.setWidth 32)).1, (log16 false (v.setWidth 32)).2))]

/-- R200, R204, R205, R206, R212: a store that no fence holds and whose checks pass enters the store queue with the place its own
address resolution gives, and the store itself writes no byte; G asks for an acknowledgement, REL first waits as a release. Without
a saved context or an exited continuation whose counters a line's fill could credit (R241, log 55), every byte of memory still
reads as before. -/
def Obligations.StoresEnterTheQueue : Prop :=
  ∀ f ∈ stForms, ∀ (rs base : Reg) (off : BitVec 6) (g : Bool) (rel rel' : Option Scope) (r s s0 s1 : State) (x p ea : W64)
    (t : Target) (bs : List Byte) (kind : StKind) (lf : LFlags) (ff : FFlags),
    fenceGate false true (fixReads r) = .ok s → readReg rs r = .ok x → readReg base s = .ok p → formEa p (off.toNat * f.2.1 : Nat) = .ok ea →
    releaseAt rel s = .ok (rel', s0) →
    issueAccess ea f.2.1 .write .scalar true (fun _ => .ok ()) s0 = .ok (t, s1) →
    accessWaits (t.place.span f.2.1) s = .ok () → storeData t.place f.2.1 (f.2.2 x).1 (f.2.2 x).2 s = .ok (bs, kind, lf, ff) →
    (ownStores s1).length < 16 → t.lost = false →
    let e : StoreEnt := ⟨s.cur, t.place.addr, bs, kind, g, rel', ea, s.now, s1.mem.nextMsg, none, [s.ctx.ownerKey], none, s.ctx.ownerKey⟩
    let wide := rel'.any fun y => decide (3 ≤ y.code)
    let flagged := orFstat ff (orLflags lf s1)
    let owed := if g then oweAck ea t.place.addr wide wide flagged else flagged
    let q := setMem (fun m => { m with stores := m.stores ++ [e], nextMsg := m.nextMsg + 1 }) owed
    exec (f.1 rs base off g rel) r = .next (retire 4 (popReg rs q)) ∧ (∀ a, q.mem.byte a = s1.mem.byte a) ∧
    (NoCountersAway r → ∀ a, q.mem.byte a = r.mem.byte a)

/-- R2, R163, R204: a store of 1, 2, 4 or 8 bytes at an aligned storage byte of a scratchpad puts the low bytes of its register, in
little-endian order, into the store queue, and no byte of memory changes yet. -/
def Sys2Proof.Stmt.StoreQueuesScratchpadBytes : Prop :=
  ∀ (i : Fin 32) (base : Reg) (off : BitVec 6) (s : State) (p ea : W64) (core b : Nat), CalmMemory s → s.ctx.la = [] →
    s.ctx.sys.mlimit = BitVec.allOnes 64 → readReg base s = .ok p → plainSrc base = true →
    ∀ f ∈ [(Instr.stB, 1), (.stH, 2), (.stW, 4), (.stD, 8)], formEa p (off.toNat * f.2 : Nat) = .ok ea →
      RawPointer ea core b s → b % f.2 = 0 →
      ∃ t, exec (f.1 (.m i) base off false none) s = .next t ∧
        t.mem = { s.mem with
          stores := [⟨s.cur, scratchAddr core b,
            (List.range f.2).map fun k => BitVec.ofNat 8 ((s.ctx.g.m[i]).toNat / 256 ^ k), .plain, false, none, ea, s.now,
            s.mem.nextMsg, none, [s.ctx.ownerKey], none, s.ctx.ownerKey⟩]
          nextMsg := s.mem.nextMsg + 1 } ∧
        t.ctx.g = s.ctx.g ∧ t.ctx.st = s.ctx.st ∧ t.ctx.tr = s.ctx.tr ∧ t.ctx.pc = pcAdd s.ctx.pc 4 ∧
        t.ctx.sys.tdmask = s.ctx.sys.tdmask ||| diesOf (dieOf s.cur) (.core core)

/-- Together: LoadReturnsScratchpadBytes, StoreQueuesScratchpadBytes. -/
def Obligations.ScratchpadLoadsAndStores : Prop := Sys2Proof.Stmt.LoadReturnsScratchpadBytes ∧ Sys2Proof.Stmt.StoreQueuesScratchpadBytes

/-- R200, R223, R226: when a plain store of the acting core takes its place in coherence order, after its earlier stores that overlap
it and the stores of its die to its bytes that the die's agents see already, the bytes it stores to are those of its entry, from the
address that forwarding gives its place on, and every other byte of memory reads as before. -/
def Obligations.StoreOrderedWritesItsBytes : Prop :=
  ∀ (n : Nat) (e : StoreEnt) (s : State), s.mem.wf = true → (ownStores s)[n]? = some e → e.kind = .plain →
    ((ownStores s).take n).any (fun d => (d.span s).meets (e.span s)) = false → shownFirst e s = false →
    addrLost (forward s e.addr) s = false → dieLost s (homeOf (forward s e.addr)).die = false →
    ∃ t, exec (.storeOrdered n) s = .next t ∧
      (∀ k, k < e.bytes.length → t.mem.byte (forward s e.addr + k) = e.bytes.getD k 0) ∧
      (∀ a, a < forward s e.addr ∨ forward s e.addr + e.bytes.length ≤ a → t.mem.byte a = s.mem.byte a) ∧
      t.mem.stores = s.mem.stores.filter (fun x => x.id != e.id) ∧ t.ctx = s.ctx ∧ t.mem.wf = true

/-- The ten AMOs. -/
def Sys2Proof.Stmt.amoForms : List ((Bool → Scope → Reg → Reg → Reg → Instr) × AmoOp) := [
  (.amoadd, .add), (.amoand, .and), (.amoor, .or), (.amoxor, .xor), (.amomin, .min), (.amomax, .max), (.amominu, .minu),
  (.amomaxu, .maxu), (.amoswap, .swap), (.amocas, .cas)]

/-- R207, R208, R209, R212, R215: an AMO that no fence holds, whose release is done and whose access passes its checks completes:
with rd = z it is pending, with any other rd it is performed and its old value written there. AMOCAS compares with rd's value. -/
def Sys2Proof.Stmt.AmosComplete : Prop :=
  ∀ f ∈ amoForms, ∀ (dword : Bool) (scope : Scope) (rd base rs2 : Reg) (r s s0 s1 : State) (p b x ea : W64) (t : Target),
    let n := if dword then 8 else 4
    let sc := (demote scope s0).1
    fenceGate true true (fixReads r) = .ok s → readReg base s = .ok p → readReg rs2 s = .ok b → (f.2 = .cas → readReg rd s = .ok x) → (f.2 ≠ .cas → x = 0) →
    formEa p 0 = .ok ea → releaseReady (demote scope s).1 s = .ok s0 →
    issueAccess ea n .amo .scalar (decide (sc.code ≤ 2))
      (fun t => must (decide (t.place.win = 0 ∨ t.place.win = 15)) cCOORD ea) (demote scope s0).2 = .ok (t, s1) →
    accessWaits (t.place.span n) s = .ok () → s.mem.anyPoison t.place.addr n = false →
    let m : AmoPend := ⟨s.mem.nextMsg, f.2, dword, sc, t.place, b, x, s.ctx.sys.evsel⟩
    let s2 := setMem (fun m => { m with nextMsg := m.nextMsg + 1 })
      (if 3 ≤ sc.code then oweAck ea t.place.addr (rd != .z) true s1 else s1)
    (rd = .z → exec (f.1 dword scope rd base rs2) r =
      .next (retire 4 (popReg rs2 { s2 with ctx := { s2.ctx with amo := some m } }))) ∧
    (∀ u, rd ≠ .z → writeReg rd (amoPerform m s2).1 (amoPerform m s2).2 = .ok u →
      exec (f.1 dword scope rd base rs2) r = .next (retire 4 (popReg rs2 u)))

/-- R198, R234, R235: an access whose address resolves and whose own checks pass adds its charge to METER and its dies to TDMASK; where
the charge would take METER above MLIMIT, and MLIMIT is not all ones, it raises MTRAP with the charge as TVAL and has no effect: only
what the misses on its way have left in the translation services and slices stays, state `u` (R190, R191, log 8: the model's choice).
A page that has moved is charged before its STALE is raised. -/
def Sys2Proof.Stmt.AccessesAreCharged : Prop :=
  ∀ (ea : W64) (size : Nat) (k : AKind) (sh : Shape) (fill : Bool) (own : Target → Res Unit) (s u : State) (t v : Target),
    resolve ea size k sh fill s = .ok (t, u) → own t = .ok () → withDesc t ea s = .ok v →
    let c := accessCharge s t.home size
    let past := u.ctx.sys.mlimit ≠ BitVec.allOnes 64 ∧ u.ctx.sys.mlimit.toNat < u.ctx.sys.meter.toNat + c
    (past → issueAccess ea size k sh fill own s = .error (.missed cMTRAP 0 (w64 c) u)) ∧
    (¬ past → t.stale = none → ∃ s1, issueAccess ea size k sh fill own s = .ok (v, s1) ∧
      s1.ctx.sys.meter = w64 (min (u.ctx.sys.meter.toNat + c) (2 ^ 64 - 1)) ∧
      s1.ctx.sys.tdmask = u.ctx.sys.tdmask ||| diesOf (dieOf u.cur) t.home ∧ s1.mem = u.mem) ∧
    (∀ np, ¬ past → t.stale = some np → ∃ s1, issueAccess ea size k sh fill own s = .error (.trap cSTALE 0 np (some s1)) ∧
      s1.ctx.sys.meter = w64 (min (u.ctx.sys.meter.toNat + c) (2 ^ 64 - 1)) ∧
      s1.ctx.sys.tdmask = u.ctx.sys.tdmask ||| diesOf (dieOf u.cur) t.home ∧ s1.mem = u.mem)

/-- R198: a load, store, LOGST, AMO, LCAP or SCAP that no fence holds and whose access is refused ends in that trap, MTRAP for its
charge among them (R235), and has no other effect. An AMO's own check refuses a 4-byte AMO through windows 1 to 8 with COORD, an 8-byte
one fails R166's size test first with MISALIGN: the model's choice where the spec leaves the order open (log 33). -/
def Sys2Proof.Stmt.RefusedAccessesTrap : Prop :=
  ∀ (la : BitVec 4) (rd rs base : Reg) (off : BitVec 6) (g s s0 : State) (p ea : W64) (e : Stop), readReg base s = .ok p →
    (fenceGate true false g = .ok s →
      (∀ f ∈ ldForms, formEa p (off.toNat * f.2.1 : Nat) = .ok ea →
        issueAccess ea f.2.1 .read .scalar true (fun _ => .ok ()) s = .error e → exec (f.1 la rd base off) g = finish g (.error e)) ∧
      (∀ f ∈ ldxForms, ∀ (index : Reg) (x : W64), readReg index g = .ok x → formEa p (signedLow 64 (x.toNat * f.2.1)) = .ok ea →
        issueAccess ea f.2.1 .read .scalar true (fun _ => .ok ()) s = .error e → exec (f.1 la rd base index) g = finish g (.error e)) ∧
      (∀ f ∈ ldaqForms, ∀ scope : Scope, formEa p 0 = .ok ea →
        issueAccess ea f.2.1 .read .scalar true (fun _ => .ok ()) s = .error e → exec (f.1 la scope rd base) g = finish g (.error e)) ∧
      (∀ k : Cap, formEa p (off.toNat * 16 : Nat) = .ok ea →
        issueAccess ea 16 .read (.big true) true (fun _ => .ok ()) s = .error e → exec (.lcap la k base off) g = finish g (.error e))) ∧
    (fenceGate false true (fixReads g) = .ok s →
      (∀ f ∈ stForms, ∀ (x : W64) (gl : Bool) (rel rel' : Option Scope), readReg rs g = .ok x →
        formEa p (off.toNat * f.2.1 : Nat) = .ok ea → releaseAt rel s = .ok (rel', s0) →
        issueAccess ea f.2.1 .write .scalar true (fun _ => .ok ()) s0 = .error e →
        exec (f.1 rs base off gl rel) g = finish g (.error e)) ∧
      (∀ k : Cap, formEa p (off.toNat * 16 : Nat) = .ok ea →
        issueAccess ea 16 .write (.big true) true (fun _ => .ok ()) s = .error e → exec (.scap k base off) g = finish g (.error e))) ∧
    (fenceGate true true (fixReads g) = .ok s → ∀ f ∈ amoForms, ∀ (dword : Bool) (scope : Scope) (b x : W64),
      readReg rs s = .ok b → (f.2 = .cas → readReg rd s = .ok x) → formEa p 0 = .ok ea →
      releaseReady (demote scope s).1 s = .ok s0 →
      issueAccess ea (if dword then 8 else 4) .amo .scalar (decide ((demote scope s0).1.code ≤ 2))
        (fun t => must (decide (t.place.win = 0 ∨ t.place.win = 15)) cCOORD ea) (demote scope s0).2 = .error e →
      exec (f.1 dword scope rd base rs) g = finish g (.error e))

/-- ECC, CHECK, of `n` bytes at `a` of a place: the checked read notes the poison, and the charge and dies of `s` stay (R181, R198). -/
def Sys2Proof.Stmt.checkTrap (p : Place) (a n : Nat) (s : State) : Stop :=
  .trap cECC 1 p.ptr (some (setMem (·.noted a n) s))

/-- R180, R181, R198: a scalar read of poisoned bytes, in memory or in a unit that the thread's own queued store does not write whole,
raises ECC with detail CHECK and the address that names them; so do an AMO and an LCAP of poisoned bytes. That bytes forwarded from an
own queued store trap so (queuedPoison) is the model's choice (log 27), and so is the AMO's own check, COORD through windows 1 to 8
(log 33). -/
def Sys2Proof.Stmt.PoisonedReadsTrap : Prop :=
  ∀ (la : BitVec 4) (rd base : Reg) (off : BitVec 6) (g s s1 : State) (p ea : W64) (t : Target), readReg base s = .ok p →
    (∀ n : Nat, fenceGate true false g = .ok s → issueAccess ea n .read .scalar true (fun _ => .ok ()) s = .ok (t, s1) →
      accessWaits (t.place.span n) s = .ok () → t.place.win ≠ 14 →
      (winRaw t.place.win = true ∨ (∃ d, readDesc t.place s1 = .ok d) ∧ descPoisoned t.place s1 = false) →
      let x := t.place.span n
      (ownForward x s1 = .none ∧ s1.mem.anyPoison x.a x.n = true ∨
        (∃ bs, ownForward x s1 = .bytes bs) ∧ queuedPoison x.a x.n s1 = true) →
      let e := checkTrap t.place x.a x.n s1
      (∀ f ∈ ldForms, f.2.1 = n → formEa p (off.toNat * n : Nat) = .ok ea → exec (f.1 la rd base off) g = finish g (.error e)) ∧
      (∀ f ∈ ldxForms, ∀ (index : Reg) (y : W64), f.2.1 = n → readReg index g = .ok y →
        formEa p (signedLow 64 (y.toNat * n)) = .ok ea → exec (f.1 la rd base index) g = finish g (.error e)) ∧
      (∀ f ∈ ldaqForms, ∀ scope : Scope, f.2.1 = n → formEa p 0 = .ok ea → exec (f.1 la scope rd base) g = finish g (.error e))) ∧
    (∀ k : Cap, fenceGate true false g = .ok s → formEa p (off.toNat * 16 : Nat) = .ok ea →
      issueAccess ea 16 .read (.big true) true (fun _ => .ok ()) s = .ok (t, s1) →
      accessWaits ⟨t.place.addr, 16, true, true⟩ s = .ok () →
      (ownStores s).any (fun d => (Span.mk t.place.addr 16 true true).meets (d.span s)) = false →
      s.mem.anyPoison t.place.addr 16 = true →
      exec (.lcap la k base off) g = finish g (.error (checkTrap t.place t.place.addr 16 s1))) ∧
    (∀ f ∈ amoForms, ∀ (dword : Bool) (scope : Scope) (rs2 : Reg) (b x : W64) (s0 : State),
      let n := if dword then 8 else 4
      fenceGate true true (fixReads g) = .ok s → readReg rs2 s = .ok b → (f.2 = .cas → readReg rd s = .ok x) → formEa p 0 = .ok ea →
      releaseReady (demote scope s).1 s = .ok s0 →
      issueAccess ea n .amo .scalar (decide ((demote scope s0).1.code ≤ 2))
        (fun t => must (decide (t.place.win = 0 ∨ t.place.win = 15)) cCOORD ea) (demote scope s0).2 = .ok (t, s1) →
      accessWaits (t.place.span n) s = .ok () → s.mem.anyPoison t.place.addr n = true →
      exec (f.1 dword scope rd base rs2) g = finish g (.error (checkTrap t.place t.place.addr n s1)))

/-- The value an AMO leaves in memory (R207): `a` is the old value, `b` the operand, `c` the expected value of AMOCAS, on `n` bits. -/
def Sys2Proof.Stmt.amoLeaves (op : AmoOp) (n a b c : Nat) : Nat :=
  match op with
  | .add => (a + b) % 2 ^ n
  | .and => a &&& b
  | .or => a ||| b
  | .xor => a ^^^ b
  | .min => if signedLow n a ≤ signedLow n b then a else b
  | .max => if signedLow n a ≤ signedLow n b then b else a
  | .minu => min a b
  | .maxu => max a b
  | .swap => b
  | .cas => if a = c then b else a

/-- R207, R209, R223: AMO_RESULT performs the pending AMO. The stores of the AMO's die to its bytes that the die's agents see already
take their places first; then an AMO that is performed reads the old value of its 4 or 8 bytes, sign-extends a word, leaves the new
value there little-endian, and leaves every other byte as it was. It is performed whatever poison its line has taken since its issue:
the model's choice (log 102). -/
def Sys2Proof.Stmt.AmoPerformedReadsAndWrites : Prop :=
  ∀ (m : AmoPend) (s : State), s.mem.wf = true →
    let n := if m.dword then 8 else 4
    let a := forward s m.place.addr
    let q := settleShown (dieOf s.cur) a n s
    let old := ofBytes (q.mem.bytes a n)
    let new := amoLeaves m.op (8 * n) old (m.b.toNat % 2 ^ (8 * n)) (m.expect.toNat % 2 ^ (8 * n))
    (amoPerform m s).1 = (if m.dword then w64 old else sxOf 32 old) ∧
    (amoPerform m s).2.mem.bytes a n = bytesOf n new ∧
    (∀ x, x < a ∨ a + n ≤ x → (amoPerform m s).2.mem.byte x = q.mem.byte x) ∧
    (s.mem.stores = [] → q = s) ∧
    (∀ s0, s = { s0 with ctx := { s0.ctx with amo := none } } → s0.ctx.amo = some m → addrLost a s0 = false →
      dieLost s0 (homeOf a).die = false → exec .amoResult s0 = .next (amoPerform m s).2)

/-- Together: AmosComplete, AmoPerformedReadsAndWrites, AccessesAreCharged, RefusedAccessesTrap, PoisonedReadsTrap. -/
def Obligations.AmosCompleteAndPerform : Prop :=
  Sys2Proof.Stmt.AmosComplete ∧ Sys2Proof.Stmt.AmoPerformedReadsAndWrites ∧ Sys2Proof.Stmt.AccessesAreCharged ∧
    Sys2Proof.Stmt.RefusedAccessesTrap ∧ Sys2Proof.Stmt.PoisonedReadsTrap

/-- R210: LCAP delivers 16 bytes and the tag of their granule, read together, to a register pair; R211: SCAP queues both words and the
tag. -/
def Sys2Proof.Stmt.CapabilityLoadsAndStores : Prop :=
  ∀ (la : BitVec 4) (k : Cap) (base : Reg) (off : BitVec 6) (g s s1 : State) (p ea : W64) (t : Target), readReg base s = .ok p →
    formEa p (off.toNat * 16 : Nat) = .ok ea → accessWaits ⟨t.place.addr, 16, true, true⟩ s = .ok () →
    (fenceGate true false g = .ok s → issueAccess ea 16 .read (.big true) true (fun _ => .ok ()) s = .ok (t, s1) →
      (ownStores s).any (fun e => (Span.mk t.place.addr 16 true true).meets (e.span s)) = false →
      s.mem.anyPoison t.place.addr 16 = false →
      let r := readCap t.place.addr s1
      let e : LaEnt := ⟨s.ctx.pc,
        [(capReg k false, w64 (ofBytes (r.1.take 8))), (capReg k true, w64 (ofBytes (r.1.drop 8)))], some r.2.1, 0, 0, 0, false, none⟩
      (exec (.lcap la k base off) g = .next (retire 4 (offerRead la.toNat ⟨t.place, 16, false, true, s.mem.nextMsg⟩
        (lookahead la.toNat e (fixMeeting ⟨t.place.addr, 16, true, true⟩ r.2.2))))) ∧
      (s1.mem.msgs = [] → s1.mem.stores = [] → r.1 = s1.mem.bytes t.place.addr 16 ∧ r.2.1 = s1.mem.tag t.place.addr)) ∧
    (fenceGate false true (fixReads g) = .ok s → issueAccess ea 16 .write (.big true) true (fun _ => .ok ()) s = .ok (t, s1) →
      t.lost = false → (ownStores s1).length < 16 →
      exec (.scap k base off) g = .next (retire 4 (setMem (fun m => { m with
        stores := m.stores ++ [⟨s.cur, t.place.addr,
          bytesOf 8 (s.ctx.g.m[2 * k.val]).toNat ++ bytesOf 8 (s.ctx.g.m[2 * k.val + 1]).toNat, .cap s.ctx.g.tags[k], false, none,
          ea, s.now, s1.mem.nextMsg, none, [s.ctx.ownerKey], none, s.ctx.ownerKey⟩]
        nextMsg := m.nextMsg + 1 }) s1)))

/-- R210: once LCAP's result is written, the pair holds both words and the tag. -/
def Sys2Proof.Stmt.LcapResultSetsWordsAndTag : Prop :=
  ∀ (k : Cap) (lo hi : W64) (b : Bool) (pc : BitVec 72) (s : State),
    let t := lookahead 0 ⟨pc, [(capReg k false, lo), (capReg k true, hi)], some b, 0, 0, 0, false, none⟩ s
    t.ctx.g.m[2 * k.val] = lo ∧ t.ctx.g.m[2 * k.val + 1] = hi ∧ t.ctx.g.tags[k] = b ∧
    (∀ i : Fin 32, i.val / 2 ≠ k.val → t.ctx.g.m[i] = s.ctx.g.m[i]) ∧
    (∀ j : Cap, j ≠ k → t.ctx.g.tags[j] = s.ctx.g.tags[j])

/-- Together: CapabilityLoadsAndStores, LcapResultSetsWordsAndTag. -/
def Obligations.CapabilitiesLoadAndStore : Prop := Sys2Proof.Stmt.CapabilityLoadsAndStores ∧ Sys2Proof.Stmt.LcapResultSetsWordsAndTag

/-- R131: CMOV copies both words and the tag of a pair; CCLR zeroes a pair and clears its tag. Neither checks a tag or traps, and no
other register changes. -/
def Obligations.CapabilityMoveAndClear : Prop :=
  ∀ (kd ks : Cap) (s : State), s.ctx.la = [] →
    (∃ t, exec (.cmov kd ks) s = .next t ∧ t.ctx.g.m[2 * kd.val] = s.ctx.g.m[2 * ks.val] ∧
      t.ctx.g.m[2 * kd.val + 1] = s.ctx.g.m[2 * ks.val + 1] ∧ t.ctx.g.tags[kd] = s.ctx.g.tags[ks] ∧
      (∀ i : Fin 32, i.val / 2 ≠ kd.val → t.ctx.g.m[i] = s.ctx.g.m[i]) ∧
      (∀ j : Cap, j ≠ kd → t.ctx.g.tags[j] = s.ctx.g.tags[j]) ∧ t.ctx.g.cur = s.ctx.g.cur ∧
      t.ctx.pc = pcAdd s.ctx.pc 4 ∧ OnlyScalar s t) ∧
    (∃ t, exec (.cclr kd) s = .next t ∧ t.ctx.g.m[2 * kd.val] = 0 ∧ t.ctx.g.m[2 * kd.val + 1] = 0 ∧ t.ctx.g.tags[kd] = false ∧
      (∀ i : Fin 32, i.val / 2 ≠ kd.val → t.ctx.g.m[i] = s.ctx.g.m[i]) ∧
      (∀ j : Cap, j ≠ kd → t.ctx.g.tags[j] = s.ctx.g.tags[j]) ∧ t.ctx.g.cur = s.ctx.g.cur ∧
      t.ctx.pc = pcAdd s.ctx.pc 4 ∧ OnlyScalar s t)

/-- The length a capability's high word stands for (R127). -/
def Sys2Proof.Stmt.lengthOf (hi : W64) : Nat := fld hi.toNat 10 18 * 2 ^ fld hi.toNat 28 6

/-- R128: CBND raises CAPVIOL 0 on an untagged pair and CAPVIOL n on a widening; otherwise kd takes ks with a length that is the
largest representable one not above n: some exponent e is the smallest whose mantissa n >> e fits in 18 bits. -/
def Obligations.CbndNarrowsLength : Prop :=
  ∀ (kd ks : Cap) (x : Reg) (s : State) (n : W64), readReg x s = .ok n →
    (s.ctx.g.tags[ks] = false → exec (.cbnd kd ks x) s = finish s (raise cCAPVIOL 0)) ∧
    (s.ctx.g.tags[ks] = true → lengthOf (s.ctx.g.m[2 * ks.val + 1]) < n.toNat →
      exec (.cbnd kd ks x) s = finish s (raise cCAPVIOL n)) ∧
    (s.ctx.g.tags[ks] = true → n.toNat ≤ lengthOf (s.ctx.g.m[2 * ks.val + 1]) →
      ∃ (hi : W64) (e : Nat), exec (.cbnd kd ks x) s =
          .next (retire 4 (setG (fun g => g.setCap kd s.ctx.g.m[2 * ks.val] hi true) (popReg x s))) ∧
        n.toNat / 2 ^ e < 2 ^ 18 ∧ (∀ d, d < e → 2 ^ 18 ≤ n.toNat / 2 ^ d) ∧
        fld hi.toNat 28 6 = e ∧ fld hi.toNat 10 18 = n.toNat / 2 ^ e ∧ lengthOf hi ≤ n.toNat ∧
        (∀ d m, m < 2 ^ 18 → m * 2 ^ d ≤ n.toNat → m * 2 ^ d ≤ lengthOf hi) ∧
        fld hi.toNat 0 10 = fld (s.ctx.g.m[2 * ks.val + 1]).toNat 0 10 ∧
        fld hi.toNat 34 30 = fld (s.ctx.g.m[2 * ks.val + 1]).toNat 34 30)

/-- R129: CPERM raises CAPVIOL 0 on an untagged pair; otherwise kd takes ks with its five permissions ANDed with the low five bits of
its source, and never one more. -/
def Obligations.CpermDropsPermissions : Prop :=
  ∀ (kd ks : Cap) (x : Reg) (s : State) (b : W64), readReg x s = .ok b →
    (s.ctx.g.tags[ks] = false → exec (.cperm kd ks x) s = finish s (raise cCAPVIOL 0)) ∧
    (s.ctx.g.tags[ks] = true →
      ∃ hi : W64, exec (.cperm kd ks x) s =
          .next (retire 4 (setG (fun g => g.setCap kd s.ctx.g.m[2 * ks.val] hi true) (popReg x s))) ∧
        (∀ i, i < 64 → hi.getLsbD i = ((s.ctx.g.m[2 * ks.val + 1]).getLsbD i &&
          (decide (i < 34 ∨ 38 < i) || b.getLsbD (i - 34)))))

/-- The fence that an instruction with some sets leaves to be completed (R212): what its sets hold back, whether it drains, whether it
waits for earlier stores, and the number up to which stores are earlier. -/
def Sys2Proof.Stmt.fenceOf (scope : Scope) (rr rw wr ww : Bool) (s : State) : FencePend :=
  ⟨(demote scope s).1, rr || wr, rw || ww, rr || wr, wr || ww, s.mem.nextMsg⟩

/-- The state in which a fence issues: demoted, and with a set that begins with a read the earlier loads have their values. -/
def Sys2Proof.Stmt.fenced (scope : Scope) (rr rw : Bool) (s : State) : State :=
  if rr || rw then fixReads (demote scope s).2 else (demote scope s).2

/-- R212, R215: a fence issues at once. One whose waits are over is complete, and with a set that ends in a read acquires at its
scope; any other stays pending. There is nothing left to wait for when no AMO is pending and, with WR or WW, nothing is owed,
queued or on its way. No byte of memory changes. With WR or WW it does not execute while an acknowledgement is owed, so that a lost
one comes first (R364, log 100). -/
def Sys2Proof.Stmt.FencesComplete : Prop :=
  (∀ (scope : Scope) (rr rw wr ww : Bool) (s : State), (wr || ww = true) → s.ctx.tr.pendAck = none → s.ctx.acks ≠ [] →
    exec (.fence scope rr rw wr ww) s = finish s wait) ∧
  ∀ (scope : Scope) (rr rw wr ww : Bool) (s : State), (wr || ww = true → s.ctx.tr.pendAck = none ∧ s.ctx.acks = []) →
    let f := fenceOf scope rr rw wr ww s
    let u := fenced scope rr rw s
    (f.done u = true → exec (.fence scope rr rw wr ww) s = .next (retire 4 (if rr || wr then acquire f.scope u else u))) ∧
    (f.done u = false → exec (.fence scope rr rw wr ww) s =
      .next (retire 4 { u with ctx := { u.ctx with fences := u.ctx.fences ++ [f] } })) ∧
    (s.ctx.amo = none → (wr || ww = true → s.mem.stores = [] ∧ s.mem.msgs = [] ∧ s.ctx.qs.sent = none) →
      f.done u = true) ∧
    (∀ a, (acquire f.scope u).mem.byte a = s.mem.byte a ∧ u.mem.byte a = s.mem.byte a)

/-- R212: while a fence is not complete, no later access of a kind that its sets name issues. -/
def Sys2Proof.Stmt.FencesHoldLaterAccesses : Prop :=
  ∀ (s : State) (f : FencePend), f ∈ s.ctx.fences → f.done s = false →
    (f.holdR = true → ∀ w, fenceGate true w s = wait) ∧ (f.holdW = true → ∀ r, fenceGate r true s = wait)

/-- R213, R214: FENCE.E also waits for the engines, and acquires what they stored and copied; the writes of the thread's copy commands
and vector stores count among its earlier writes, so at package or system scope one not yet performed keeps it from completing.
TDCLR is FENCE.E at system scope, with TDMASK cleared once it is complete. -/
def Sys2Proof.Stmt.EngineFencesComplete : Prop :=
  ∀ (scope : Scope) (s : State), enginesDone s = true → s.ctx.tr.pendAck = none → s.ctx.acks = [] →
    let x := coverWrites (fun _ => true) (acquireCopies (acquireEngine s))
    let f := fenceOf scope true true true true x
    let u := fenced scope true true x
    (f.done u = true → exec (.fenceE scope) s = .next (retire 4 (acquire f.scope u))) ∧
    (f.done u = false → exec (.fenceE scope) s =
      .next (retire 4 { u with ctx := { u.ctx with fences := u.ctx.fences ++ [f] } })) ∧
    (3 ≤ f.scope.code → ∀ w ∈ s.mem.msgs, w.owner = some s.ctx.ownerKey → w.performedAt = none → w.id < s.mem.nextMsg →
      f.done u = false) ∧
    (s.ctx.fences = [] → scope = .sys →
      (f.done u = true → ∃ v, exec .tdclr s = .next v ∧ v.ctx.sys.tdmask = 0 ∧
        v = retire 4 (setSys (fun r => { r with tdmask := 0 }) (acquire f.scope u))) ∧
      (f.done u = false → exec .tdclr s = finish s wait))

/-- Together: FencesComplete, FencesHoldLaterAccesses, EngineFencesComplete. -/
def Obligations.FencesOfEveryKindComplete : Prop :=
  Sys2Proof.Stmt.FencesComplete ∧ Sys2Proof.Stmt.FencesHoldLaterAccesses ∧ Sys2Proof.Stmt.EngineFencesComplete

/-! ### The vector unit -/

/-- Lane instructions of two sources with the operation they queue (R150). -/
def Sys2Proof.Stmt.vrTwo : List ((VReg → VReg → VReg → VMask → Instr) × VBin) := [
  (.vaddW, .addW), (.vsubW, .subW), (.vmulW, .mulW), (.vmulhW, .mulhW), (.vminW, .minW), (.vmaxW, .maxW), (.vminuW, .minuW),
  (.vmaxuW, .maxuW), (.vand, .and), (.vor, .or), (.vxor, .xor), (.vsll, .sll), (.vsrl, .srl), (.vsra, .sra), (.vdot4, .dot4),
  (.vdot4u, .dot4u), (.vfadd, .fadd), (.vfsub, .fsub), (.vfmul, .fmul), (.vfma, .fma), (.vfmin, .fmin), (.vfmax, .fmax),
  (.vlmulH, .lmulH)]

/-- Lane instructions of one source (R150). -/
def Sys2Proof.Stmt.vrOne : List ((VReg → VReg → VMask → Instr) × VUn) := [
  (.vfrcp, .frcp), (.vfrsq, .frsq), (.vexp2, .exp2), (.vlog2, .log2), (.vfabs, .fabs), (.vfneg, .fneg), (.vmov, .mov),
  (.vcvtSW, .cvtSW), (.vcvtWS, .cvtWS), (.vcvtSH, .cvtSH), (.vcvtHS, .cvtHS), (.vcvtSBf, .cvtSBf), (.vcvtBfS, .cvtBfS),
  (.vlinH, .linH), (.vlogH, .logH), (.vlinB, .linB), (.vlogB, .logB)]

def Sys2Proof.Stmt.vrCompare : List ((VMask → VReg → VReg → VMask → Instr) × VCmp) := [
  (.vceqW, .eqW), (.vcltW, .ltW), (.vcltuW, .ltuW), (.vfceq, .feq), (.vfclt, .flt), (.vfcle, .fle)]

def Sys2Proof.Stmt.vrReduce : List ((VReg → VMask → Instr) × VRed) := [
  (.vredsumW, .sumW), (.vredsumS, .sumS), (.vredmaxS, .maxS), (.vredminS, .minS), (.vredmaxW, .maxW)]

/-- Short forms of two registers: vd ← vd op vs on all lanes (R27). -/
noncomputable def Sys2Proof.Stmt.shortForms : List ((VReg → VReg → Instr) × VBin) := [
  (.vaddWShort, .addW), (.vsubWShort, .subW), (.vmulWShort, .mulW), (.vandShort, .and), (.vorShort, .or), (.vxorShort, .xor),
  (.vminWShort, .minW), (.vmaxWShort, .maxW), (.vfaddShort, .fadd), (.vfsubShort, .fsub), (.vfmulShort, .fmul),
  (.vfminShort, .fmin), (.vfmaxShort, .fmax), (.vlmulHShort, .lmulH), (.vsllShort, .sll)]

/-- Broadcast short forms: the second operand of every lane is the low word of an operand register, read at issue (R28). -/
noncomputable def Sys2Proof.Stmt.bcastForms : List ((VReg → Fin 8 → Instr) × VBin) := [
  (.vaddWBcast, .addW), (.vsubWBcast, .subW), (.vmulWBcast, .mulW), (.vandBcast, .and), (.vorBcast, .or), (.vxorBcast, .xor),
  (.vminWBcast, .minW), (.vmaxWBcast, .maxW), (.vfaddBcast, .fadd), (.vfsubBcast, .fsub), (.vfmulBcast, .fmul),
  (.vfminBcast, .fmin), (.vfmaxBcast, .fmax), (.vmovBcast, .mov), (.vlmulHBcast, .lmulH), (.vsllBcast, .sll)]

/-- A command queue entry made at issue, with the width, FILLV and EVSEL that stand (R141, R241). -/
def Sys2Proof.Stmt.queued (op : VOp) (x y : W64) (rnd : List W64) (s : State) : State :=
  setVec (fun v => { v with q := v.q ++ [⟨op, s.ctx.vec.width, x, y, [], s.ctx.sys.fillv, rnd, s.ctx.sys.evsel,
    s.mem.nextMsg, false⟩] }) s

/-- R27, R28, R141, R150: a lane instruction whose command queue has room enters it with the values read at issue, in its long, short
and broadcast forms; only the queue changes until the unit runs it. -/
def Sys2Proof.Stmt.LaneInstructionsEnterTheQueue : Prop :=
  ∀ (vd vs1 vs2 : VReg) (vm vmd va vb : VMask) (o : Fin 8) (s : State), s.ctx.vec.q.length < 16 →
    (∀ p ∈ vrTwo, exec (p.1 vd vs1 vs2 vm) s = .next (retire 4 (queued (.bin p.2 vd vs1 (.reg vs2) vm) 0 0 [] s))) ∧
    (∀ p ∈ vrOne, exec (p.1 vd vs1 vm) s = .next (retire 4 (queued (.un p.2 vd vs1 vm) 0 0 [] s))) ∧
    (∀ p ∈ vrCompare, exec (p.1 vmd vs1 vs2 vm) s = .next (retire 4 (queued (.cmp p.2 vmd vs1 vs2 vm) 0 0 [] s))) ∧
    (∀ p ∈ shortForms, exec (p.1 vd vs1) s = .next (retire 2 (queued (.bin p.2 vd vd (.reg vs1) 0) 0 0 [] s))) ∧
    (∀ p ∈ bcastForms, exec (p.1 vd o) s =
      .next (retire 2 (queued (.bin p.2 vd vd .scalar 0) (s.ctx.g.cur.o[o]) 0 [] s))) ∧
    exec (.vmovShort vd vs1) s = .next (retire 2 (queued (.un .mov vd vs1 0) 0 0 [] s)) ∧
    exec (.vsel vd vs1 vs2 vm) s = .next (retire 4 (queued (.sel vd vs1 vs2 vm) 0 0 [] s)) ∧
    exec (.vperm vd vs1 vs2 vm) s = .next (retire 4 (queued (.perm vd vs1 vs2 vm) 0 0 [] s)) ∧
    exec (.viota vd vm) s = .next (retire 4 (queued (.iota vd vm) 0 0 [] s)) ∧
    exec (.vmand vmd va vb) s = .next (retire 4 (queued (.mand vmd va vb) 0 0 [] s)) ∧
    exec (.vmor vmd va vb) s = .next (retire 4 (queued (.mor vmd va vb) 0 0 [] s)) ∧
    exec (.vmnot vmd va) s = .next (retire 4 (queued (.mnot vmd va) 0 0 [] s))

/-- R153, R154, R155: moves between the register file and the vector unit, reductions and random draws enter the queue with their
scalar operands; an instruction that will push to qvs raises ILL when qvs can hold no more. -/
def Sys2Proof.Stmt.ScalarOperandsEnterTheQueue : Prop :=
  ∀ (vd : VReg) (vm : VMask) (x y : Reg) (s : State) (a b : W64), readReg x s = .ok a → readReg y s = .ok b →
    (s.ctx.vec.q.length < 16 →
      exec (.vbcast vd x vm) s = .next (retire 4 (queued (.bcast vd vm) a 0 [] s)) ∧
      exec (.vins vd x y) s = .next (retire 4 (queued (.ins vd) a b [] s)) ∧
      (qvsOwed s.ctx.vec < 16 →
        exec (.vmovs vd y) s = .next (retire 4 (queued (.movs vd) 0 b [] s)) ∧
        ∀ p ∈ vrReduce, exec (p.1 vd vm) s = .next (retire 4 (queued (.red p.2 vd vm) 0 0 [] s)))) ∧
    (16 ≤ qvsOwed s.ctx.vec →
      exec (.vmovs vd y) s = finish s (raise cILL s.insn) ∧ ∀ p ∈ vrReduce, exec (p.1 vd vm) s = finish s (raise cILL s.insn))

/-- The generator after `n` pops of qrn (R99). -/
def Sys2Proof.Stmt.rngAfter : Nat → W128 → W128
  | 0, g => g
  | n + 1, g => rngAfter n (rngPop g).2

/-- R99, R154: VRAND draws one word for each pair of active lanes at issue; the `j`-th is the word the `j`-th pop of qrn would have
given, and the generator stands as those pops leave it. -/
def Sys2Proof.Stmt.VrandDrawsAtIssue : Prop :=
  ∀ (vd : VReg) (vm : VMask) (s : State), s.ctx.vec.q.length < 16 →
    (vm = 0 ∨ s.ctx.vec.q.all (fun t => !t.writesMask vm) = true) →
    let n := ((List.range (16 * s.ctx.vec.gang)).filter fun i => decide (i < s.ctx.vec.width) && s.ctx.vec.mbit vm i).length
    let k := (n + 1) / 2
    ∃ (ws : List W64) (t : State), exec (.vrand vd vm) s = .next (retire 4 (queued (.rand vd vm) 0 0 ws t)) ∧
      ws = (List.range k).map (fun j => (rngPop (rngAfter j s.ctx.rng)).1) ∧
      t = { s with ctx := { s.ctx with rng := rngAfter k s.ctx.rng } }

/-- Together: LaneInstructionsEnterTheQueue, ScalarOperandsEnterTheQueue, VrandDrawsAtIssue. -/
def Obligations.VectorInstructionsAreQueued : Prop := Sys2Proof.Stmt.LaneInstructionsEnterTheQueue ∧ Sys2Proof.Stmt.ScalarOperandsEnterTheQueue ∧ Sys2Proof.Stmt.VrandDrawsAtIssue

/-- The integer lane values of R150; the floating-point and LNS ones are those of the shared number functions. -/
def Sys2Proof.Stmt.laneVal : VBin → W32 → W32 → W32 → W32
  | .addW, _, a, b => a + b
  | .subW, _, a, b => a - b
  | .mulW, _, a, b => a * b
  | .mulhW, _, a, b => BitVec.ofInt 32 (a.toInt * b.toInt / 2 ^ 32)
  | .minW, _, a, b => if a.toInt ≤ b.toInt then a else b
  | .maxW, _, a, b => if a.toInt ≤ b.toInt then b else a
  | .minuW, _, a, b => if a.toNat ≤ b.toNat then a else b
  | .maxuW, _, a, b => if a.toNat ≤ b.toNat then b else a
  | .and, _, a, b => a &&& b
  | .or, _, a, b => a ||| b
  | .xor, _, a, b => a ^^^ b
  | .sll, _, a, b => BitVec.ofNat 32 (a.toNat * 2 ^ (b.toNat % 32))
  | .srl, _, a, b => BitVec.ofNat 32 (a.toNat / 2 ^ (b.toNat % 32))
  | .sra, _, a, b => BitVec.ofInt 32 (a.toInt / 2 ^ (b.toNat % 32))
  | .dot4, d, a, b => (Machine.dot4 true d a b).1
  | .dot4u, d, a, b => (Machine.dot4 false d a b).1
  | .fadd, _, a, b => vfadd a b
  | .fsub, _, a, b => vfsub a b
  | .fmul, _, a, b => vfmul a b
  | .fma, d, a, b => vffma d a b
  | .fmin, _, a, b => vfmin a b
  | .fmax, _, a, b => vfmax a b
  | .lmulH, _, a, b => BitVec.ofNat 32 (lnsMul 15 (lns16 (a.toNat % 65536)) (lns16 (b.toNat % 65536))).1
  | .mov, _, _, b => b

/-- A lane is one of the core's or gang's, below the width kept at issue, and its mask bit is 1; vm0 reads all ones (R95, R148). -/
def Sys2Proof.Stmt.activeLane (t : VTask) (vm : VMask) (v : VecRegs) (i : Nat) : Prop :=
  i < 16 * v.gang ∧ i < t.width ∧ (vm = 0 ∨ (v.vm[vm]).getLsbD i = true)

/-- Outside the vector registers, masks, queue and sticky flags of the acting context and the credits of the arbiter, nothing changes;
memory stands as it was. -/
def Sys2Proof.Stmt.OnlyVector (s t : State) : Prop :=
  ∃ v fl fab, t = { s with fab := fab, ctx := { s.ctx with vec := v, sys := { s.ctx.sys with lflags := fl } } } ∧
    fab = { s.fab with credits := fab.credits }

/-- R142, R148, R150: when the unit completes a lane instruction of two sources, each active lane of vd holds the lane value of its
operands, every other lane and register is as it was, and the instruction has left the queue. -/
def Sys2Proof.Stmt.LaneResultsOfTwoSources : Prop :=
  ∀ (f : VBin) (vd vs1 : VReg) (src : VSrc) (vm : VMask) (task : VTask) (rest : List VTask) (s : State),
    s.ctx.vec.q = task :: rest → task.started = true → task.op = .bin f vd vs1 src vm →
    ∃ t, exec .vectorComplete s = .next t ∧ t.ctx.vec.q = rest ∧
      (∀ i : Fin 128,
        let d := (s.ctx.vec.v[vd])[i]
        let a := (s.ctx.vec.v[vs1])[i]
        let b := match src with
          | .reg r => (s.ctx.vec.v[r])[i]
          | .scalar => task.x.setWidth 32
        (activeLane task vm s.ctx.vec i → (t.ctx.vec.v[vd])[i] = laneVal f d a b) ∧
        (¬ activeLane task vm s.ctx.vec i → (t.ctx.vec.v[vd])[i] = d)) ∧
      (∀ r : VReg, r ≠ vd → t.ctx.vec.v[r] = s.ctx.vec.v[r]) ∧
      t.ctx.vec.vm = s.ctx.vec.vm ∧ t.ctx.vec.width = s.ctx.vec.width ∧ t.ctx.vec.qvs = s.ctx.vec.qvs ∧ OnlyVector s t

/-- Of the vector state an instruction wrote only vector register `vd`, and of it only lanes where `p` holds. -/
def Sys2Proof.Stmt.OnlyLanes (vd : VReg) (p : Nat → Prop) (s t : State) : Prop :=
  OnlyVector s t ∧ t.ctx.vec = { s.ctx.vec with v := t.ctx.vec.v, q := t.ctx.vec.q } ∧
    (∀ r : VReg, r ≠ vd → t.ctx.vec.v[r] = s.ctx.vec.v[r]) ∧
    ∀ i : Fin 128, ¬ p i → (t.ctx.vec.v[vd])[i] = (s.ctx.vec.v[vd])[i]

/-- Of the vector state an instruction wrote only mask `d`, none when that is vm0, and of it only bits where `p` holds (R95). -/
def Sys2Proof.Stmt.OnlyMask (d : VMask) (p : Nat → Prop) (s t : State) : Prop :=
  OnlyVector s t ∧ t.ctx.vec = { s.ctx.vec with vm := t.ctx.vec.vm, q := t.ctx.vec.q } ∧
    (∀ m : VMask, m ≠ d ∨ m = 0 → t.ctx.vec.vm[m] = s.ctx.vec.vm[m]) ∧
    ∀ i, ¬ p i → (t.ctx.vec.vm[d]).getLsbD i = (s.ctx.vec.vm[d]).getLsbD i

/-- R95, R148, R149, R150, R154: completion of one-source lane instructions, comparisons, VSEL, VPERM, VBCAST, VINS, VIOTA, VRAND
and the mask instructions. Each writes its register's or mask's lanes and nothing else. A comparison writes mask bits of active
lanes; the mask instructions write all lanes whatever the width; no instruction writes vm0; VRAND gives its words to the active
lanes in ascending order, two lanes a word, low half first; VMPOPC leaves the count of the mask's bits below its width for the
core that waits; VSETW, whose width stood from its issue, only leaves the queue (log 88). -/
def Sys2Proof.Stmt.OtherLaneResults : Prop :=
  ∀ (task : VTask) (rest : List VTask) (s : State), s.ctx.vec.q = task :: rest → task.started = true →
    let v := s.ctx.vec
    let n := 16 * v.gang
    (∀ f vd vs1 vm, task.op = .un f vd vs1 vm → ∃ t, exec .vectorComplete s = .next t ∧ t.ctx.vec.q = rest ∧
      OnlyLanes vd (activeLane task vm v) s t ∧
      ∀ i : Fin 128, activeLane task vm v i → (t.ctx.vec.v[vd])[i] = (f.lane (v.v[vs1])[i]).1) ∧
    (∀ f vmd vs1 vs2 vm, task.op = .cmp f vmd vs1 vs2 vm → ∃ t, exec .vectorComplete s = .next t ∧ t.ctx.vec.q = rest ∧
      OnlyMask vmd (activeLane task vm v) s t ∧
      (vmd ≠ 0 → ∀ i : Fin 128, activeLane task vm v i → (t.ctx.vec.vm[vmd]).getLsbD i = f.lane (v.v[vs1])[i] (v.v[vs2])[i])) ∧
    (∀ vd vs1 vs2 vm, task.op = .sel vd vs1 vs2 vm → ∃ t, exec .vectorComplete s = .next t ∧ t.ctx.vec.q = rest ∧
      OnlyLanes vd (fun i => i < n ∧ i < task.width) s t ∧ ∀ i : Fin 128, i.val < n → i.val < task.width →
        (t.ctx.vec.v[vd])[i] = if v.mbit vm i then (v.v[vs1])[i] else (v.v[vs2])[i]) ∧
    (∀ vd vs1 vs2 vm, task.op = .perm vd vs1 vs2 vm → ∃ t, exec .vectorComplete s = .next t ∧ t.ctx.vec.q = rest ∧
      OnlyLanes vd (activeLane task vm v) s t ∧
      ∀ i j : Fin 128, activeLane task vm v i → j.val = ((v.v[vs2])[i]).toNat % n → (t.ctx.vec.v[vd])[i] = (v.v[vs1])[j]) ∧
    (∀ vd vm, task.op = .bcast vd vm → ∃ t, exec .vectorComplete s = .next t ∧ t.ctx.vec.q = rest ∧
      OnlyLanes vd (activeLane task vm v) s t ∧
      ∀ i : Fin 128, activeLane task vm v i → (t.ctx.vec.v[vd])[i] = task.x.setWidth 32) ∧
    (∀ vd, task.op = .ins vd → ∃ t, exec .vectorComplete s = .next t ∧ t.ctx.vec.q = rest ∧
      OnlyLanes vd (fun i => i = task.y.toNat % n) s t ∧
      ∀ i : Fin 128, (t.ctx.vec.v[vd])[i] = if i.val = task.y.toNat % n then task.x.setWidth 32 else (v.v[vd])[i]) ∧
    (∀ vd vm, task.op = .iota vd vm → ∃ t, exec .vectorComplete s = .next t ∧ t.ctx.vec.q = rest ∧
      OnlyLanes vd (activeLane task vm v) s t ∧
      ∀ i : Fin 128, activeLane task vm v i → (t.ctx.vec.v[vd])[i] = BitVec.ofNat 32 i) ∧
    (∀ vd vm, task.op = .rand vd vm → ∃ t, exec .vectorComplete s = .next t ∧ t.ctx.vec.q = rest ∧
      OnlyLanes vd (activeLane task vm v) s t ∧
      ∀ i : Fin 128, activeLane task vm v i →
        let k := (List.range i).countP fun j => decide (j < task.width) && v.mbit vm j
        let r := (task.rnd.getD (k / 2) 0).toNat
        (t.ctx.vec.v[vd])[i] = BitVec.ofNat 32 (if k % 2 = 0 then r else r / 2 ^ 32)) ∧
    (∀ d a b, task.op = .mand d a b → ∃ t, exec .vectorComplete s = .next t ∧ t.ctx.vec.q = rest ∧ OnlyMask d (· < n) s t ∧
      (d ≠ 0 → ∀ i : Fin 128, i.val < n → (t.ctx.vec.vm[d]).getLsbD i = (v.mbit a i && v.mbit b i))) ∧
    (∀ d a b, task.op = .mor d a b → ∃ t, exec .vectorComplete s = .next t ∧ t.ctx.vec.q = rest ∧ OnlyMask d (· < n) s t ∧
      (d ≠ 0 → ∀ i : Fin 128, i.val < n → (t.ctx.vec.vm[d]).getLsbD i = (v.mbit a i || v.mbit b i))) ∧
    (∀ d a, task.op = .mnot d a → ∃ t, exec .vectorComplete s = .next t ∧ t.ctx.vec.q = rest ∧ OnlyMask d (· < n) s t ∧
      (d ≠ 0 → ∀ i : Fin 128, i.val < n → (t.ctx.vec.vm[d]).getLsbD i = !v.mbit a i)) ∧
    (∀ a, task.op = .popc a → ∃ t, exec .vectorComplete s = .next t ∧ t.ctx.vec.q = rest ∧ OnlyVector s t ∧
      t.ctx.vec = { v with q := rest, popc := some (some (w64 ((List.range n).countP fun i =>
        decide (i < task.width ∧ (a = 0 ∨ (v.vm[a]).getLsbD i = true))))) }) ∧
    (task.op = .setw ∨ task.op = .ungang → ∃ t, exec .vectorComplete s = .next t ∧ OnlyVector s t ∧ t.ctx.vec = { v with q := rest })

/-- The fixed pairwise tree of R93: entry `i` of a level combines entries 2i and 2i + 1 of the level below. -/
def Sys2Proof.Stmt.treeOf (f : W32 → W32 → W32) (x : Nat → W32) : Nat → Nat → W32
  | 0, i => x i
  | k + 1, i => f (treeOf f x k (2 * i)) (treeOf f x k (2 * i + 1))

/-- The FP32 reductions with their step and identity (R93); a NaN in a step of VREDMAX.S or VREDMIN.S gives the canonical NaN. -/
def Sys2Proof.Stmt.floatReductions : List (VRed × (W32 → W32 → W32) × W32) :=
  let nan := fun (a : W32) => decide (0x7F800000 < a.toNat % 2 ^ 31)
  let orNan := fun (f : W32 → W32 → W32) (a b : W32) => if nan a || nan b then 0x7FC00000 else f a b
  [(.sumS, vfadd, 0), (.maxS, orNan vfmax, 0xFF800000), (.minS, orNan vfmin, 0x7F800000)]

/-- R93, R151, R155: a reduction pushes one entry to qvs and changes no register: VREDSUM.W the sign-extended sum of the active lanes
modulo 2^32, VREDMAX.W their greatest value (the most negative one when none is active), VREDSUM.S, VREDMAX.S and VREDMIN.S the
zero-extended root of the pairwise tree over all lanes, inactive ones holding the identity; VMOVS the zero-extended lane its scalar
names, modulo the number of lanes. -/
def Sys2Proof.Stmt.ReductionsPushToQvs : Prop :=
  ∀ (task : VTask) (rest : List VTask) (s : State), s.ctx.vec.q = task :: rest → task.started = true →
    s.ctx.vec.gang ∈ [1, 2, 4, 8] →
    let v := s.ctx.vec
    let n := 16 * v.gang
    (∀ vs1 vm, task.op = .red .sumW vs1 vm → ∃ t e, exec .vectorComplete s = .next t ∧ t.ctx.vec.qvs = v.qvs ++ [e] ∧
      t.ctx.vec.v = v.v ∧ t.ctx.vec.q = rest ∧ OnlyVector s t ∧
      e = sxOf 32 (((List.range n).filter fun i => decide (i < task.width) && v.mbit vm i).map fun i =>
        ((v.lane vs1 i).toNat : Int)).sum) ∧
    (∀ vs1 vm, task.op = .red .maxW vs1 vm → ∃ t e, exec .vectorComplete s = .next t ∧ t.ctx.vec.qvs = v.qvs ++ [e] ∧
      t.ctx.vec.v = v.v ∧ t.ctx.vec.q = rest ∧ OnlyVector s t ∧
      (∀ i : Fin 128, activeLane task vm v i → ((v.v[vs1])[i]).toInt ≤ e.toInt) ∧
      ((∃ i : Fin 128, activeLane task vm v i ∧ ((v.v[vs1])[i]).toInt = e.toInt) ∨ e.toInt = -(2 ^ 31))) ∧
    (∀ p ∈ floatReductions, ∀ vs1 vm levels, task.op = .red p.1 vs1 vm → 2 ^ levels = n →
      let leaf := fun (i : Nat) => if i < task.width ∧ v.mbit vm i = true then v.lane vs1 i else p.2.2
      ∃ t, exec .vectorComplete s = .next t ∧ OnlyVector s t ∧
        t.ctx.vec = { v with q := rest, qvs := v.qvs ++ [(treeOf p.2.1 leaf levels 0).setWidth 64] }) ∧
    (∀ vd, task.op = .movs vd → ∃ t e, exec .vectorComplete s = .next t ∧ t.ctx.vec.qvs = v.qvs ++ [e] ∧
      t.ctx.vec.v = v.v ∧ t.ctx.vec.q = rest ∧ OnlyVector s t ∧
      ∀ i : Fin 128, i.val = task.y.toNat % n → e = ((v.v[vd])[i]).setWidth 64)

/-- Together: LaneResultsOfTwoSources, OtherLaneResults, ReductionsPushToQvs. -/
def Obligations.LaneAndReductionResults : Prop := Sys2Proof.Stmt.LaneResultsOfTwoSources ∧ Sys2Proof.Stmt.OtherLaneResults ∧ Sys2Proof.Stmt.ReductionsPushToQvs

/-- The offset of lane `i` of each vector memory instruction (R156). -/
def Sys2Proof.Stmt.unitOff (x : W64) (i : Nat) : Int := x.toInt + 4 * i
def Sys2Proof.Stmt.strideOff (x : W64) (i : Nat) : Int := i * x.toInt
def Sys2Proof.Stmt.gatherOff (s : State) (r : VReg) (i : Nat) : Int := 4 * ((s.ctx.vec.lane r i).toNat : Int)

/-- What a vector memory instruction through capability `k` needs, and the state in which it has issued (R157, R212): no fence that
holds it, a tagged, well-formed capability with the permission, no queued write of its mask, elements of the active in-bounds lanes
that pass their checks, their charge in one, no moved page, room in the queue. Its number tells the thread's earlier accesses from
its later ones (R160). -/
def Sys2Proof.Stmt.VecIssues (op : VOp) (k : Cap) (vm : VMask) (off : Nat → Int) (isStore : Bool) (g t : State) : Prop :=
  ∃ s, fenceGate (!isStore) isStore g = .ok s ∧
  let lo := s.ctx.g.m[2 * k.val]
  let hi := s.ctx.g.m[2 * k.val + 1]
  let act := (List.range (16 * s.ctx.vec.gang)).filter fun i => decide (i < s.ctx.vec.width) && s.ctx.vec.mbit vm i
  let ins := act.filter fun i => decide (0 ≤ off i ∧ off i + 4 ≤ (lengthOf hi : Int))
  s.ctx.g.tags[k] = true ∧ capMalformed lo hi = false ∧ hi.getLsbD (if isStore then 35 else 34) = true ∧
  (vm = 0 ∨ s.ctx.vec.q.all (fun t => !t.writesMask vm) = true) ∧
  ∃ ts n d s1 s2, vecElems lo hi off (if isStore then .write else .read) ins s = .ok (ts, n, d, s1) ∧ charge n s1 = .ok s2 ∧
    ts.all (fun t => t.2.stale.isNone) = true ∧ s2.ctx.vec.q.length < 16 ∧
    t = takeStamp (setVec (fun v => { v with q := v.q ++ [⟨op, s2.ctx.vec.width, 0, w64 (act.length - ins.length),
      (ts.filter fun t => !t.2.lost).map fun t => (t.1, t.2.place), s2.ctx.sys.fillv, [], s2.ctx.sys.evsel, s2.mem.nextMsg,
      false⟩] }) (vecFlits ts (touch d s2)))

/-- R156, R157: the vector memory instructions issue; a gather or scatter waits for earlier writes of its index register. -/
def Obligations.VectorMemoryIssues : Prop :=
  ∀ (vd vn : VReg) (k : Cap) (y : Reg) (vm : VMask) (s t : State) (x : W64), readReg y s = .ok x →
    (VecIssues (.load vd vm) k vm (unitOff x) false s t → exec (.vld vd k y vm) s = .next (retire 4 t)) ∧
    (VecIssues (.store vd) k vm (unitOff x) true s t → exec (.vst vd k y vm) s = .next (retire 4 t)) ∧
    (VecIssues (.load vd vm) k vm (strideOff x) false s t → exec (.vlds vd k y vm) s = .next (retire 4 t)) ∧
    (VecIssues (.store vd) k vm (strideOff x) true s t → exec (.vsts vd k y vm) s = .next (retire 4 t)) ∧
    (s.ctx.vec.q.all (fun t => !t.writes vd) = true → VecIssues (.load vd vm) k vm (gatherOff s vd) false s t →
      exec (.vldg vd k vm) s = .next (retire 4 t)) ∧
    (s.ctx.vec.q.all (fun t => !t.writes vn) = true → VecIssues (.store vd) k vm (gatherOff s vn) true s t →
      exec (.vstg vd k vn vm) s = .next (retire 4 t))

/-- R157, R158: when a load of raw scratchpad words completes, lane i of its element list holds the little-endian word at the
element's place, every other active lane FILLV as it stood at issue, and every inactive lane its old value; no byte of memory
changes. -/
def Sys2Proof.Stmt.VectorLoadDeliversWords : Prop :=
  ∀ (vd : VReg) (vm : VMask) (task : VTask) (rest : List VTask) (s : State), s.ctx.vec.q = task :: rest → task.started = true →
    task.op = .load vd vm → (task.elems.map Prod.fst).Nodup →
    s.mem.poison = [] → s.mem.checks = [] → s.mem.msgs = [] → s.fab.tombs = [] → s.fab.lost = 0 → s.fab.lostPages = [] →
    (∀ e ∈ task.elems, e.2.win = 0 ∧ isGlobal e.2.addr = false) →
    ∃ t, exec .vectorComplete s = .next t ∧ t.ctx.vec.q = rest ∧ t.mem = s.mem ∧
      ∀ i : Fin 128,
        (∀ p, activeLane task vm s.ctx.vec i → (i.val, p) ∈ task.elems →
          (t.ctx.vec.v[vd])[i] = BitVec.ofNat 32 (ofBytes (s.mem.bytes p.addr 4))) ∧
        (activeLane task vm s.ctx.vec i → (∀ e ∈ task.elems, e.1 ≠ i.val) → (t.ctx.vec.v[vd])[i] = task.fillv) ∧
        (¬ activeLane task vm s.ctx.vec i → (t.ctx.vec.v[vd])[i] = (s.ctx.vec.v[vd])[i])

/-- R158: when a store of raw scratchpad words to places that do not overlap completes, the four bytes at each element's place hold
its lane, little-endian, and every other byte of memory is as it was. -/
def Sys2Proof.Stmt.VectorStoreWritesWords : Prop :=
  ∀ (vd : VReg) (task : VTask) (rest : List VTask) (s : State), s.ctx.vec.q = task :: rest →
    task.started = true → task.op = .store vd →
    (∀ e ∈ task.elems, e.2.win = 0 ∧ isGlobal e.2.addr = false ∧ shownStores (dieOf s.cur) e.2.addr 4 s = []) →
    task.elems.Pairwise (fun d e => d.2.addr + 4 ≤ e.2.addr ∨ e.2.addr + 4 ≤ d.2.addr) →
    s.mem.wf = true → s.fab.tombs = [] → s.fab.lost = 0 → s.fab.lostPages = [] →
    ∃ t, exec .vectorComplete s = .next t ∧ t.ctx.vec.q = rest ∧ t.ctx.vec.v = s.ctx.vec.v ∧
      (∀ e ∈ task.elems, t.mem.bytes e.2.addr 4 = bytesOf 4 (s.ctx.vec.lane vd e.1).toNat) ∧
      (∀ a, (∀ e ∈ task.elems, a < e.2.addr ∨ e.2.addr + 4 ≤ a) → t.mem.byte a = s.mem.byte a) ∧ t.mem.wf = true

/-- The stored bytes of an element of windows 1 to 8 (R168). -/
def Sys2Proof.Stmt.codeBytes (w : Nat) : Nat := if w = 2 ∨ w = 3 ∨ w = 4 then 2 else 1

/-- The code of an element of windows 1 to 8 as memory holds it: one or two bytes, or the nibble of a byte (R70, R168). -/
def Sys2Proof.Stmt.codeAt (m : Memory) (w a : Nat) (hi : Bool) : Nat :=
  let b := ofBytes (m.bytes a (codeBytes w))
  if w = 6 ∨ w = 8 then (if hi then b / 16 else b % 16) else b

/-- The zero point of a group descriptor word of a window; its scale is the low half (R71). -/
def Sys2Proof.Stmt.zeroPoint (w d : Nat) : Nat := if w = 5 then d / 2 ^ 16 % 256 else d / 2 ^ 16 % 16

/-- What a vector load reads of a code through a window, with its flags, for a group descriptor (R71, R77, R82, R83, R168). -/
def Sys2Proof.Stmt.decodedLane (w code desc : Nat) : W32 × LFlags :=
  match w with
  | 1 => (lin8 (lns8 code), 0)
  | 2 => lin16 true (lns16 code)
  | 3 => (vwiden fp16 code, 0)
  | 4 => (vwiden bf16 code, 0)
  | 7 => (BitVec.ofInt 32 (if code < 128 then code else code - 256), 0)
  | 8 => (BitVec.ofInt 32 (if code < 8 then code else code - 16), 0)
  | _ => (flush32 (groupDecode code (zeroPoint w desc) (desc % 2 ^ 16)), 0)

/-- The code a vector store writes for a lane through a window, with its flags (R73, R76, R77, R84). -/
def Sys2Proof.Stmt.encodedLane (w : Nat) (x : W32) (desc : Nat) : Nat × LFlags :=
  match w with
  | 1 => log8 true x
  | 2 => log16 true x
  | 3 => (vnarrow fp16 x, 0)
  | 4 => (vnarrow bf16 x, 0)
  | 5 => groupEncode 255 (zeroPoint 5 desc) (desc % 2 ^ 16) (flush32 x)
  | 6 => groupEncode 15 (zeroPoint 6 desc) (desc % 2 ^ 16) (flush32 x)
  | 7 => satInt 8 x
  | _ => satInt 4 x

/-- The group descriptor word of an element (R72). -/
def Sys2Proof.Stmt.descAt (m : Memory) (p : Place) : Nat := ofBytes (m.bytes p.desc 4)

/-- R158, R168: when a load through windows 1 to 8 completes, lane i of its element list holds its decoded element, every other active
lane FILLV as it stood at issue, and every inactive lane its old value; LFLAGS takes the flags of its elements; no byte of memory
changes. That an element of windows 5 and 6 decodes with its group descriptor's bytes as they stand at completion is the model's choice
(log 87): no rule says when they are read. -/
def Sys2Proof.Stmt.VectorLoadDecodes : Prop :=
  ∀ (vd : VReg) (vm : VMask) (task : VTask) (rest : List VTask) (s : State), s.ctx.vec.q = task :: rest → task.started = true →
    task.op = .load vd vm → (task.elems.map Prod.fst).Nodup →
    s.mem.poison = [] → s.mem.checks = [] → s.mem.msgs = [] → s.fab.tombs = [] → s.fab.lost = 0 → s.fab.lostPages = [] →
    (∀ e ∈ task.elems, 1 ≤ e.2.win ∧ e.2.win ≤ 8 ∧ isGlobal e.2.addr = false) →
    let read := fun (p : Place) => decodedLane p.win (codeAt s.mem p.win p.addr p.hi) (descAt s.mem p)
    ∃ t, exec .vectorComplete s = .next t ∧ t.ctx.vec.q = rest ∧ t.mem = s.mem ∧
      t.ctx.sys.lflags = task.elems.foldl (fun f e => f ||| (read e.2).2) s.ctx.sys.lflags ∧
      ∀ i : Fin 128,
        (∀ p, activeLane task vm s.ctx.vec i → (i.val, p) ∈ task.elems → (t.ctx.vec.v[vd])[i] = (read p).1) ∧
        (activeLane task vm s.ctx.vec i → (∀ e ∈ task.elems, e.1 ≠ i.val) → (t.ctx.vec.v[vd])[i] = task.fillv) ∧
        (¬ activeLane task vm s.ctx.vec i → (t.ctx.vec.v[vd])[i] = (s.ctx.vec.v[vd])[i])

/-- R73, R158, R168, R169: when a store through windows 1 to 8 to elements that do not overlap, nor a group descriptor of theirs,
completes, each element holds its lane's code; a nibble leaves the other one of its byte alone; LFLAGS takes the flags of the
encodings; every other byte of memory is as it was. The descriptors of windows 5 and 6 are those that stand at completion: the model's
choice (log 87), no rule says when they are read. -/
def Sys2Proof.Stmt.VectorStoreEncodes : Prop :=
  ∀ (vd : VReg) (task : VTask) (rest : List VTask) (s : State), s.ctx.vec.q = task :: rest →
    task.started = true → task.op = .store vd →
    (∀ e ∈ task.elems, 1 ≤ e.2.win ∧ e.2.win ≤ 8 ∧ isGlobal e.2.addr = false ∧ shownStores (dieOf s.cur) e.2.addr 4 s = []) →
    let width := fun (p : Place) => codeBytes p.win
    let nibble := fun (p : Place) => p.win = 6 ∨ p.win = 8
    let apart := fun (p r : Place) => p.addr + width p ≤ r.addr ∨ r.addr + width r ≤ p.addr
    let write := fun (e : Nat × Place) => encodedLane e.2.win (s.ctx.vec.lane vd e.1) (descAt s.mem e.2)
    task.elems.Pairwise (fun d e => apart d.2 e.2 ∨ (nibble d.2 ∧ nibble e.2 ∧ d.2.addr = e.2.addr ∧ d.2.hi ≠ e.2.hi)) →
    (∀ d ∈ task.elems, ∀ e ∈ task.elems, e.2.win = 5 ∨ e.2.win = 6 → d.2.addr + width d.2 ≤ e.2.desc ∨ e.2.desc + 4 ≤ d.2.addr) →
    s.mem.wf = true → s.fab.tombs = [] → s.fab.lost = 0 → s.fab.lostPages = [] →
    ∃ t, exec .vectorComplete s = .next t ∧ t.ctx.vec.q = rest ∧ t.ctx.vec.v = s.ctx.vec.v ∧ t.mem.wf = true ∧
      t.ctx.sys.lflags = task.elems.foldl (fun f e => f ||| (write e).2) s.ctx.sys.lflags ∧
      (∀ e ∈ task.elems, codeAt t.mem e.2.win e.2.addr e.2.hi = (write e).1) ∧
      (∀ e ∈ task.elems, nibble e.2 → (∀ d ∈ task.elems, d.2.addr = e.2.addr → d.2.hi = e.2.hi) →
        codeAt t.mem e.2.win e.2.addr (!e.2.hi) = codeAt s.mem e.2.win e.2.addr (!e.2.hi)) ∧
      (∀ a, (∀ e ∈ task.elems, a < e.2.addr ∨ e.2.addr + width e.2 ≤ a) → t.mem.byte a = s.mem.byte a)

/-- Together: VectorLoadDeliversWords, VectorStoreWritesWords, VectorLoadDecodes, VectorStoreEncodes. -/
def Obligations.VectorMemoryMovesItsWords : Prop :=
  Sys2Proof.Stmt.VectorLoadDeliversWords ∧ Sys2Proof.Stmt.VectorStoreWritesWords ∧ Sys2Proof.Stmt.VectorLoadDecodes ∧ Sys2Proof.Stmt.VectorStoreEncodes

/-- R141, R148: VSETW takes its place in the queue (log 88) and sets the width of the instructions after it to the least of its source,
read as unsigned, and the lanes of the core or gang; R160: VFENCE completes
with an empty queue, and the continuation's later releases cover the unit's stores; R149: VMPOPC enters the queue and the core stays
at it until the unit has counted (LaneResults), then rd takes the count. -/
def Sys2Proof.Stmt.VectorControlResults : Prop :=
  ∀ (x rd : Reg) (vm : VMask) (s u : State) (a : W64), readReg x s = .ok a →
    (s.ctx.vec.q.length < 16 → exec (.vsetw x) s = .next (retire 4 (setVec (fun v => { v with
      width := min a.toNat (16 * s.ctx.vec.gang) }) (popReg x (queued .setw a 0 [] s))))) ∧
    (16 ≤ s.ctx.vec.q.length → exec (.vsetw x) s = finish s wait) ∧
    (s.ctx.vec.q = [] → exec .vfence s = .next (retire 4 (coverOwn s))) ∧
    (s.ctx.vec.popc = none → s.ctx.vec.q.length < 16 →
      exec (.vmpopc rd vm) s = .next (setVec (fun v => { v with popc := some none }) (queued (.popc vm) 0 0 [] s))) ∧
    (∀ n, s.ctx.vec.popc = some (some n) → writeReg rd n (setVec (fun v => { v with popc := none }) s) = .ok u →
      exec (.vmpopc rd vm) s = .next (retire 4 u))

/-- R144, R146: GANG on a core that may lead g cores, with idle followers and an empty queue, makes a gang of g with width 16 g,
keeping lanes 0-15 and clearing the rest; UNGANG without a gang only takes its place in the queue (R141, log 88), and ends a gang with
an empty queue: lanes 0-15 stay. -/
def Sys2Proof.Stmt.GangsFormAndEnd : Prop :=
  ∀ (x : Reg) (s : State) (n : Nat), s.ctx.la = [] → readReg x s = .ok (w64 n) → plainSrc x = true →
    (n = 2 ∨ n = 4 ∨ n = 8 → s.ctx.vec.gang = 1 → (rankOf s.cur = 0 ∨ rankOf s.cur = 2 ∧ n = 2) →
      (n = 8 → (selfCoords s).2.2 % 2 = 0 ∧
        (vfFrame s s.vfid).holds (selfCoords s).1 (selfCoords s).2.1 ((selfCoords s).2.2 + 1) = true) →
      (∀ i, i < n - 1 → gangBusy (s.cur + 1 + i) s = false ∧ runsOn (s.cur + 1 + i) s = false) → s.ctx.vec.q = [] →
      ∃ t, exec (.gang x) s = .next t ∧ t.ctx.vec.gang = n ∧ t.ctx.vec.width = 16 * n ∧
        (∀ (r : VReg) (i : Fin 128), (t.ctx.vec.v[r])[i] = if i.val < 16 then (s.ctx.vec.v[r])[i] else 0) ∧
        (∀ (m : VMask) (i : Nat), i < 16 → (t.ctx.vec.vm[m]).getLsbD i = (s.ctx.vec.vm[m]).getLsbD i) ∧
        t.ctx.pc = pcAdd s.ctx.pc 4 ∧ t.mem = s.mem) ∧
    (s.ctx.vec.gang = 1 → s.ctx.vec.q.length < 16 → exec .ungang s = .next (retire 4 (queued .ungang 0 0 [] s))) ∧
    (s.ctx.vec.gang = 1 → 16 ≤ s.ctx.vec.q.length → exec .ungang s = finish s wait) ∧
    (s.ctx.vec.gang ≠ 1 → s.ctx.vec.q = [] → ∃ t, exec .ungang s = .next t ∧ t.ctx.vec.gang = 1 ∧ t.ctx.vec.width = 16 ∧
      ∀ (r : VReg) (i : Fin 128), i.val < 16 → (t.ctx.vec.v[r])[i] = (s.ctx.vec.v[r])[i])

/-- R143: when one rank of a cell is the only one whose next instruction may issue and its lane groups are free, a grant starts that
instruction: the first of its queue that has not started. A rank that has won the grant and cannot start yet keeps it. -/
def Sys2Proof.Stmt.VectorGrantStartsTheReadyRank : Prop :=
  ∀ (s : State), s.live = true → rankReady s.cur s = true →
    (∀ c, cellOf c = cellOf s.cur → c ≠ s.cur → rankReady c s = false) → s.ctx.vec.gang ∈ [1, 2, 4] →
    groupsHeld (cellOf s.cur) s + s.ctx.vec.gang ≤ 4 →
    (∀ w, waitingWinner (cellOf s.cur) s = some w → w = s.cur) →
    (∃ t, exec (.vectorGrant (cellOf s.cur)) s = .next t ∧ t.ctx.vec.q = startFirst s.ctx.vec.q ∧ t.mem = s.mem ∧
      t.ctx.g = s.ctx.g) ∧
    ∀ (cell w : Nat), waitingWinner cell s = some w → rankReady w s = false ∨ groupsFree w s = false →
      exec (.vectorGrant cell) s = .next s

/-- Together: VectorControlResults, GangsFormAndEnd, VectorGrantStartsTheReadyRank. -/
def Obligations.VectorControlAndGangs : Prop := Sys2Proof.Stmt.VectorControlResults ∧ Sys2Proof.Stmt.GangsFormAndEnd ∧ Sys2Proof.Stmt.VectorGrantStartsTheReadyRank

/-! ### The matrix engine -/

/-- What a claim of a free engine leaves in it (R269). -/
def Sys2Proof.Stmt.FreshEngine (x : MxState) : Prop :=
  x.plane0 = List.replicate 3072 0 ∧ x.plane1 = List.replicate 3072 0 ∧ x.fmt0 = .none ∧ x.fmt1 = .none ∧ x.active = false ∧
  x.q = false ∧ (∀ a c : Fin 64, (x.acc[a])[c] = 0) ∧ (∀ a : Fin 64, x.groups[a].gp = 0 ∧ x.groups[a].gi = 0) ∧ x.flags = 0 ∧
  x.tables = none ∧ x.qmi = [] ∧ x.qmo = [] ∧ x.queue = [] ∧ x.rows = []

/-- R269: MCLAIM of a free engine writes 0, makes the continuation its owner with the engine reset, and sets MCLAIMED; of an engine
that the continuation owns it writes 0, of another's 1, and changes nothing else. The last-result file and METER stay. A destination
that is a queue register takes the value as a push. The model numbers the claims of a cell (log 11). -/
def Sys2Proof.Stmt.MclaimTakesAFreeEngine : Prop :=
  ∀ (rd : Reg) (s : State),
    let cell := cellOf s.cur
    let n := ((s.claims.find? fun c => c.1 == cell).map (·.2)).getD 0
    let e : Engine := ⟨cell, s.ctx.claimKey, s.cur, { MxState.claimed with claim := (cell, n) }⟩
    let claimed : State := { s with
      engines := s.engines ++ [e]
      claims := (cell, n + 1) :: s.claims.filter fun c => c.1 != cell
      ctx := { s.ctx with st := { s.ctx.st with mclaimed := true } } }
    (∀ u, cellEngine s = none → writeReg rd 0 claimed = .ok u → exec (.mclaim rd) s = .next (retire 4 u)) ∧
    (∀ u, (ownEngine s).isSome = true → writeReg rd 0 s = .ok u → exec (.mclaim rd) s = .next (retire 4 u)) ∧
    (∀ u, (cellEngine s).isSome = true → ownEngine s = none → writeReg rd 1 s = .ok u →
      exec (.mclaim rd) s = .next (retire 4 u)) ∧
    (plainDst rd = true → s.ctx.la = [] → cellEngine s = none → ∃ t x, exec (.mclaim rd) s = .next t ∧
      ownEngine t = some x ∧ FreshEngine x.mx ∧ t.engines = s.engines ++ [x] ∧ (rd ≠ .z → held rd t = 0) ∧
      t.ctx.st = { s.ctx.st with mclaimed := true } ∧ t.ctx.g.cur.l = s.ctx.g.cur.l ∧ RegsKept rd s t ∧
      t.ctx.sys.meter = s.ctx.sys.meter ∧ t.mem = s.mem ∧ t.ctx.pc = pcAdd s.ctx.pc 4)

/-- The state with one more instruction in the queue of a cell's engine. -/
def Sys2Proof.Stmt.mxQueued (cell : Nat) (task : MxTask) (s : State) : State :=
  { s with engines := s.engines.map fun e =>
      if e.cell = cell then { e with mx := { e.mx with queue := e.mx.queue ++ [task] } } else e }

/-- An engine push may be made, with the state in which it is: earlier loads have their values, no fence holds it, every
acknowledgement owed has come and no AMO is pending (R205, R209, R212, R226). -/
def Sys2Proof.Stmt.PushReady (s u : State) : Prop :=
  ∃ w, fenceGate false true (fixReads s) = .ok w ∧ acksDone w = .ok u ∧ u.ctx.amo = none

/-- R270, R279, R282, R288, R289, R291: what the owner's matrix instructions without an operand in storage do. MFREE, MWAIT and MSTAT
complete once the engine is idle; MSWAP, MMODE and MZERO enter a queue of fewer than 8, once nothing keeps an engine push, as with no
fence, acknowledgement or AMO pending; an MZERO of no rows has no effect. -/
def Sys2Proof.Stmt.MatrixInstructionsWithoutOperands : Prop :=
  (∀ s : State, s.ctx.fences = [] → s.ctx.acks = [] → s.ctx.tr.pendAck = none → s.ctx.amo = none → PushReady s (fixReads s)) ∧
  ∀ (e : Engine) (s : State), ownEngine s = some e →
    (e.mx.queue = [] → e.mx.rows = [] →
      exec .mfree s = .next (retire 4 { s with
        engines := s.engines.filter fun x => x.cell ≠ e.cell
        ctx := { s.ctx with st := { s.ctx.st with mclaimed := false } } }) ∧
      (e.mx.qmo.length ≤ 64 → exec .mwait s = .next (retire 4 (acquireEngine s))) ∧
      (∀ rd u, writeReg rd (w64 e.mx.flags.toNat) { s with engines := s.engines.map fun x =>
          if x.cell = e.cell then { x with mx := { x.mx with flags := 0 } } else x } = .ok u →
        exec (.mstat rd) s = .next (retire 4 u))) ∧
    (∀ u, e.mx.queue.length < 8 → PushReady s u →
      exec .mswap s = .next (retire 4 (mxQueued e.cell .mswap u)) ∧
      (∀ r v, readReg r s = .ok v → v.toNat < 2 →
        exec (.mmode r) s = .next (retire 4 (popReg r (mxQueued e.cell (.mmode (v == 1)) u)))) ∧
      (∀ r1 r2 a c, readReg r1 s = .ok a → readReg r2 s = .ok c → a.toNat + c.toNat ≤ 64 → c ≠ 0 →
        exec (.mzero r1 r2) s =
          .next (retire 4 (popReg r2 (popReg r1 (mxQueued e.cell (.mzero a.toNat c.toNat) u)))))) ∧
    (∀ r1 r2 a, readReg r1 s = .ok a → readReg r2 s = .ok 0 → a.toNat ≤ 64 →
      exec (.mzero r1 r2) s = .next (retire 4 (popReg r2 (popReg r1 s))))

/-- The owner's engine takes one more instruction, whose operand of `stored` bytes in ranges `rs` passes resolution, release, charge
and STALE with its home core `core`; `u` is the state in which it is pushed (R272). -/
def Sys2Proof.Stmt.OperandPasses (e : Engine) (p : W64) (align last : Nat) (rs : List (Nat × Nat)) (stored : Nat) (s : State)
    (core : Nat) (u : State) : Prop :=
  ownEngine s = some e ∧ e.mx.queue.length < 8 ∧ ∃ w, mxOperand p align last rs stored s = .ok (core, w) ∧ PushReady w u

/-- The window scale of an operand: stored bytes to window bytes (R168). -/
def Sys2Proof.Stmt.scaleOf (w : Nat) : Nat :=
  if w = 1 ∨ w = 5 ∨ w = 7 then 4 else if w = 2 ∨ w = 3 ∨ w = 4 then 2 else if w = 6 ∨ w = 8 then 8 else 1

/-- The format a window gives a matrix operand (R275). -/
def Sys2Proof.Stmt.formatOf (w : Nat) : Option MxFmt :=
  if w = 1 then some .lns8 else if w = 2 then some .lns16 else if w = 5 then some .int8g else if w = 6 then some .int4g else none

/-- R272, R278, R280, R283, R290: MLDW, MSTREAM, MSTORE and MSCALE whose checks pass enter the engine's queue with the operands and the
core that R166 resolves; streams and stores of no rows have no effect. -/
def Sys2Proof.Stmt.MatrixInstructionsWithOperands : Prop :=
  ∀ (r1 r2 : Reg) (e : Engine) (s u : State) (core : Nat) (p v : W64), readReg r1 s = .ok p → readReg r2 s = .ok v →
    let b := ptrOff p / scaleOf (ptrWin p)
    let n := fld v.toNat 0 16
    let a0 := fld v.toNat 16 8
    let st := if fld v.toNat 32 8 = 0 then 1 else fld v.toNat 32 8
    let z := v.getLsbD 24
    let pb := v.getLsbD 25
    let f := fld v.toNat 0 8
    let c := fld v.toNat 8 8
    let pr := if z then e.mx.pred.zero a0 n else e.mx.pred
    (∀ fmt, isCoord p = true → formatOf (ptrWin p) = some fmt →
      OperandPasses e p (16 * scaleOf (ptrWin p)) (3072 * scaleOf (ptrWin p)) [(b, 3072)] 3072 s core u →
      exec (.mldw r1) s = .next (retire 4 (popReg r1 (mxQueued e.cell (.mldw core b fmt false) u)))) ∧
    (ownEngine s = some e → fld v.toNat 40 24 = 0 → fld v.toNat 26 6 = 0 → a0 + n ≤ 64 →
      (n = 0 → exec (.mstream r1 r2) s = .next (retire 4 (popReg r2 s))) ∧
      (n ≠ 0 → e.mx.pred.fmt ≠ .none → streamGroups s pr e.mx.pred.fmt a0 n pb = .ok () →
        (r1 = .z → e.mx.queue.length < 8 → PushReady s u →
          exec (.mstream r1 r2) s =
            .next (retire 4 (popReg r2 (mxQueued e.cell (.mstream none 0 st n a0 z pb 0 s.ctx.sys.evsel) u)))) ∧
        (r1 ≠ .z → isCoord p = true → formatOf (ptrWin p) = some e.mx.pred.fmt →
          OperandPasses e p (16 * scaleOf (ptrWin p)) (((n - 1) * st * 48 + 48) * scaleOf (ptrWin p))
            ((List.range n).map fun i => (b + i * st * 48, 48)) (n * 48) s core u →
          exec (.mstream r1 r2) s =
            .next (retire 4 (popReg r2 (mxQueued e.cell (.mstream (some core) b st n a0 z pb 0 s.ctx.sys.evsel) u)))))) ∧
    (ownEngine s = some e → fld v.toNat 16 48 = 0 → f + c ≤ 64 → isCoord p = true → ptrWin p ≤ 8 →
      (∀ i, i < c → (e.mx.pred.grp.getD (f + i) (0, 0)).1 = 0) →
      (c = 0 → exec (.mstore r1 r2) s = .next (retire 4 (popReg r2 (popReg r1 s)))) ∧
      (∀ d, c ≠ 0 → coordHead p s = .ok () → ptrOff p % 4 = 0 → ptrOff p + 256 * c ≤ winEnd (ptrWin p) →
        mstoreDesc p (256 * c) s = .ok d →
        OperandPasses e p 4 (256 * c) [(b, (ptrOff p + 256 * c + scaleOf (ptrWin p) - 1) / scaleOf (ptrWin p) - b)]
          (256 * c / scaleOf (ptrWin p)) s core u →
        ∃ t, exec (.mstore r1 r2) s = .next (retire 4 (popReg r2 (popReg r1 t))) ∧
          t.engines = (mxQueued e.cell (.mstore core (ptrOff p) (ptrWin p) f c d.1 d.2) u).engines.map (fun x =>
            if x.cell = e.cell then { x with mx := { x.mx with far := x.mx.far || dieOf core != dieOf s.cur } } else x) ∧
          t = { u with engines := t.engines })) ∧
    (ownEngine s = some e → e.mx.queue.length < 8 → fld p.toNat 40 24 = 0 → fld v.toNat 37 27 = 0 →
      fld p.toNat 37 3 ≤ 2 → fld p.toNat 20 4 = 0 → fld v.toNat 20 4 = 0 → (∀ g ∈ e.mx.pred.grp, g.1 = 0) →
      ∀ w, tableBases (fld p.toNat 0 37) (fld v.toNat 0 37) s = .ok w → PushReady w u →
      exec (.mscale r1 r2) s = .next (retire 4 (popReg r2 (popReg r1
        (mxQueued e.cell (.mscale (fld p.toNat 0 37) (fld v.toNat 0 37) (fld p.toNat 37 3)) u)))))

/-- Together: MclaimTakesAFreeEngine, MatrixInstructionsWithoutOperands, MatrixInstructionsWithOperands. -/
def Obligations.MatrixInstructionsAreAccepted : Prop := Sys2Proof.Stmt.MclaimTakesAFreeEngine ∧ Sys2Proof.Stmt.MatrixInstructionsWithoutOperands ∧ Sys2Proof.Stmt.MatrixInstructionsWithOperands

/-- No moved page, no lost page or die, no poison, no store that a die sees before its place: an engine reads and writes the bytes of
memory themselves. -/
def Sys2Proof.Stmt.RawStorage (s : State) : Prop :=
  s.fab.tombs = [] ∧ s.fab.lostPages = [] ∧ s.fab.lost = 0 ∧ s.mem.poison = [] ∧ s.mem.checks = [] ∧ s.mem.msgs = [] ∧
  ∀ e ∈ s.mem.stores, e.shown = none

/-- `n` stored bytes of a core's scratchpad from byte `b` on. -/
def Sys2Proof.Stmt.stored (core b n : Nat) (s : State) : List Byte := (List.range n).map fun i => s.mem.byte (scratchAddr core (b + i))

/-- The engine of a cell stands in a state, and its entry is the only one of that cell. -/
def Sys2Proof.Stmt.EngineIs (cell : Nat) (x : MxState) (s : State) : Prop :=
  ∃ e, s.engines.find? (fun e => e.cell == cell) = some e ∧ e.mx = x

/-- R278, R279, R280, R286: PLANE_LOAD puts the 3,072 stored bytes of an MLDW at the head of the queue, and its format, into the
shadow plane once no row of that plane is in flight; ROW_INJECTION sends the next row of the stream at the head, stamped with the
active plane, its format and Q, its bytes from storage or six words of qmi, once its cadence has passed. A stream that an MFREE
waits for takes only the words pushed before it and needs no room in qmo (R270). No byte of memory changes, but in the counter
area of an owner that is not running (R241). -/
def Obligations.MatrixEngineLoadsAndInjects : Prop :=
  ∀ (cell : Nat) (x : MxState) (rest : List MxTask) (s : State), EngineIs cell x s →
    (∀ core b f, RawStorage s → x.queue = .mldw core b f false :: rest → (∀ r ∈ x.rows, r.plane = x.active) →
      ∃ t y, exec (.planeLoad cell) s = .next t ∧ EngineIs cell y t ∧ t.mem = s.mem ∧ t.ctx = s.ctx ∧
        y.queue = .mldw core b f true :: rest ∧ y.active = x.active ∧ y.acc = x.acc ∧ y.groups = x.groups ∧ y.rows = x.rows ∧
        y.flags = x.flags ∧
        (if x.active then y.plane0 = stored core b 3072 s ∧ y.fmt0 = f ∧ y.plane1 = x.plane1 ∧ y.fmt1 = x.fmt1
         else y.plane1 = stored core b 3072 s ∧ y.fmt1 = f ∧ y.plane0 = x.plane0 ∧ y.fmt0 = x.fmt0)) ∧
    (∀ src b st n a0 z pb i sel, x.queue = .mstream src b st n a0 z pb i sel :: rest → i < n →
      (∀ core, src = some core → RawStorage s) → (src = none → 6 ≤ (if 0 < x.cut then x.cutWords else x.qmi.length)) →
      (∀ k, x.lastInj = some k → cyclesPast cell k (cadenceOf cell s) s = true) →
      (z = true → i = 0 → ∀ r ∈ x.rows, r.acc < a0 ∨ a0 + n ≤ r.acc) →
      (pb = true → x.cut = 0 → x.qmo.length + 32 * (x.rows.filter (·.deliver)).length + 32 ≤ 64) →
      ∃ t y bs, exec (.rowInjection cell) s = .next t ∧ EngineIs cell y t ∧ (s.sch.images = [] → t.mem = s.mem) ∧
        bs = (match src with
          | some core => stored core (b + i * st * 48) 48 s
          | none => (x.qmi.take 6).flatMap fun w => bytesOf 8 w.toNat) ∧
        y.qmi = (if src = none then x.qmi.drop 6 else x.qmi) ∧
        (∃ r, y.rows = x.rows ++ [r] ∧ r.acc = a0 + i ∧ r.plane = x.active ∧ r.fmt = (if x.active then x.fmt1 else x.fmt0) ∧
          r.bytes = bs ∧ (∀ q ∈ r.poison, q = false) ∧ r.deliver = pb ∧ r.q = x.q ∧ r.cyc = clusterClock cell s) ∧
        y.queue = (if i + 1 = n then rest else .mstream src b st n a0 z pb (i + 1) sel :: rest) ∧
        y.lastInj = some (clusterClock cell s) ∧
        y.plane0 = x.plane0 ∧ y.plane1 = x.plane1 ∧ y.qmo = x.qmo ∧ y.flags = x.flags ∧
        (∀ a c : Fin 64, (y.acc[a])[c] =
          if z = true ∧ i = 0 ∧ a0 ≤ a.val ∧ a.val < a0 + n then 0 else (x.acc[a])[c]))

/-- The `k`-th element of a K row in an LNS format, as stored codes. -/
def Sys2Proof.Stmt.lnsCode (is16 : Bool) (bs : List Byte) (k : Nat) : Nat :=
  if is16 then (bs.getD (2 * k) 0).toNat + 256 * (bs.getD (2 * k + 1) 0).toNat else (bs.getD k 0).toNat

/-- The products a row adds to column `j` (R281): one for each element of K(j) that is not zero on either side. -/
def Sys2Proof.Stmt.productsOf (is16 q : Bool) (row plane : List Byte) (j : Nat) : List (W32 × LFlags) :=
  let per := if is16 then 2 else 1
  let ks := if q then (List.range (12 / per)).map (12 / per * (j / 16) + ·) else List.range (48 / per)
  ks.filterMap fun k => lnsProduct is16 (lnsCode is16 row k) (lnsCode is16 (plane.drop (48 * j)) k)

/-- R91, R281, R287, R293: 32 cycles after its injection a row of an LNS stream is complete: each column of its accumulator row takes its
products one by one, in some order, and the other rows stay. A delivering row then leaves its 64 values as 32 words in qmo and its
accumulator row +0. That a sum is a fold of additions, each rounded, is the model's choice (log 11). -/
def Sys2Proof.Stmt.LnsRowAddsItsProducts : Prop :=
  ∀ (cell : Nat) (x : MxState) (row : MxRow) (rest : List MxRow) (is16 : Bool) (s : State), EngineIs cell x s →
    x.rows = row :: rest → cyclesPast cell row.cyc 32 s = true → row.fmt = (if is16 then .lns16 else .lns8) →
    (∀ p ∈ row.poison ++ x.poison0 ++ x.poison1, p = false) → row.bytes.length = 48 → x.plane0.length = 3072 →
    x.plane1.length = 3072 → (row.deliver = true → x.qmo.length + 32 ≤ 64) →
    let plane := if row.plane then x.plane1 else x.plane0
    let a : Fin 64 := Fin.ofNat 64 row.acc
    ∃ t y, exec (.rowComplete cell) s = .next t ∧ EngineIs cell y t ∧ t.mem = s.mem ∧ t.ctx = s.ctx ∧ y.rows = rest ∧
      y.queue = x.queue ∧ y.groups = x.groups ∧ (∀ b : Fin 64, b ≠ a → y.acc[b] = x.acc[b]) ∧
      ∃ sums : Fin 64 → W32,
        (∀ j : Fin 64, ∃ l : List W32, l.Perm ((productsOf is16 row.q row.bytes plane j).map Prod.fst) ∧
          sums j = l.foldl accAdd (x.acc[a])[j]) ∧
        (row.deliver = false → y.qmo = x.qmo ∧ ∀ j : Fin 64, (y.acc[a])[j] = sums j) ∧
        (row.deliver = true → (∀ j : Fin 64, (y.acc[a])[j] = 0) ∧ y.qmo = x.qmo ++ (List.range 32).map fun w =>
          w64 ((sums (Fin.ofNat 64 (2 * w))).toNat + 2 ^ 32 * (sums (Fin.ofNat 64 (2 * w + 1))).toNat))

/-- What an accumulator row of an INT mode keeps (R284): position and index of its open group, the sum of its activation codes, and for
each column the sum of products, the sum of weight codes, and the accumulator. -/
structure Sys2Proof.Stmt.OpenGroup where
  gp : Nat
  gi : Nat
  qa : Int
  s : Fin 64 → Int
  qw : Fin 64 → Int
  acc : Fin 64 → W32

/-- An accumulator row of an engine as such. -/
def Sys2Proof.Stmt.openGroup (x : MxState) (a : Fin 64) : OpenGroup :=
  let g := x.groups[a]
  ⟨g.gp, g.gi, g.sa, fun j => g.s.getD j 0, fun j => g.sw.getD j 0, fun j => (x.acc[a])[j]⟩

/-- Elements `ks` of a row join its group; when that makes `size` of them the group closes (R284): `act` and `wgt` give the zero
point and scale of a descriptor of each table. -/
def Sys2Proof.Stmt.OpenGroup.stream (size row : Nat) (act wgt : Nat → Nat × Nat) (x : Nat → Int) (w : Fin 64 → Nat → Int)
    (g : OpenGroup) (ks : List Nat) : OpenGroup :=
  let qa := g.qa + (ks.map x).sum
  let s := fun j => g.s j + (ks.map fun k => x k * w j k).sum
  let qw := fun j => g.qw j + (ks.map (w j)).sum
  if g.gp + ks.length = size then
    let da := act (64 * g.gi + row)
    { gp := 0
      gi := g.gi + 1
      qa := 0
      s := fun _ => 0
      qw := fun _ => 0
      acc := fun j =>
        let dw := wgt (64 * g.gi + j)
        let part : Int := s j - dw.1 * qa - da.1 * qw j + size * da.1 * dw.1
        let scale := (mulFp (unpack fp16 da.2) (unpack fp16 dw.2)).1
        accAdd (g.acc j) (pack32 (mulFp (intFp part) scale)).1 }
  else { g with gp := g.gp + ks.length, qa := qa, s := s, qw := qw }

/-- Element `k` of a row or column of bytes, in INT8G or INT4G (R70, R275). -/
def Sys2Proof.Stmt.intCode (is4 : Bool) (bs : List Byte) (k : Nat) : Int :=
  if is4 then ((bs.getD (k / 2) 0).toNat / 16 ^ (k % 2) % 16 : Nat) else ((bs.getD k 0).toNat : Int)

/-- Zero point and scale of the descriptor at an index of a table of a VF (R71, R284). -/
def Sys2Proof.Stmt.tableEntry (is4 : Bool) (vf tab : Nat) (s : State) (i : Nat) : Nat × Nat :=
  let core := (vfFrame s vf).cell (tab / 2 ^ 34 % 8) (tab / 2 ^ 30 % 16) (tab / 2 ^ 26 % 16) * 4 + tab / 2 ^ 24 % 4
  let d := ofBytes (stored core (tab % 2 ^ 20 + 4 * i) 4 s)
  (zeroPoint (if is4 then 6 else 5) d, d % 2 ^ 16)

/-- R92, R284, R287, R293: 32 cycles after its injection a row of an INT8G or INT4G stream is complete: its elements, 48 or twice
48, have joined the open group of its accumulator row, and each group that they fill has closed: to every column its exact partial
times the product of the two scales, rounded, has been added. The other rows stay; a delivering row leaves its values in qmo and
+0. -/
def Sys2Proof.Stmt.IntRowsCloseTheirGroups : Prop :=
  ∀ (cell : Nat) (x : MxState) (row : MxRow) (rest : List MxRow) (is4 : Bool) (e : Engine) (wt at' code : Nat) (s : State),
    s.engines.find? (fun e => e.cell == cell) = some e → e.mx = x →
    x.rows = row :: rest → cyclesPast cell row.cyc 32 s = true → row.fmt = (if is4 then .int4g else .int8g) →
    x.tables = some (wt, at', code) → code ≤ 2 → RawStorage s →
    let a : Fin 64 := Fin.ofNat 64 row.acc
    let g := x.groups[a]
    (∀ p ∈ row.poison ++ x.poison0 ++ x.poison1 ++ g.poison, p = false) → row.bytes.length = 48 → x.plane0.length = 3072 →
    x.plane1.length = 3072 → g.s.length = 64 → g.sw.length = 64 → g.poison.length = 64 →
    (row.deliver = true → x.qmo.length + 32 ≤ 64) →
    let plane := if row.plane then x.plane1 else x.plane0
    let take := OpenGroup.stream (if code = 0 then 48 else if code = 1 then 96 else 192) row.acc (tableEntry is4 e.owner.vf at' s)
      (tableEntry is4 e.owner.vf wt s) (intCode is4 row.bytes) (fun j => intCode is4 (plane.drop (48 * j)))
    let one := take (openGroup x a) (List.range 48)
    let r := if is4 then take one ((List.range 48).map (48 + ·)) else one
    ∃ t y, exec (.rowComplete cell) s = .next t ∧ EngineIs cell y t ∧ t.mem = s.mem ∧ t.ctx = s.ctx ∧ y.rows = rest ∧
      y.queue = x.queue ∧ (∀ b : Fin 64, b ≠ a → y.acc[b] = x.acc[b] ∧ y.groups[b] = x.groups[b]) ∧
      (row.deliver = false → y.qmo = x.qmo ∧ openGroup y a = r) ∧
      (row.deliver = true → openGroup y a = { r with acc := fun _ => 0 } ∧ y.qmo = x.qmo ++ (List.range 32).map fun w =>
        w64 ((r.acc (Fin.ofNat 64 (2 * w))).toNat + 2 ^ 32 * (r.acc (Fin.ofNat 64 (2 * w + 1))).toNat))

/-- Together: LnsRowAddsItsProducts, IntRowsCloseTheirGroups. -/
def Obligations.LnsRowsAddTheirProducts : Prop := Sys2Proof.Stmt.LnsRowAddsItsProducts ∧ Sys2Proof.Stmt.IntRowsCloseTheirGroups

/-- The code that an MSTORE writes of an accumulator through windows 1 to 8 for a zero point and scale (R290). -/
def Sys2Proof.Stmt.mstoreCodeOf (w : Nat) (x : W32) (z sc : Nat) : Nat :=
  match w with
  | 1 => (log8 false x).1
  | 2 => (log16 false x).1
  | 3 => (narrow32 fp16 x).1
  | 4 => (narrow32 bf16 x).1
  | 5 => (groupEncode 255 z sc x).1
  | 6 => (groupEncode 15 z sc x).1
  | 7 => (intStore 8 x).1
  | _ => (intStore 4 x).1

/-- Window bytes for each stored byte of windows 1 to 8 (R168). -/
def Sys2Proof.Stmt.scaleOfWindow (w : Nat) : Nat := if w = 2 ∨ w = 3 ∨ w = 4 then 2 else if w = 6 ∨ w = 8 then 8 else 4

/-- R72, R73, R168, R169, R273, R290: an MSTORE through windows 1 to 8 at the head of the queue, no row in flight, writes each element's
code at its place, of windows 5 and 6 with the descriptor of its group as read at issue; a nibble leaves the other one of its byte
alone, MXFLAGS only gains bits, and every other byte of memory reads as before. -/
def Sys2Proof.Stmt.MstoreEncodes : Prop :=
  ∀ (cell : Nat) (x : MxState) (core off w f c code : Nat) (descs : List (Nat × Nat × Bool)) (rest : List MxTask) (s : State),
    EngineIs cell x s → x.queue = .mstore core off w f c code descs :: rest → x.rows = [] → RawStorage s → s.mem.wf = true →
    f + c ≤ 64 → off % 4 = 0 → 1 ≤ w → w ≤ 8 → code ≤ 2 →
    let size := if code = 0 then 48 else if code = 1 then 96 else 192
    let place := fun (i : Nat) => scratchAddr core ((off + 4 * i) / scaleOfWindow w)
    let high := fun (i : Nat) => decide ((off / 4 + i) % 2 = 1)
    let desc := fun (i : Nat) => descs.getD ((off / 4 + i) / size - off / 4 / size) (0, 0, false)
    ∃ t fl, exec (.matrixInstructionComplete cell) s = .next t ∧ t.mem.wf = true ∧
      EngineIs cell { x with queue := rest, cut := x.cut - 1, flags := x.flags ||| fl } t ∧
      (∀ r j : Fin 64, f ≤ r.val → r.val < f + c →
        let i := 64 * (r.val - f) + j.val
        codeAt t.mem w (place i) (high i) = mstoreCodeOf w (x.acc[r])[j] (desc i).1 (desc i).2.1) ∧
      (w = 6 ∨ w = 8 → ∀ i, i < 64 * c → (∀ k, k < 64 * c → place k = place i → k = i) →
        codeAt t.mem w (place i) (!high i) = codeAt s.mem w (place i) (!high i)) ∧
      ∀ a, (∀ i, i < 64 * c → a < place i ∨ place i + codeBytes w ≤ a) → t.mem.byte a = s.mem.byte a

/-- R273, R279, R282, R289, R290: MATRIX_INSTRUCTION_COMPLETE finishes the instruction at the head of the queue that is no stream: an
MLDW that has loaded, MSWAP at once, the others once no row is in flight. An MSTORE through window 0 writes its rows' raw values in
order, and every other byte of memory reads as before. -/
def Sys2Proof.Stmt.MatrixInstructionFinishes : Prop :=
  ∀ (cell : Nat) (x : MxState) (task : MxTask) (rest : List MxTask) (s : State), EngineIs cell x s → x.queue = task :: rest →
    (∀ core b f, task = .mldw core b f true → ∃ t, exec (.matrixInstructionComplete cell) s = .next t ∧ t.mem = s.mem ∧
      EngineIs cell { x with queue := rest, cut := x.cut - 1 } t) ∧
    (task = .mswap → ∃ t, exec (.matrixInstructionComplete cell) s = .next t ∧ t.mem = s.mem ∧
      EngineIs cell { x with queue := rest, cut := x.cut - 1, active := !x.active } t) ∧
    (x.rows = [] →
      (∀ f c, task = .mzero f c → ∃ t y, exec (.matrixInstructionComplete cell) s = .next t ∧ t.mem = s.mem ∧
        EngineIs cell y t ∧ y.queue = rest ∧ ∀ a : Fin 64,
          (f ≤ a.val ∧ a.val < f + c → (∀ j : Fin 64, (y.acc[a])[j] = 0) ∧ y.groups[a].gp = 0 ∧ y.groups[a].gi = 0) ∧
          (¬ (f ≤ a.val ∧ a.val < f + c) → y.acc[a] = x.acc[a] ∧ y.groups[a] = x.groups[a])) ∧
      (∀ q, task = .mmode q → ∃ t, exec (.matrixInstructionComplete cell) s = .next t ∧ t.mem = s.mem ∧
        EngineIs cell { x with queue := rest, cut := x.cut - 1, q := q } t) ∧
      (∀ w a c, task = .mscale w a c → ∃ t, exec (.matrixInstructionComplete cell) s = .next t ∧ t.mem = s.mem ∧
        EngineIs cell { x with queue := rest, cut := x.cut - 1, tables := some (w, a, c) } t) ∧
      (∀ core off f c d, task = .mstore core off 0 f c d [] → RawStorage s → s.mem.wf = true → f + c ≤ 64 →
        ∃ t, exec (.matrixInstructionComplete cell) s = .next t ∧ t.mem.wf = true ∧
          EngineIs cell { x with queue := rest, cut := x.cut - 1 } t ∧
          (∀ r j : Fin 64, f ≤ r.val → r.val < f + c →
            t.mem.bytes (scratchAddr core (off + 4 * (64 * (r.val - f) + j.val))) 4 = bytesOf 4 ((x.acc[r])[j]).toNat) ∧
          (∀ a, a < scratchAddr core off ∨ scratchAddr core off + 256 * c ≤ a → t.mem.byte a = s.mem.byte a)))

/-- Together: MatrixInstructionFinishes, MstoreEncodes. -/
def Obligations.MatrixInstructionsFinish : Prop := Sys2Proof.Stmt.MatrixInstructionFinishes ∧ Sys2Proof.Stmt.MstoreEncodes

/-! ### Copies, rings, barriers and groups -/

/-- R250, R264: a command that the checks of a push accept joins its core's FIFO with its words, nothing moved yet, and one more command
is outstanding; CPQT then writes 0. With the FIFO full CPQT writes 1 and pushes nothing. No byte of memory changes. -/
def Obligations.CopyCommandsArePushed : Prop :=
  ∀ (q : Fin 8) (rd : Reg) (s : State),
    (∀ t, copyPush q s = .ok (some t) →
      exec (.cpq q) s = .next (retire 4 t) ∧ (∀ u, writeReg rd 0 t = .ok u → exec (.cpqt rd q) s = .next (retire 4 u)) ∧
      t.ctx.qs.outstanding = s.ctx.qs.outstanding + 1 ∧ (∀ a, t.mem.byte a = s.mem.byte a) ∧
      ∃ c, t.cp.cmds = s.cp.cmds ++ [c] ∧ c.core = s.cur ∧ c.owner = s.ctx.claimKey ∧ c.place = .fifo ∧ c.chunk = 0 ∧
        c.status = 0 ∧ c.moving = none ∧ c.w2 = s.ctx.g.m[4 * q.val + 2] ∧ c.w3 = s.ctx.g.m[4 * q.val + 3]) ∧
    (∀ u, copyPush q s = .ok none → writeReg rd 1 s = .ok u → exec (.cpqt rd q) s = .next (retire 4 u))

/-- A side of a copy command that is raw scratchpad of one core from byte `b` on, its first `len` bytes in bounds. -/
def Sys2Proof.Stmt.RawSide (d : CopySide) (core b len : Nat) : Prop :=
  d.coord = true ∧ d.win = 0 ∧ d.core = core ∧ d.base = b ∧ d.lo ≤ 0 ∧ len ≤ d.hi

/-- The pusher of a command is the continuation on the acting core. -/
def Sys2Proof.Stmt.PusherActs (c : CopyCmd) (s : State) : Prop :=
  c.svc = false ∧ c.area = none ∧ s.live = true ∧ s.ctx.info.key = some c.owner

/-- An earlier command of the same pusher still has credits to give to the same barrier, and gives them first (R256). -/
def Sys2Proof.Stmt.EarlierCredits (c : CopyCmd) (s : State) : Prop :=
  ∃ d ∈ s.cp.cmds, d.id < c.id ∧ d.owner = c.owner ∧ d.svc = c.svc ∧ cmdKind d.w2 = 1 ∧
    forward s d.target = forward s c.target ∧ d.place ≠ .done

/-- R251, R252, R254, R256: between raw scratchpads, COPY_CHUNK_START reads the source bytes of the next chunk of the command whose turn
it is and spends one BUDGET unit; COPY_CHUNK_DONE puts exactly those bytes at the destination, credits the barrier of a KIND 1
command with what it has kept and their number, each a credit of its own, or keeps that credit behind an earlier command's, and leaves
every other byte as it was. -/
def Sys2Proof.Stmt.CopyChunksMoveTheirBytes : Prop :=
  ∀ (c : CopyCmd) (s : State) (cs bs cd bd : Nat), cmdOf c.id s = some c → c.peer = none → c.slot = none →
    cmdKind c.w2 ≠ 2 → RawSide c.src cs bs (cmdLen c.w2) → RawSide c.dst cd bd (cmdLen c.w2) → RawStorage s →
    4096 * c.chunk < cmdLen c.w2 →
    let lo := 4096 * c.chunk
    let n := min 4096 (cmdLen c.w2 - lo)
    (∀ engine q left, (∀ d ∈ s.cp.cmds, clusterOf (cellOf d.core) = engine → d.moving = none) →
      nextChunk engine s = some (c, q, left) → (c.chunk ≠ 0 → ∃ held, c.place = .running held) →
      ∃ t c', exec (.copyChunkStart engine) s = .next t ∧ t.mem = s.mem ∧ cmdOf c.id t = some c' ∧ c'.chunk = c.chunk ∧
        (c'.moving.map fun l => l.map MoveByte.b) = some (stored cs (bs + lo) n s) ∧
        (∀ l, c'.moving = some l → ∀ b ∈ l, b.bad = false) ∧ (∃ held, c'.place = .running held) ∧
        budgetOf c.owner.vf t = budgetOf c.owner.vf s - 1) ∧
    (∀ l, c.moving = some l → l.length = n → (∀ b ∈ l, b.bad = false ∧ b.gran = none) → s.mem.wf = true → PusherActs c s →
      ∃ t w c', exec (.copyChunkDone c.id) s = .next t ∧ w.fab = s.fab ∧
        (cmdKind c.w2 = 1 → ¬ EarlierCredits c s →
          t.mem = (barCredits c.target (c.credit ++ [n]) w).mem ∧ c'.credit = []) ∧
        (cmdKind c.w2 = 1 → EarlierCredits c s → t.mem = w.mem ∧ c'.credit = c.credit ++ [n]) ∧
        (cmdKind c.w2 ≠ 1 → t.mem = w.mem) ∧
        w.mem.bytes (scratchAddr cd (bd + lo)) n = l.map MoveByte.b ∧
        (∀ a, a < scratchAddr cd (bd + lo) ∨ scratchAddr cd (bd + lo) + n ≤ a → w.mem.byte a = s.mem.byte a) ∧
        w.mem.wf = true ∧ cmdOf c.id t = some c' ∧ c'.chunk = c.chunk + 1 ∧ c'.moving = none ∧ c'.status = c.status)

/-- R254, R255, R258, R265: COPY_COMPLETION of a command that has ended, or moved all its chunks, takes it away: a KIND 3 command, or one
whose status is not 0, leaves its record in qcs; UI appends w3 to the pending interrupts; one command fewer is outstanding. The slot
of a KIND 2 command fills. A KIND 1 command first credits its barrier with what it has kept, chunk by chunk, and, ended early, with what
did not move. -/
def Sys2Proof.Stmt.CopyCompletionsDeliver : Prop :=
  ∀ (c : CopyCmd) (held : Bool) (s : State), cmdOf c.id s = some c → c.place = .running held → c.moving = none →
    (2 ≤ c.status ∨ cmdLen c.w2 ≤ 4096 * c.chunk) → PusherActs c s →
    (cmdKind c.w2 = 1 ∨ cmdKind c.w2 = 3 → ∀ d ∈ s.cp.cmds, c.id ≤ d.id) → (cmdKind c.w2 ≠ 1 → c.credit = []) →
    (∀ d ∈ s.cp.cmds, d.id ≠ c.id → d.credit = []) →
    let record : W64 := w64 (c.status * 2 ^ 60 + (if c.status ∈ [1, 2, 4] then c.badChunk % 2 ^ 20 else 0) * 2 ^ 40 +
      c.w3.toNat % 2 ^ 40)
    let delivered : Queues := { s.ctx.qs with
      outstanding := s.ctx.qs.outstanding - 1
      qcs := s.ctx.qs.qcs ++ (if cmdKind c.w2 = 3 ∨ c.status ≠ 0 then [record] else [])
      qcsScope := s.ctx.qs.qcsScope ++ (if cmdKind c.w2 = 3 ∨ c.status ≠ 0 then [cmdScope c.w2] else [])
      pendUi := s.ctx.qs.pendUi ++ (if cmdUi c.w2 then [c.w3] else [])
      pendUiScope := s.ctx.qs.pendUiScope ++ (if cmdUi c.w2 then [cmdScope c.w2] else []) }
    let rest := cmdLen c.w2 - 4096 * c.chunk
    let unpaid := c.credit ++ (if rest = 0 then [] else [rest])
    (c.slot = none → exec (.copyCompletion c.id) s = .next
      (let u := if cmdKind c.w2 = 1 then barCredits (forward s c.target) unpaid s else s
       { u with
         ctx := { u.ctx with qs := delivered }
         cp := { u.cp with cmds := u.cp.cmds.filter fun d => d.id ≠ c.id } })) ∧
    (∀ f, c.slot = some f → c.peer = none → f + 1 < 2 ^ 32 → s.cp.cmds = [c] → s.fab.tombs = [] → cmdKind c.w2 = 2 → s.mem.wf = true →
      objGet c.target 0 s = w32 f →
      ∃ t, exec (.copyCompletion c.id) s = .next t ∧ t.ctx.qs = delivered ∧ t.cp.cmds = [] ∧ objGet c.target 0 t = w32 (f + 1) ∧
        t.cp.filled = s.cp.filled ++ [(c.target, f, cmdScope c.w2)] ∧
        ∀ a, a < c.target ∨ c.target + 4 ≤ a → t.mem.byte a = s.mem.byte a)

/-- Together: CopyChunksMoveTheirBytes, CopyCompletionsDeliver. -/
def Obligations.CopyChunksMoveAndComplete : Prop := Sys2Proof.Stmt.CopyChunksMoveTheirBytes ∧ Sys2Proof.Stmt.CopyCompletionsDeliver

/-- R257, R259: a ring instruction whose access to the header passes completes. RINIT of a valid header zeroes its four indices; RAWAIT
takes the oldest filled slot and gives its pointer; RREL, a release, releases the oldest taken slot; RPEEK gives the pointer RAWAIT
would give, or all ones. Every byte outside the header is as it was. -/
def Obligations.RingInstructionsActOnTheHeader : Prop :=
  ∀ (rd r : Reg) (s s1 : State) (h : W64) (a : Nat), readReg r s = .ok h → s.mem.wf = true →
    (objAccess h 32 s = .ok (a, s1) →
      (ringOk a s = true → ∃ u, exec (.rinit r) s = .next (retire 4 (popReg r u)) ∧ u.mem.bytes a 16 = List.replicate 16 0 ∧
        (∀ x, x < a ∨ a + 16 ≤ x → u.mem.byte x = s.mem.byte x) ∧ u.ctx.g = s.ctx.g) ∧
      (ringTaken a s ≠ ringFilled a s → ∃ u, objGet a 12 u = ringTaken a s + 1 ∧
        (∀ x, x < a + 12 ∨ a + 16 ≤ x → u.mem.byte x = s.mem.byte x) ∧ u.ctx.g = s.ctx.g ∧
        ∀ w, writeReg rd (slotPtr a (ringTaken a s).toNat s) u = .ok w →
          exec (.rawait rd r) s = .next (retire 4 (popReg r w))) ∧
      (∀ w, writeReg rd (if ringTaken a s = ringFilled a s then BitVec.allOnes 64 else slotPtr a (ringTaken a s).toNat s) s1 =
          .ok w → exec (.rpeek rd r) s = .next (retire 4 (popReg r w))) ∧ (∀ x, s1.mem.byte x = s.mem.byte x)) ∧
    (∀ s0, releasePkg s = .ok s0 → objAccess h 32 s0 = .ok (a, s1) →
      ∃ u, exec (.rrel r) s = .next (retire 4 (popReg r u)) ∧ u.ctx.g = s.ctx.g ∧
        objGet a 8 u = (if ringReleased a s = ringTaken a s then ringReleased a s else ringReleased a s + 1) ∧
        (∀ x, x < a + 8 ∨ a + 12 ≤ x → u.mem.byte x = s.mem.byte x))

/-- Generation, arrivals pending, arrivals expected and transfer bytes pending of a barrier at a storage address (R260). -/
def Sys2Proof.Stmt.BarrierHolds (a : Nat) (gen pending expected bytes : W32) (s : State) : Prop :=
  objGet a 0 s = gen ∧ objGet a 4 s = pending ∧ objGet a 8 s = expected ∧ objGet a 12 s = bytes

/-- The barrier after a change of its pending counts: a phase with nothing pending completes, and the next expects all again (R260). -/
def Sys2Proof.Stmt.BarrierBecomes (a : Nat) (gen pending expected bytes : W32) (s : State) : Prop :=
  if pending = 0 ∧ bytes = 0 then BarrierHolds a (gen + 1) expected expected 0 s
  else BarrierHolds a gen pending expected bytes s

/-- R260, R261, R328, R329: BINIT sets a barrier; BARV, a release, and GARV on a group's barrier arrive and give the generation before
the arrival; BEXP adds transfer bytes; BWAIT and GWAIT complete on a finished phase, BTEST says whether it is, as acquires. Every byte
outside the object is as it was. GRANK and GSIZE read the group: members below the thread, and all of them; all ones elsewhere. -/
def Obligations.BarrierAndGroupInstructions : Prop :=
  ∀ (rd r r2 : Reg) (s s1 : State) (b v : W64) (a : Nat), readReg r2 s = .ok v → s.mem.wf = true →
    let kept := fun (u : State) => (∀ x, x < a ∨ a + 16 ≤ x → u.mem.byte x = s.mem.byte x) ∧ u.ctx.g = s.ctx.g
    let done := 0 ≤ (objGet a 0 s - v.setWidth 32).toInt
    (readReg r s = .ok b → objAccess b 16 s = .ok (a, s1) →
      (v.toNat % 2 ^ 32 ≠ 0 → v.toNat % 2 ^ 32 < 2 ^ 31 → ∃ u, exec (.binit r r2) s = .next (retire 4 (popReg r2 (popReg r u))) ∧
        BarrierHolds a 0 (v.setWidth 32) (v.setWidth 32) 0 u ∧ kept u) ∧
      (∃ u, exec (.bexp r r2) s = .next (retire 4 (popReg r2 (popReg r u))) ∧ kept u ∧
        BarrierBecomes a (objGet a 0 s) (objGet a 4 s) (objGet a 8 s) (objGet a 12 s + v.setWidth 32) u) ∧
      (∀ w, done → writeReg rd ((objGet a 0 s).setWidth 64) (acquirePkg s1) = .ok w →
        exec (.bwait rd r r2) s = .next (retire 4 (popReg r2 (popReg r w)))) ∧
      (∀ w, done → writeReg rd 1 (acquirePkg s1) = .ok w →
        exec (.btest rd r r2) s = .next (retire 4 (popReg r2 (popReg r w)))) ∧
      (∀ w, ¬ done → writeReg rd 0 s1 = .ok w → exec (.btest rd r r2) s = .next (retire 4 (popReg r2 (popReg r w)))) ∧
      kept (acquirePkg s1) ∧ kept s1) ∧
    (∀ s0, releasePkg s = .ok s0 → objAccess b 16 s0 = .ok (a, s1) →
      ∃ u, kept u ∧ BarrierBecomes a (objGet a 0 s) (objGet a 4 s - 1) (objGet a 8 s) (objGet a 12 s) u ∧
        (∀ w, readReg r s = .ok b → writeReg rd ((objGet a 0 s).setWidth 64) u = .ok w →
          exec (.barv rd r) s = .next (retire 4 (popReg r w))) ∧
        (∀ w r3 g, readReg r3 s = .ok g → memberBarrier g s = .ok b → writeReg rd ((objGet a 0 s).setWidth 64) u = .ok w →
          exec (.garv rd r3) s = .next (retire 4 (popReg r3 w)))) ∧
    (∀ r3 g, readReg r3 s = .ok g → memberBarrier g s = .ok b → objAccess b 16 s = .ok (a, s1) → done →
      exec (.gwait r3 r2) s = .next (retire 4 (popReg r2 (popReg r3 (acquirePkg s1))))) ∧
    (readReg r s = .ok b → b.toNat < 256 → ∀ w,
      (∀ l x, ownLaunch s = some l → l.groups[b.toNat]? = some x →
        (isMember b.toNat s = true →
          writeReg rd (w64 ((List.range (min s.ctx.sys.gthread.toNat l.threads)).countP fun i => bitAt x.bitmap i)) s = .ok w →
          exec (.grank rd r) s = .next (retire 4 (popReg r w))) ∧
        (writeReg rd (w64 x.count) s = .ok w → exec (.gsize rd r) s = .next (retire 4 (popReg r w)))) ∧
      (isMember b.toNat s = false → writeReg rd (BitVec.allOnes 64) s = .ok w →
        exec (.grank rd r) s = .next (retire 4 (popReg r w))) ∧
      (groupOf b.toNat s = none → writeReg rd (BitVec.allOnes 64) s = .ok w →
        exec (.gsize rd r) s = .next (retire 4 (popReg r w))))

/-! ### Events and tasks -/

/-- An event holds these; nothing else about any event differs from `s` (R330). -/
def Sys2Proof.Stmt.EventBecomes (vf name count : Nat) (latch : Bool) (waiters : List Nat) (s u : State) : Prop :=
  evOf vf name u = ⟨vf, name, count, latch, waiters⟩ ∧ ∀ v n, (v, n) ≠ (vf, name) → evOf v n u = evOf v n s

/-- R330-R332: EVSIG, a release, adds to an event's count, and the oldest waiters each take one and become runnable; EVSET, a release,
sets the latch and wakes all; EVCLR clears both; EVTRY takes the latch without clearing it, or one count, as an acquire, and says
whether it did; EVWAIT writes outstanding lookahead results, ends their windows (R33), and completes at once where EVTRY would write
1. All set TDMASK bit 12. No byte of memory changes. -/
def Sys2Proof.Stmt.EventInstructions : Prop :=
  ∀ (rd r r2 : Reg) (s : State) (a b : W64), readReg r s = .ok a → readReg r2 s = .ok b →
    let name := a.toNat % 2 ^ 16
    let vf := s.ctx.sys.vfid
    let e := evOf vf name s
    let c := min (e.count + b.toNat % 2 ^ 32) (2 ^ 32 - 1)
    let k := min c e.waiters.length
    (∀ s1, releasePkg s = .ok s1 →
      (∃ u, EventBecomes vf name (c - k) e.latch (e.waiters.drop k) s u ∧ u.ctx.sys.tdmask = s.ctx.sys.tdmask ||| 0x1000 ∧
        (∀ x, u.mem.byte x = s.mem.byte x) ∧ exec (.evsig r r2) s =
          .next (retire 4 (popReg r2 (popReg r (wakeAll vf (e.waiters.take k) u))))) ∧
      (∃ u, EventBecomes vf name e.count true [] s u ∧ u.ctx.sys.tdmask = s.ctx.sys.tdmask ||| 0x1000 ∧
        (∀ x, u.mem.byte x = s.mem.byte x) ∧ exec (.evset r) s = .next (retire 4 (popReg r (wakeAll vf e.waiters u))))) ∧
    (∃ u, EventBecomes vf name 0 false e.waiters s u ∧ u.ctx.sys.tdmask = s.ctx.sys.tdmask ||| 0x1000 ∧ u.mem = s.mem ∧
      exec (.evclr r) s = .next (retire 4 (popReg r u))) ∧
    (e.latch = true ∨ 1 ≤ e.count →
      ∃ u, EventBecomes vf name (if e.latch then e.count else e.count - 1) e.latch e.waiters s u ∧
        u.ctx.sys.tdmask = s.ctx.sys.tdmask ||| 0x1000 ∧ (∀ x, u.mem.byte x = s.mem.byte x) ∧
        (s.ctx.la = [] → exec (.evwait r) s = .next (retire 4 (popReg r u))) ∧
        ∀ w, writeReg rd 1 u = .ok w → exec (.evtry rd r) s = .next (retire 4 (popReg r w))) ∧
    (e.latch = false → e.count = 0 →
      ∀ w, writeReg rd 0 { s with ctx := { s.ctx with sys := { s.ctx.sys with tdmask := s.ctx.sys.tdmask ||| 0x1000 } } } = .ok w →
        exec (.evtry rd r) s = .next (retire 4 (popReg r w))) ∧
    exec (.evwait r) s = exec (.evwait r) (flushLa s)

/-- The fields of a 64-byte record that a write-back writes: first bit, width, value (R321). -/
def Sys2Proof.Stmt.recordFields (c : Ctx) (st cause : Nat) : List (Nat × Nat × Nat) := [
  (0, 72, c.pc.toNat), (72, 4, st), (152, 10, c.sys.vfid),
  (162, 6, c.st.vkeep.toNat + 2 * c.st.uien.toNat + 4 * c.st.pin.toNat + 8 * c.st.mclaimed.toNat),
  (168, 13, c.sys.tdmask.toNat), (192, 64, c.sys.meter.toNat), (256, 64, c.sys.mlimit.toNat), (360, 8, cause)]

/-- R321, R322: a write-back puts PC, STATE, VFID, FLAGS, TDMASK, METER, MLIMIT and CAUSE into the record, and changes no other bit. -/
def Sys2Proof.Stmt.WriteBackFillsTheRecord : Prop :=
  ∀ (c : Ctx) (st cause r : Nat),
    (∀ f ∈ recordFields c st cause, fld (c.intoRec st cause r) f.1 f.2.1 = f.2.2 % 2 ^ f.2.1) ∧
    (∀ i, (∀ f ∈ recordFields c st cause, i < f.1 ∨ f.1 + f.2.1 ≤ i) → bitAt (c.intoRec st cause r) i = bitAt r i)

/-- What a voluntary suspension writes back of a continuation whose accesses are done: results owed are written, a gang is broken, the
matrix engine leaves with its owner, and the record's PC is the next instruction. -/
def Sys2Proof.Stmt.writtenBack (k : Key) (st : Nat) (u : State) : State :=
  let v := packEngine (breakGang (addEvent 0x01 1 (flushLa u)))
  writeBack k { v.ctx with pc := pcAdd v.ctx.pc 4 }.suspended st v.ctx.tr.last.toNat v

/-- R322, R334, R336: outside handlers, once every earlier access is done, SUSPEND writes the record back with STATE 5, YIELD with 1 at
the tail of its queue, EXIT, its engine freed, with 6, an EVWAIT that must wait, its acquire demoted (R215), with 3 among its
event's waiters; the core is free. -/
def Sys2Proof.Stmt.SuspensionsEndTheRun : Prop :=
  ∀ (s u : State) (k : Key) (r : Reg) (a : W64), s.ctx.st.uh = false → s.ctx.tr.openSup = none → s.ctx.info.key = some k →
    s.ctx.info.service = none →
    let free := fun (t : State) => { t with live := false, ctx := Ctx.blank }
    (suspendReady s = .ok u →
      exec .suspend s = .next (free (writtenBack k 5 u)) ∧ exec .yield s = .next (free (requeue k (writtenBack k 1 u))) ∧
      (ownEngine s = none → exec .exit s = .next (free (writtenBack k 6 u)))) ∧
    (∀ e v, ownEngine s = some e → e.mx.queue = [] → e.mx.rows = [] → suspendReady s = .ok u →
      suspendReady { s with
        engines := s.engines.filter fun x => x.cell ≠ e.cell
        ctx := { s.ctx with st := { s.ctx.st with mclaimed := false } } } = .ok v → exec .exit s = .next (free (writtenBack k 6 v))) ∧
    (readReg r (flushLa s) = .ok a → (evOf s.ctx.sys.vfid (a.toNat % 2 ^ 16) s).latch = false →
      (evOf s.ctx.sys.vfid (a.toNat % 2 ^ 16) s).count = 0 →
      suspendReady (popReg r (demote .pkg (touch 0x1000 (flushLa s))).2) = .ok u →
      u.ctx.info.key = some k → exec (.evwait r) s = .next (free (joinWaiters (a.toNat % 2 ^ 16) k (writtenBack k 3 u))))

/-- Together: WriteBackFillsTheRecord, SuspensionsEndTheRun. -/
def Obligations.RunsEndWithTheirRecord : Prop := Sys2Proof.Stmt.WriteBackFillsTheRecord ∧ Sys2Proof.Stmt.SuspensionsEndTheRun

/-- R321, R333, R335: SPAWN, a release at package scope never demoted, of a record in STATE other than 0 writes 1, of one it
refuses 2, and changes no record; of a free and valid one it writes 0: the record is runnable at the tail of its queue, with an
image whose m4 holds its pointer and whose other registers but the stack pointer are zero. RESUME makes a record of its VF in
STATE 4 or 5 runnable and leaves any other alone. The access itself writes no byte where no saved context or exited continuation has
counters that a line's fill could credit (R241, log 55). -/
def Sys2Proof.Stmt.SpawnAndResume : Prop :=
  ∀ (rd rs : Reg) (s s1 : State) (p : W64) (a : Nat), readReg rs s = .ok p → s.mem.wf = true →
    let r := ofBytes (s1.mem.bytes a 64)
    let rva := s.ctx.sys.ax.toNat * 2 ^ 63 + p.toNat % 2 ^ 63
    let vf := s.ctx.sys.vfid
    (∀ s0, isCoord p = false → p.toNat % 64 = 0 → releaseReady .pkg s = .ok s0 → recordAccess p s0 = .ok (a, s1) →
      (recState r ≠ 0 → ∀ w, writeReg rd 1 s1 = .ok w → exec (.spawn rd rs) s = .next (retire 4 (popReg rs w))) ∧
      (recState r = 0 → spawnOk r s = false → ∀ w, writeReg rd 2 (areasWalked vf r s1) = .ok w →
        exec (.spawn rd rs) s = .next (retire 4 (popReg rs w))) ∧
      (recState r = 0 → spawnOk r s = true → ∃ u c, (∀ w, writeReg rd 0 u = .ok w →
          exec (.spawn rd rs) s = .next (retire 4 (popReg rs w))) ∧
        u.sch.runq = s.sch.runq ++ [⟨vf, rva, fld r 76 4, false, s.now⟩] ∧ imageOf ⟨vf, rva⟩ u = some c ∧ c.g.m[4] = p ∧
        c.g.m[2] = w64 (2 ^ 63 + 15 * 2 ^ 20 + fld r 184 8 * 1024) ∧ (∀ i : Fin 32, i ≠ 2 → i ≠ 4 → c.g.m[i] = 0) ∧
        c.sys.gthread.toNat = fld r 128 24 ∧ c.sys.vfid = vf ∧ c.info.launch = s.ctx.info.launch)) ∧
    (recordAccess p s = .ok (a, s1) →
      (fld r 152 10 = vf ∧ (recState r = 4 ∨ recState r = 5) → ∃ u, exec (.resume rs) s = .next (retire 4 (popReg rs u)) ∧
        u.sch.runq = s.sch.runq ++ [⟨vf, rva, fld r 76 4, false, s.now⟩] ∧ u.mem.bytes a 64 = bytesOf 64 (setFld r 72 4 1) ∧
        ∀ x, x < a ∨ a + 64 ≤ x → u.mem.byte x = s1.mem.byte x) ∧
      (¬ (fld r 152 10 = vf ∧ (recState r = 4 ∨ recState r = 5)) → exec (.resume rs) s = .next (retire 4 (popReg rs s1))) ∧
      ((∀ e ∈ s.mem.stores, e.shown = none) → NoCountersAway s → ∀ x, s1.mem.byte x = s.mem.byte x))

/-- Together: EventInstructions, SpawnAndResume. -/
def Obligations.EventsAndNewTasks : Prop := Sys2Proof.Stmt.EventInstructions ∧ Sys2Proof.Stmt.SpawnAndResume

/-! ### System registers, traps and returns -/

/-- The registers that software may read only (R102). -/
def Sys2Proof.Stmt.ReadOnly (r : SysReg) : Prop :=
  r ∈ [SysReg.cellx, .celly, .celld, .rank, .gthread, .grpmap, .vfid, .gcycle, .tdmask, .cadence, .budget, .energy, .stallr,
    .occupy, .scopecap, .waymask]

/-- The registers that only a supervisor may name (R102). -/
def Sys2Proof.Stmt.SupervisorOnly (r : SysReg) : Prop :=
  r ∈ [SysReg.stallr, .vshare, .scopecap, .waymask, .sepc, .scause, .stval, .svec]

/-- The acting core with every outstanding lookahead result written, as a system-register instruction finds it (R104). -/
def Sys2Proof.Stmt.settled (s : State) : State := { s with ctx := s.ctx.writeLa }

/-- R104: once no fence and no AMO of the thread is pending, SRD of a register it may name gives its value; SWR, SSET and SCLR of
one they may write leave the operand, old OR operand, or old AND NOT operand, and give the old value. A write of a read-only
register is ILL, at user privilege also of HOME and SPILLSZ, and a supervisor's register at user privilege is PRIV. R137, R136,
R238: UIEN takes bit 0 of its source; WFI completes when something waits to be taken, and holds the core otherwise; DIST gives the
charge of a range, or all ones, and charges nothing. -/
def Obligations.SystemRegisterInstructions : Prop :=
  ∀ (rd r : Reg) (sr : SysReg) (s : State),
    (s.ctx.amo = none → s.ctx.fences = [] → sysReady s = .ok (settled s)) ∧
    ((SupervisorOnly sr → s.ctx.st.mode = true) → s.ctx.amo.isSome = true ∨ (settleFences s).ctx.fences ≠ [] →
      exec (.srd rd sr) s = finish s wait) ∧
    (∀ z old, sysReady s = .ok z → old = sysRead sr z → (SupervisorOnly sr → s.ctx.st.mode = true) →
      (∀ u, writeReg rd old z = .ok u → exec (.srd rd sr) s = .next (retire 4 u)) ∧
      (∀ v u, ¬ ReadOnly sr → (sr = .home ∨ sr = .spillsz → s.ctx.st.mode = true) → readReg r z = .ok v →
        (writeReg rd old (sysWrite sr v z) = .ok u → exec (.swr rd sr r) s = .next (retire 4 (popReg r u))) ∧
        (writeReg rd old (sysWrite sr (old ||| v) z) = .ok u → exec (.sset rd sr r) s = .next (retire 4 (popReg r u))) ∧
        (writeReg rd old (sysWrite sr (old &&& ~~~v) z) = .ok u → exec (.sclr rd sr r) s = .next (retire 4 (popReg r u))))) ∧
    (∀ i ∈ [Instr.swr rd sr r, .sset rd sr r, .sclr rd sr r],
      (ReadOnly sr → exec i s = finish s (raise 0x01 s.insn)) ∧
      (¬ ReadOnly sr → SupervisorOnly sr → s.ctx.st.mode = false → exec i s = finish s (raise 0x12 s.insn)) ∧
      (sr = .home ∨ sr = .spillsz → s.ctx.st.mode = false → exec i s = finish s (raise 0x01 s.insn))) ∧
    (SupervisorOnly sr → s.ctx.st.mode = false → exec (.srd rd sr) s = finish s (raise 0x12 s.insn)) ∧
    (∀ v, readReg r s = .ok v → exec (.uien r) s = .next (retire 4 (setSt (fun t => { t with uien := v.getLsbD 0 }) (popReg r s)))) ∧
    (s.ctx.qs.qnt ≠ [] ∨ s.ctx.qs.qcs ≠ [] ∨ s.ctx.qs.qso ≠ [] ∨ (s.ctx.qs.pendUi ≠ [] ∧ s.ctx.st.uien = true) →
      exec .wfi s = .next (retire 4 s)) ∧
    (wfiDone s = false → ∃ t, exec .wfi s = .next t ∧ t.ctx.pc = s.ctx.pc ∧ t.ctx.wfi = true ∧ t.mem = s.mem) ∧
    (∀ (size : BitVec 13) p, readReg r s = .ok p →
      ∀ x s1 u, distRange p size.toNat s = (x, s1) → writeReg rd ((x.map w64).getD (BitVec.allOnes 64)) s1 = .ok u →
        exec (.dist rd r size) s = .next (retire 4 (popReg r u)) ∧ s1.ctx.sys.meter = s.ctx.sys.meter ∧
        s1.ctx.sys.tdmask = s.ctx.sys.tdmask)

/-- Registers that keep all of the 64 bits written (R102); of CAUSE and SCAUSE the bits exist that R350 gives. -/
def Sys2Proof.Stmt.FullRegister (r : SysReg) : Prop :=
  r ∈ [SysReg.epc, .tval, .upvec, .uivec, .ovfptr, .fbvec, .meter, .mlimit, .sepc, .stval] ∨ ∃ i, r = .evc i

/-- Registers that keep the low bits of what is written, with their widths (R5, R102, R350). -/
def Sys2Proof.Stmt.narrowRegisters : List (SysReg × Nat) :=
  [(.cause, 24), (.scause, 25), (.ax, 9), (.fillv, 32), (.lflags, 5), (.fstat, 5), (.wdesc5, 40), (.wdesc6, 40), (.vshare, 32)] ++
    (List.finRange 16).map fun i => (SysReg.evsel i, 8)

/-- R5, R102, R103: what a written system register reads: all 64 bits, or the bits that exist; SPILLSZ a multiple of 1,024 up to
65,536, of the 17 bits it has; HOME the place of a core; SVEC the VF's vector. Of STATUS only PIN, VKEEP, SD, and SPP at
supervisor privilege, change. No other system register, general register or byte of memory changes. -/
def Obligations.SystemRegistersKeepTheirBits : Prop :=
  ∀ (sr : SysReg) (v : W64) (s : State),
    (FullRegister sr → sysRead sr (sysWrite sr v s) = v) ∧
    (∀ n, (sr, n) ∈ narrowRegisters → sysRead sr (sysWrite sr v s) = w64 (v.toNat % 2 ^ n)) ∧
    (sr = .spillsz → sysRead sr (sysWrite sr v s) = w64 (min (v.toNat % 2 ^ 17 / 1024 * 1024) 65536)) ∧
    (sr = .home → sysRead sr (sysWrite sr v s) = w64 (fld v.toNat 24 13 * 2 ^ 24)) ∧
    (sr = .svec → (s.trans.vf? s.ctx.sys.vfid).isSome = true → sysRead sr (sysWrite sr v s) = v) ∧
    (sr = .status → ∀ i, (sysRead .status (sysWrite .status v s)).getLsbD i =
      if i = 1 ∨ i = 8 ∨ i = 10 ∨ (i = 5 ∧ s.ctx.st.mode = true) then v.getLsbD i else (sysRead .status s).getLsbD i) ∧
    (∀ other, other ≠ sr → sysRead other (sysWrite sr v s) = sysRead other s) ∧
    (sysWrite sr v s).ctx.g = s.ctx.g ∧ (sysWrite sr v s).mem = s.mem ∧ (sysWrite sr v s).ctx.pc = s.ctx.pc

/-- Where a transfer to a 64-bit value goes: bits 62:0 under AX, and whether bit 63 forbids a fetch there (R401). -/
def Sys2Proof.Stmt.wentTo (target : W64) (c : Ctx) : Ctx :=
  { c with
    pc := BitVec.ofNat 72 (c.sys.ax.toNat * 2 ^ 63 + target.toNat % 2 ^ 63)
    pcBad := target.getLsbD 63
    wfi := false
    waitQ := false }

/-- The pc as a trap saves it: bits 62:0, with bit 63 = 0 (R401). -/
def Sys2Proof.Stmt.savedPc (c : Ctx) : W64 := w64 (c.pc.toNat % 2 ^ 63)

/-- The value with bit 63 = 1 that the last transfer went to: what the fetch there saves and names with COORD (R401). -/
def Sys2Proof.Stmt.targetPc (c : Ctx) : W64 := w64 (c.pc.toNat % 2 ^ 63 + 2 ^ 63)

/-- A supervisor trap has been entered (R350, R355): `code`, DETAIL and U in SCAUSE, the pc in SEPC (for the COORD of a fetch at a
coordinate, the coordinate: R401), the value in STVAL, the old mode in SPP, UH and the set it displaced kept, a zeroed supervisor set
active, the pc at SVEC. -/
def Sys2Proof.Stmt.supEntered (code detail : Nat) (u : Bool) (tval : W64) (s : State) : State :=
  { s with ctx := wentTo s.svec { s.ctx with
    tr := { s.ctx.tr with
      sepc := if code = 0x05 ∧ s.ctx.pcBad = true then targetPc s.ctx else savedPc s.ctx
      scause := w64 (code + 256 * detail + if u then 2 ^ 24 else 0)
      stval := tval
      openSup := some ⟨s.ctx.st.uh, s.ctx.tr.uhInt, s.ctx.g.active⟩
      pendFault := none
      last := BitVec.ofNat 8 code }
    st := { s.ctx.st with uh := false, spp := s.ctx.st.mode, mode := true }
    g := { s.ctx.g with active := .sup, sup := ⟨Vector.replicate 8 0, Vector.replicate 4 0⟩ } } }

/-- A trap-upcall has been entered (R352): cause, pc and value in CAUSE, EPC and TVAL, UH set, a zeroed user set active, the pc at
UPVEC. -/
def Sys2Proof.Stmt.upcallEntered (code : Nat) (tval : W64) (s : State) : State :=
  { s with ctx := wentTo s.ctx.tr.upvec { s.ctx with
    tr := { s.ctx.tr with
      epc := savedPc s.ctx, cause := w64 code, tval := tval, uhInt := false, last := BitVec.ofNat 8 code }
    st := { s.ctx.st with uh := true }
    g := { s.ctx.g with active := .user, user := ⟨Vector.replicate 8 0, Vector.replicate 4 0⟩ } } }

/-- Nothing is outstanding that a trap would first finish: no lookahead result, no count of VMPOPC, no gang, and no supervisor trap is
open. -/
def Sys2Proof.Stmt.TrapReady (s : State) : Prop :=
  s.ctx.la = [] ∧ s.ctx.vec.popc = none ∧ s.ctx.vec.gang = 1 ∧ s.ctx.tr.openSup = none

/-- R22, R132, R133, R265, R349-R352, R355, R358, R401: TRAP enters the upcall handler, or, in a user handler, a service run or
with UPVEC 0, a supervisor trap with U; BREAK, a reserved encoding, a fetch at a coordinate and a pending asynchronous trap enter
a supervisor trap; a pending user interrupt enters its handler when UIEN allows, and a fault-upcall still waiting for its write-back is
left to be taken anew. Nothing but what the entries name changes. -/
def Obligations.TrapsAreTaken : Prop :=
  ∀ (s : State), TrapReady s →
    (∀ code : BitVec 6,
      (s.ctx.st.uh = false → s.ctx.info.service = none → s.ctx.tr.upvec ≠ 0 →
        exec (.trap code) s = .next (upcallEntered 0x10 (code.setWidth 64) s)) ∧
      (s.ctx.st.uh = true ∨ s.ctx.info.service.isSome = true ∨ s.ctx.tr.upvec = 0 →
        exec (.trap code) s = .next (supEntered 0x10 0 true (code.setWidth 64) s))) ∧
    exec .brk s = .next (supEntered 0x11 0 false 0 s) ∧
    (∀ w : BitVec 32, exec (.reservedEncoding w) s =
      .next (supEntered 0x01 0 false (w.setWidth 64) { s with insn := w.setWidth 64 })) ∧
    (s.ctx.pcBad = true → exec .fetchFault s = .next (supEntered 0x05 0 false (targetPc s.ctx) s)) ∧
    (s.live = true → s.ctx.tr.pendDie ≠ 0 → exec .asynchronousTrap s =
      .next (supEntered 0x0F s.ctx.tr.pendDie.toNat false 0 { s with ctx := { s.ctx with tr := { s.ctx.tr with pendDie := 0 } } })) ∧
    (∀ a as, s.live = true → s.ctx.tr.pendDie = 0 → s.ctx.tr.pendAck = none → s.ctx.tr.pendEcc = a :: as →
      exec .asynchronousTrap s =
        .next (supEntered 0x0D 1 false a { s with ctx := { s.ctx with tr := { s.ctx.tr with pendEcc := as } } })) ∧
    (∀ v vs, s.live = true → s.ctx.qs.pendUi = v :: vs → s.ctx.st.uien = true → s.ctx.st.uh = false → s.ctx.wfi = false →
      s.ctx.tr.pendDie = 0 → s.ctx.tr.pendAck = none → s.ctx.tr.pendEcc = [] →
      ∃ t, exec .userInterrupt s = .next t ∧ t.ctx.qs.pendUi = vs ∧ t.ctx.st.uh = true ∧ t.ctx.st.mode = s.ctx.st.mode ∧
        t.ctx.tr = { s.ctx.tr with epc := savedPc s.ctx, cause := 0x80, tval := v, uhInt := true, pendFault := none } ∧
        t.ctx.g = { s.ctx.g with active := .user, user := ⟨Vector.replicate 8 0, Vector.replicate 4 0⟩ } ∧
        t.ctx.pc = (wentTo s.ctx.tr.uivec s.ctx).pc ∧ t.ctx.pcBad = s.ctx.tr.uivec.getLsbD 63 ∧
        (∀ a, t.mem.byte a = s.mem.byte a))

/-- R134, R135, R355, R356, R401: URET and UIRET close the handler their entry opened and go to EPC, and are ILL elsewhere; SRET takes the
mode from SPP, brings back the set and UH that the trap displaced and goes to SEPC, and at user privilege is PRIV. Each lands under AX as
R401 gives. SRET right after a supervisor entry leaves mode, UH, active set and pc as they were; only after the COORD of a fetch at a
coordinate does it go to that coordinate again. A trap in an open supervisor trap of a continuation writes it back
with STATE 5 and that code, once its queues have drained and its earlier writes are performed at package scope. -/
def Obligations.ReturnsRestore : Prop :=
  ∀ (s : State), s.ctx.la = [] →
    (s.ctx.st.uh = true → ∃ t, exec (if s.ctx.tr.uhInt then .uiret else .uret) s = .next t ∧ t.ctx.st = { s.ctx.st with uh := false } ∧
      t.ctx.g = { s.ctx.g with active := .prog } ∧ t.ctx.tr = s.ctx.tr ∧ t.mem = s.mem ∧
      t.ctx.pc = (wentTo s.ctx.tr.epc s.ctx).pc ∧ t.ctx.pcBad = s.ctx.tr.epc.getLsbD 63) ∧
    (¬ (s.ctx.st.uh = true ∧ s.ctx.tr.uhInt = false) → exec .uret s = finish s (raise 0x01 s.insn)) ∧
    (¬ (s.ctx.st.uh = true ∧ s.ctx.tr.uhInt = true) → exec .uiret s = finish s (raise 0x01 s.insn)) ∧
    (s.ctx.st.mode = false → exec .sret s = finish s (raise 0x12 s.insn)) ∧
    (∀ o, s.ctx.st.mode = true → s.ctx.tr.openSup = some o → ∃ t, exec .sret s = .next t ∧
      t.ctx.st = { s.ctx.st with mode := s.ctx.st.spp, uh := o.uh } ∧ t.ctx.g = { s.ctx.g with active := o.set } ∧
      t.ctx.tr = { s.ctx.tr with openSup := none, uhInt := o.uhInt } ∧ t.mem = s.mem ∧
      t.ctx.pc = (wentTo s.ctx.tr.sepc s.ctx).pc ∧ t.ctx.pcBad = s.ctx.tr.sepc.getLsbD 63) ∧
    (∀ code detail u tval, s.ctx.pc.toNat / 2 ^ 63 = s.ctx.sys.ax.toNat →
      ∃ t, exec .sret (supEntered code detail u tval s) = .next t ∧ t.ctx.st.mode = s.ctx.st.mode ∧ t.ctx.st.uh = s.ctx.st.uh ∧
        t.ctx.g.active = s.ctx.g.active ∧ t.ctx.g.prog = s.ctx.g.prog ∧ t.ctx.g.user = s.ctx.g.user ∧ t.ctx.g.m = s.ctx.g.m ∧
        t.ctx.pc = s.ctx.pc ∧ t.ctx.pcBad = (decide (code = 0x05) && s.ctx.pcBad) ∧ t.ctx.tr.uhInt = s.ctx.tr.uhInt ∧ t.ctx.tr.openSup = none) ∧
    (∀ o k, s.ctx.vec.gang = 1 → s.ctx.vec.popc = none → s.ctx.tr.openSup = some o → s.ctx.info.key = some k → drained s = true →
      writesDone .pkg (coverOwn s) = true →
      let u := packEngine (coverOwn s)
      exec .brk s = .next { writeBack k ({ s.ctx with
          engine := u.ctx.engine
          tr := { s.ctx.tr with last := 0x11 } }.suspended) 5 0x11 u with live := false, ctx := Ctx.blank })

/-! ### Caches, hallmarks, tombstones and calls -/

/-- The generation of a hallmark slot of a VF. -/
def Sys2Proof.Stmt.generation (vf slot : Nat) (s : State) : Option Nat := (s.trans.vf? vf).map fun f => genOf f slot

/-- R191, R216, R217: PREF, INVL and FLUSHL of a coordinate pointer have no effect; PREF of another pointer changes no register or
meter, and no byte but in the counter area of a saved continuation whose line it evicts (R241); INVL drops the slice's lines of the
address, FLUSHL leaves them clean, once no fence before it and no write of the thread to them is on its way, and after what they hold
is written home. -/
def Sys2Proof.Stmt.CacheInstructionsKeepMemory : Prop :=
  ∀ (r : Reg) (s : State) (p : W64), readReg r s = .ok p →
    (isCoord p = true → ∀ i ∈ [Instr.pref r, .invl r, .flushl r], exec i s = .next (retire 4 s)) ∧
    (∃ t, exec (.pref r) s = .next (retire 4 t) ∧ (NoCountersAway s → ∀ a, t.mem.byte a = s.mem.byte a) ∧ t.ctx.g = s.ctx.g ∧
      t.ctx.sys.meter = s.ctx.sys.meter ∧ t.ctx.sys.tdmask = s.ctx.sys.tdmask) ∧
    (isCoord p = false → fenceGate true true (fixReads s) = wait → ∀ i ∈ [Instr.invl r, .flushl r], exec i s = finish s wait) ∧
    (∀ u, isCoord p = false → fenceGate true true (fixReads s) = .ok u → lineBusy p u = false →
      let t := writeHome p u
      exec (.invl r) s = .next (retire 4 { t with fab := { t.fab with
        slices := t.fab.slices.filter fun l => linesOf p u l = false } }) ∧
      exec (.flushl r) s = .next (retire 4 { t with fab := { t.fab with
        slices := t.fab.slices.map fun l => if linesOf p u l = true then { l with dirty := false } else l } }) ∧
      ((∀ e ∈ s.mem.stores, e.shown = none) → (∀ a, t.mem.byte a = s.mem.byte a) ∧
        ∀ w ∈ t.mem.msgs, ∀ a ∈ lineAddrs p u, w.onLines a 64 = true → w.performedAt.isSome = true))

/-- R194, R218, R219, R266: at supervisor privilege HMBUMP, a release, advances the generation of its slot by one modulo 4,096 and no
other's; RELACK of a page that has moved forgets the move and, unless its cell is retired, leaves the old page zero; VFCALL, a release
at system scope, puts 64 bytes and its issuer into a mailbox that is free and gives the sequence number, else gives all ones. At user
privilege all three raise PRIV. -/
def Sys2Proof.Stmt.SupervisorCalls : Prop :=
  ∀ (rd r : Reg) (s : State) (p : W64), readReg r s = .ok p →
    let vf := s.ctx.sys.vfid
    let slot := fld p.toNat 31 8
    (s.ctx.st.mode = false → ∀ i ∈ [Instr.hmbump r, .relack r, .vfcall rd r], exec i s = finish s (raise 0x12 s.insn)) ∧
    (∀ u f, s.ctx.st.mode = true → releaseReady .pkg s = .ok u → slotBusy vf slot s = false → s.trans.vf? vf = some f →
      ∃ t, exec (.hmbump r) s = .next (retire 4 t) ∧ (∀ a, t.mem.byte a = s.mem.byte a) ∧ t.ctx.g = s.ctx.g ∧
        generation vf slot t = some ((genOf f slot + 1) % 4096) ∧
        (∀ k, k ≠ slot → generation vf k t = generation vf k s) ∧
        (∀ v, v ≠ vf → (t.trans.vf? v).map Vf.gens = (s.trans.vf? v).map Vf.gens)) ∧
    (∀ core page, s.ctx.st.mode = true → isCoord p = true → fld p.toNat 37 26 = 0 → ptrWin p ≤ 8 →
      (vfFrame s vf).holds (ptrDie p) (ptrY p) (ptrX p) = true → ptrOff p < winEnd (ptrWin p) → ptrCore p s = core →
      ptrOff p / scaleOf (ptrWin p) / 4096 = page → ownsPage s vf core page = true →
      (tombOf s core page = none → exec (.relack r) s = .next (retire 4 s)) ∧
      ((tombOf s core page).isSome = true → pageBusy core page s = false → s.mem.wf = true →
        ∃ t, exec (.relack r) s = .next (retire 4 t) ∧ tombOf t core page = none ∧ t.mem.wf = true ∧ t.ctx = s.ctx ∧
          (∀ c q, (c, q) ≠ (core, page) → tombOf t c q = tombOf s c q) ∧
          (s.fab.retired.contains (cellOf core) = true → t.mem = s.mem) ∧
          (s.fab.retired.contains (cellOf core) = false → ∀ a, t.mem.byte a =
            if scratchAddr core (4096 * page) ≤ a ∧ a < scratchAddr core (4096 * page) + 4096 then 0 else s.mem.byte a))) ∧
    (∀ a, s.ctx.st.mode = true → s.trans.acct? vf = some a →
      (∀ u, a.mbox.isSome = true → writeReg rd (BitVec.allOnes 64) s = .ok u →
        exec (.vfcall rd r) s = .next (retire 4 (popReg r u))) ∧
      (∀ x s0 t s1, a.mbox = none → releaseAt (some .sys) s = .ok (x, s0) →
        issueAccess p 64 .read (.big true) true (fun _ => .ok ()) s0 = .ok (t, s1) →
        accessWaits ⟨t.place.addr, 64, true, false⟩ s = .ok () → s.mem.anyPoison t.place.addr 64 = false →
        ∃ u, (∀ w, writeReg rd (w64 a.seq) u = .ok w → exec (.vfcall rd r) s = .next (retire 4 (popReg r w))) ∧
          (u.trans.acct? vf).map VfAcct.mbox = some (some (a.seq, s.ctx.claimKey)) ∧
          (u.trans.acct? vf).map VfAcct.request = some (readMem t.place.addr 64 s1).1 ∧
          (u.trans.acct? vf).map VfAcct.seq = some ((a.seq + 1) % 65536) ∧
          (NoCountersAway s → ∀ b, u.mem.byte b = s.mem.byte b)))

/-- Together: CacheInstructionsKeepMemory, SupervisorCalls. -/
def Obligations.CachesAndSupervisorCalls : Prop := Sys2Proof.Stmt.CacheInstructionsKeepMemory ∧ Sys2Proof.Stmt.SupervisorCalls

/-! ### Queue registers and boundaries -/

/-- R24, R107, R155, R263, R264, R286, R287, R306: the pop rows give the first entry of their queue and remove it, the push rows
append theirs or do what their queue's rule says. A pop of qnt lets in the oldest notice of the continuation that had overflowed,
if one waits (R263). The pop of an empty queue that can still fill waits, as that of an empty qvs does (R155) and a push to a full
qmi whose stream still takes words; that of a queue that nothing will fill raises the trap of its rule. A pending AMO comes before
a pop of qcs or qso. A push or pop that another agent could see fixes the values of earlier leading loads (R35, R226). -/
def Sys2Proof.Stmt.QueueRowsPopAndPush : Prop :=
  ∀ (s : State) (v : W64) (vs : List W64),
    let waits : State := { s with ctx := { s.ctx with waitQ := true } }
    (s.ctx.amo = none → s.ctx.qs.qcs = v :: vs → ∃ t, exec .qcsPop s = .next t ∧ t.latch = v ∧ t.ctx.qs.qcs = vs ∧ t.ctx.g = s.ctx.g ∧
      ∀ a, t.mem.byte a = s.mem.byte a) ∧
    (s.ctx.amo = none → s.ctx.qs.qcs = [] →
      exec .qcsPop s = if s.ctx.qs.outstanding = 0 then finish s (raise 0x01 s.insn) else .next waits) ∧
    (s.ctx.qs.qnt = v :: vs → ∃ t, exec .qntPop s = .next t ∧ t.latch = v ∧ t.ctx.g = s.ctx.g ∧ t.mem = s.mem ∧
      ((∀ k a, s.ctx.info.key = some k → s.trans.acct? k.vf = some a → ∀ e ∈ a.overflow, e.1 ≠ k) → t.ctx.qs.qnt = vs) ∧
      (∀ k a e, s.live = true → s.ctx.info.key = some k → s.trans.acct? k.vf = some a →
        (a.overflow.find? fun e => e.1 == k) = some e → vs.length < 64 →
        t.ctx.qs.qnt = vs ++ [e.2] ∧ (t.trans.acct? k.vf).map VfAcct.overflow = some (a.overflow.erase e))) ∧
    (s.ctx.qs.qnt = [] → exec .qntPop s = .next waits) ∧
    (s.ctx.vec.qvs = [] → exec .qvsPop s = .next waits) ∧
    (s.ctx.vec.qvs = v :: vs → exec .qvsPop s = .next { s with ctx := { s.ctx with vec := { s.ctx.vec with qvs := vs } }, latch := v }) ∧
    (exec .qrnPop s = .next { s with ctx := { s.ctx with rng := (rngPop s.ctx.rng).2 }, latch := (rngPop s.ctx.rng).1 }) ∧
    (∀ e, ownEngine s = some e →
      (e.mx.qmo = v :: vs → exec .qmoPop s = .next { fixReads s with
        engines := s.engines.map fun x => if x.cell = e.cell then { x with mx := { x.mx with qmo := x.mx.qmo.drop 1 } } else x
        latch := v }) ∧
      (e.mx.qmi.length < 48 → exec (.qmiPush v) s = .next { fixReads s with
        engines := s.engines.map fun x => if x.cell = e.cell then { x with mx := { x.mx with qmi := x.mx.qmi ++ [v] } } else x }) ∧
      (48 ≤ e.mx.qmi.length → exec (.qmiPush v) s = if 0 < e.mx.qmiNeed then .next waits else finish s (raise 0x0B 8)) ∧
      (e.mx.qmo = [] → exec .qmoPop s = if e.mx.qmoOwed = 0 then finish s (raise 0x0B 8) else .next waits)) ∧
    (ownEngine s = none → exec .qmoPop s = finish s (raise 0x0B 1) ∧ exec (.qmiPush v) s = finish s (raise 0x0B 1)) ∧
    (s.ctx.amo = none → s.ctx.qs.qso = v :: vs → ∃ t, exec .qsoPop s = .next t ∧ t.latch = v ∧ t.ctx.qs.qso = vs ∧ t.ctx.g = s.ctx.g ∧
      ∀ a, t.mem.byte a = s.mem.byte a) ∧
    (s.ctx.amo = none → s.ctx.qs.qso = [] →
      exec .qsoPop s = if s.ctx.qs.owed = 0 then finish s (raise 0x0A 5) else .next waits) ∧
    (∀ u, s.ctx.qs.sent = none → s.ctx.qs.qsa = [] → qsaHeaderCheck v s = .ok () → charge (qsaCharge s) s = .ok u →
      ∃ t, exec (.qsaPush v) s = .next t ∧ t.ctx.sys.tdmask = s.ctx.sys.tdmask ||| 0x1000 ∧
        (if qsaWords v = 0 then t.ctx.qs.sent = some [v] ∧ t.ctx.qs.qsa = [] else t.ctx.qs.sent = none ∧ t.ctx.qs.qsa = [v]) ∧
        t.ctx.qs.owed = (if hdrCount v ≤ 6 then s.ctx.qs.owed + 1 else s.ctx.qs.owed) ∧ t.mem = s.mem) ∧
    (∀ u h ws, s.ctx.qs.sent = none → s.ctx.qs.qsa = h :: ws →
      (hdrCount h = 0x82 → ws.length + 1 = qsaWords h → setimgOk v = true) → charge (qsaCharge s) s = .ok u →
      ∃ t, exec (.qsaPush v) s = .next t ∧ t.ctx.sys.tdmask = s.ctx.sys.tdmask ||| 0x1000 ∧ t.mem = s.mem ∧
        t.ctx.qs.owed = s.ctx.qs.owed ∧
        (if ws.length + 1 = qsaWords h then
          t.ctx.qs.sent = some (h :: ws ++ v :: (if hdrCount h = 0x82 then [s.ctx.sys.ax.setWidth 64] else [])) ∧ t.ctx.qs.qsa = []
         else t.ctx.qs.sent = none ∧ t.ctx.qs.qsa = h :: ws ++ [v])) ∧
    (s.ctx.qs.sent.isSome = true → exec (.qsaPush v) s = .next waits)

/-- R34, R35, R205, R209, R224: LOOKAHEAD_RESULT writes the result of one window, which goes on; R226 lets a later load of the window be
performed before the leading load, and the model's choice is that a value still open is the one its bytes hold now (log 5).
ACKNOWLEDGEMENT of a store or AMO that has its place ends the wait for it;
ALLOWANCE_END, 1 µs after a write was performed, leaves no older value of its bytes to read. No byte of memory changes. -/
def Sys2Proof.Stmt.ArrivalsAtTheCore : Prop :=
  ∀ (s : State) (i : Nat),
    (∀ e, s.ctx.la[i]? = some e → e.done = false →
      let r := (e.reread s).1
      (∃ t, exec (.lookaheadResult i) s = .next t ∧
        t.ctx.g = s.ctx.g.putAll r.dests r.tag ∧ t.ctx.sys.fstat = s.ctx.sys.fstat ||| r.fstat ∧
        t.ctx.sys.lflags = s.ctx.sys.lflags ||| r.lflags ∧ (∀ a, t.mem.byte a = s.mem.byte a) ∧ t.ctx.pc = s.ctx.pc ∧
        t.ctx.la = s.ctx.la.map fun x => if x = e then { x with done := true, read := none } else x) ∧
      (e.read = none → r = e) ∧
      (∀ p n sg k d v, e.read = some ⟨p, n, sg, false, k⟩ → e.dests = [(d, v)] → CalmMemory s → p.win = 0 → isGlobal p.addr = false →
        r.dests = [(d, loadVal sg n (ofBytes (s.mem.bytes p.addr n)))])) ∧
    (∀ k, s.ctx.acks[i]? = some k → (∀ e ∈ ownStores s, e.id ≠ k.id) → (∀ m, s.ctx.amo = some m → m.id ≠ k.id) →
      exec (.acknowledgement i) s = .next { s with ctx := { s.ctx with acks := s.ctx.acks.eraseIdx i } }) ∧
    (∀ pre suf w k, s.mem.msgs = pre ++ w :: suf → (∀ x ∈ pre, x.id ≠ i) → w.id = i → w.performedAt = some k →
      (k + 1250 ≤ s.now → ∃ t l, exec (.allowanceEnd i) s = .next t ∧ t.ctx = s.ctx ∧ (∀ a, t.mem.byte a = s.mem.byte a) ∧
        t.mem.msgs = pre ++ l ∧ ∀ x ∈ l, (∀ c ∈ x.cells, ∀ d ∈ w.cells, c.addr ≠ d.addr) ∧
          ∃ y ∈ suf, x.id = y.id ∧ ∀ c ∈ x.cells, c ∈ y.cells) ∧
      (s.now < k + 1250 → exec (.allowanceEnd i) s = .next s))

/-- Together: QueueRowsPopAndPush, ArrivalsAtTheCore. -/
def Obligations.QueuesAndArrivals : Prop := Sys2Proof.Stmt.QueueRowsPopAndPush ∧ Sys2Proof.Stmt.ArrivalsAtTheCore

/-! ### Services of the fabric -/

/-- The corrected-error count of a cell. -/
def Sys2Proof.Stmt.errorsOf (cell : Nat) (s : State) : Nat :=
  ((s.fab.softErr.find? fun e => e.1 == cell).map Prod.snd).getD 0

/-- No continuation runs on a cell, and no store of its cores is queued. -/
def Sys2Proof.Stmt.CellRests (cell : Nat) (s : State) : Prop :=
  (∀ p ∈ (if s.live then [(s.cur, s.ctx)] else []) ++ s.parked, cell ∉ p.2.memberCells p.1) ∧
    ∀ e ∈ s.mem.stores, cellOf e.core ≠ cell

/-- R174, R175, R176, R182: PAGE_RELOCATION moves the bytes and tags of the oldest requested page to the VF's earliest reserve slot and
leaves a tombstone; SCRUB counts corrected errors and marks a cell whose count crosses the threshold for retirement, which the model
takes as a count above it, with a count that stops at 65,535 (log 61); SOFT_ERROR_HALVING
halves every count; CELL_RETIREMENT of a marked cell that rests retires it, every owned page of it moved or lost. -/
def Sys2Proof.Stmt.MemoryServicesActAlone : Prop :=
  ∀ s : State,
    (∀ vf core page rest r, s.fab.relocQ = (vf, core, page) :: rest → tombOf s core page = none → pageLost s core page = false →
      (s.fab.reserve.find? fun x => x.vf == vf) = some r →
      let src := scratchAddr core (page * 4096)
      let dst := scratchAddr r.core (r.page * 4096)
      ∃ t, exec .pageRelocation s = .next t ∧ t.fab.relocQ = rest ∧ t.fab.reserve = s.fab.reserve.erase r ∧
        tombOf t core page = some ⟨core, page, r.core, r.page⟩ ∧
        (s.mem.wf = true → ∀ a, t.mem.byte a = if dst ≤ a ∧ a < dst + 4096 then s.mem.byte (src + (a - dst)) else s.mem.byte a) ∧
        ∀ g, g < 256 → t.mem.tags.contains (dst / 16 + g) = s.mem.tags.contains (src / 16 + g)) ∧
    (∀ cell n, ∃ t, exec (.scrub cell n) s = .next t ∧ t.mem = s.mem ∧ t.ctx = s.ctx ∧
      errorsOf cell t = min (errorsOf cell s + n) 65535 ∧ (∀ c, c ≠ cell → errorsOf c t = errorsOf c s) ∧
      (cell ∈ t.fab.retiring ↔ cell ∈ s.fab.retiring ∨ (s.pf.flash.threshold < min (errorsOf cell s + n) 65535 ∧ cell ∉ s.fab.retired))) ∧
    ((s.fab.softErr.map Prod.fst).Nodup → ∃ t, exec .softErrorHalving s = .next t ∧ t.mem = s.mem ∧ t.ctx = s.ctx ∧
      ∀ c, errorsOf c t = errorsOf c s / 2) ∧
    (∀ cell, cell ∉ s.fab.retiring → exec (.cellRetirement cell) s = .next s) ∧
    (∀ cell, cell ∈ s.fab.retiring → CellRests cell s → ∃ t, exec (.cellRetirement cell) s = .next t ∧
      t.fab.retired = s.fab.retired ++ [cell] ∧ cell ∉ t.fab.retiring ∧ (∀ l ∈ t.fab.slices, l.unit ≠ cell) ∧
      (∀ r ∈ t.fab.reserve, cellOf r.core ≠ cell) ∧
      ∀ core page, cellOf core = cell → page < 48 → (pageVf core page s).isSome = true →
        (tombOf t core page).isSome = true ∨ pageLost t core page = true)

/-- R190, R191, R243: STAGE2_LOAD makes the entries of a VF that a miss names resident, at most 64 VFs at once; PAGE_WALK serves
the miss whose turn it is, once its VF is resident, and fills only lines of the cells that wait for it; PERIOD_REFILL sets the
budget to the allocation when the period is over. None changes a register, or a byte but in the counter area of a continuation that
is not running (R241). -/
def Sys2Proof.Stmt.TranslationAndBudgetServices : Prop :=
  ∀ s : State,
    (∀ vf, (∀ m ∈ s.trans.misses, m.vf ≠ vf) → exec (.stage2Load vf) s = .next s) ∧
    (∀ vf, (s.trans.vf? vf).isSome = true → (∃ m ∈ s.trans.misses, m.vf = vf) →
      ∃ t, exec (.stage2Load vf) s = .next t ∧ vf ∈ t.trans.resident ∧ t.trans.resident.length ≤ 64 ∧
        (∀ v ∈ t.trans.resident, v = vf ∨ v ∈ s.trans.resident) ∧ t.mem = s.mem ∧ t.ctx = s.ctx) ∧
    (∀ die, (∀ m, nextMiss die s = some m → m.vf ∉ s.trans.resident) → exec (.pageWalk die) s = .next s) ∧
    (∀ die m, nextMiss die s = some m → m.vf ∈ s.trans.resident →
      m ∈ s.trans.misses ∧ m.die = die ∧ ∃ t, exec (.pageWalk die) s = .next t ∧ t.trans.misses = s.trans.misses.erase m ∧
        (s.sch.images = [] → (∀ w ∈ m.waits, w.area = none) → ∀ a, t.mem.byte a = s.mem.byte a) ∧
        t.ctx.g = s.ctx.g ∧ t.ctx.pc = s.ctx.pc ∧
        ∀ l ∈ t.fab.slices, l ∈ s.fab.slices ∨ ∃ w ∈ m.waits, l.unit = w.cell ∧ l.vf = m.vf ∧ l.owner = some w.key) ∧
    (∀ vf a, s.trans.acct? vf = some a →
      (s.now < a.periodStart + a.period → exec (.periodRefill vf) s = .next s) ∧
      (a.periodStart + a.period ≤ s.now → ∃ t, exec (.periodRefill vf) s = .next t ∧
        t.trans.acct? vf = some { a with budget := a.alloc, granted := a.alloc, periodStart := s.now, lowPosted := false } ∧
        (∀ v, v ≠ vf → t.trans.acct? v = s.trans.acct? v) ∧ t.mem = s.mem ∧ t.ctx = s.ctx))

/-- Together: MemoryServicesActAlone, TranslationAndBudgetServices. -/
def Obligations.FabricServicesActAlone : Prop := Sys2Proof.Stmt.MemoryServicesActAlone ∧ Sys2Proof.Stmt.TranslationAndBudgetServices

/-- R230, R360, R361, R363, R364: an acknowledgement 20 µs late and the failure of a hive port declare the dies lost: the lost set grows
by them, never by the hive die, their cores' lines are gone and no stale value of a write is left to read; a fault of the hive die
resets the package, host memory kept. -/
def Obligations.DiesAreDeclaredLost : Prop :=
  ∀ s : State,
    (∀ i a, s.ctx.acks[i]? = some a →
      (s.now < a.issued + 25000 → exec (.ackTimeout i) s = .next s) ∧
      (a.issued + 25000 ≤ s.now → ∃ t, exec (.ackTimeout i) s = .next t ∧ t.fab.lost = s.fab.lost ||| (a.dies &&& 0xFFF) ∧
        (∀ l ∈ t.fab.slices, ∀ d, d = l.unit / 256 → a.dies.getLsbD d = true → d < 12 → s.fab.lost.getLsbD d = true))) ∧
    (∀ die, die < 12 → ∃ t, exec (.hivePortFailure die) s = .next t ∧ t.fab.lost = s.fab.lost ||| BitVec.ofNat 13 (2 ^ die) ∧
      (s.fab.lost.getLsbD die = false → t.mem.msgs = [] ∧ (∀ l ∈ t.fab.slices, l.unit / 256 ≠ die) ∧
        ∀ e ∈ t.mem.stores, cellOf e.core / 256 ≠ die)) ∧
    (∃ t, exec .hiveDieFault s = .next t ∧ t.pf.phase = 0 ∧ t.live = false ∧ t.parked = [] ∧ t.sch.runq = [] ∧ t.fab.lost = 0 ∧
      t.trans.vfs = [] ∧ t.pf.flash = s.pf.flash ∧
      (s.mem.veil = [] → s.mem.wf = true →
        ∀ a, t.mem.byte a = if 2 ^ 47 ≤ a ∧ a < 2 ^ 48 then s.mem.byte a else 0))

/-! ### The host, launches and peer chips -/

/-- Where the slot of a launch window stands. -/
def Sys2Proof.Stmt.slotByte (vf slot : Nat) (s : State) : Nat :=
  ((s.trans.vf? vf).map Vf.launchBase).getD 0 + 256 * slot

/-- Memory is as before but for the LSTAT of a slot, now `v`, and its COMMIT byte, now 0. -/
def Sys2Proof.Stmt.TurnedAway (vf slot v : Nat) (s t : State) : Prop :=
  let a := slotByte vf slot s
  (∀ i, i < 8 → t.mem.byte (a + 240 + i) = BitVec.ofNat 8 (v / 256 ^ i)) ∧ t.mem.byte (a + 255) = 0 ∧
    (∀ b, (b < a + 240 ∨ a + 248 ≤ b) → b ≠ a + 255 → t.mem.byte b = s.mem.byte b) ∧ t.sch = s.sch ∧ t.ctx = s.ctx

/-- The host sees a byte: the newest one, or an older one while the write that replaced it is neither performed nor seen by the host. -/
def Sys2Proof.Stmt.HostSees (s : State) (a : Nat) (b : Byte) : Prop :=
  b = s.mem.byte a ∨ ∃ w ∈ s.mem.msgs, w.performedAt = none ∧ ∃ c ∈ w.cells, c.addr = a ∧ c.old = b ∧ hostDie ∉ c.seen

/-- The command area, status and report of an endpoint's PF (R387). -/
def Sys2Proof.Stmt.areaOf (ep : Nat) (s : State) : PfArea :=
  if ep = 0 then ⟨s.pf.cmd, s.pf.cmdStatus, s.pf.report⟩ else s.pf.second

/-- R229, R387, R388, R389, R390, R395: HOST_WRITE stores its bytes, drops the copies of their lines and, past reserved space,
stops; one to an endpoint's command area leaves the other's alone. A write to a VF's BAR has no effect, and a part that does not
serve takes none; its PF BARs answer PFSTAT and read 0 elsewhere, the model's choice (log 65), as is that a busy area takes no
write (log 16). HOST_READ delivers each byte as the host sees it. -/
def Sys2Proof.Stmt.HostAccesses : Prop :=
  ∀ (s : State) (bs : List Byte) (n : Nat),
    (∀ pa, pa + bs.length ≤ 2 ^ 48 → bs ≠ [] → reservedPa pa = false → reservedPa (pa + bs.length - 1) = false →
      commitsIn pa bs.length s = [] → s.mem.wf = true → serves s = true →
      ∃ t, exec (.hostWrite (.mem pa) bs) s = .next t ∧ t.ctx = s.ctx ∧ t.sch = s.sch ∧
        (∀ l ∈ t.fab.slices, l ∈ s.fab.slices ∧ ∀ a, pa ≤ a → a < pa + bs.length → l.pa ≠ a / 64 * 64) ∧
        ∀ a, t.mem.byte a = if h : pa ≤ a ∧ a < pa + bs.length then bs[a - pa] else s.mem.byte a) ∧
    (∀ pa, reservedPa pa = true → exec (.hostWrite (.mem pa) bs) s = .fault (.reservedAddress pa) ∧
      exec (.hostRead (.mem pa) n) s = .fault (.reservedAddress pa)) ∧
    (∀ vf off, exec (.hostWrite (.vfBar vf off) bs) s = .next s) ∧
    (s.pf.phase ≠ 3 ∧ s.pf.phase ≠ 4 → (∀ ep off, exec (.hostWrite (.pfBar ep off) bs) s = .next s) ∧
      ∀ vf off, exec (.hostWrite (.launch vf off) bs) s = .next s) ∧
    (∀ ep off, serves s = true → (0x100 ≤ off ∧ off + bs.length ≤ 0x13F) →
      ((areaOf ep s).cmdStatus.getLsbD 63 = true → exec (.hostWrite (.pfBar ep off) bs) s = .next s) ∧
      ((areaOf ep s).cmdStatus.getLsbD 63 = false → ∃ t, exec (.hostWrite (.pfBar ep off) bs) s = .next t ∧
        (areaOf ep t).cmd.length = 64 ∧ (∀ i, i < bs.length → (areaOf ep t).cmd[off - 0x100 + i]? = bs[i]?) ∧
        (∀ other, (other = 0 ↔ ep ≠ 0) → areaOf other t = areaOf other s) ∧ t.ctx = s.ctx ∧ t.mem = s.mem ∧
        t.trans = s.trans ∧ t.sch = s.sch)) ∧
    (∀ pa, pa + n ≤ 2 ^ 48 → 0 < n → reservedPa pa = false → reservedPa (pa + n - 1) = false → serves s = true →
      ∃ t, exec (.hostRead (.mem pa) n) s = .next t ∧ (∀ a, t.mem.byte a = s.mem.byte a) ∧ t.ctx = s.ctx ∧
        t.hostLatch.length = n ∧ ∀ i b, t.hostLatch[i]? = some b → HostSees s (pa + i) b) ∧
    (∀ ep off, ∃ t, exec (.hostRead (.pfBar ep off) n) s = .next t ∧ t.mem = s.mem ∧ t.ctx = s.ctx ∧ t.hostLatch.length = n ∧
      ∀ i, i < n → 8 ≤ off + i → s.pf.phase = 15 → t.hostLatch[i]? = some 0)

/-- R324, R325, R326, R327: a commit whose record has a reserved bit, a limit or a region out of order is turned away with its
code and COMMIT 0; an accepted one takes the next launch id, keeps its copy and creates its threads in order; when its last record
has ended the slot shows 2, COMMIT is 0 again and the launch is gone. A slot that is committed already is left alone. -/
def Obligations.LaunchesStartAndEnd : Prop :=
  ∀ (vf slot : Nat) (s : State), s.mem.wf = true →
    let a := slotByte vf slot s
    let u := placeAll (a + 255) [1] s
    let c := u.mem.bytes a 256
    (s.mem.byte (a + 255) ≠ 0 → exec (.launchCommit vf slot) s = .next s) ∧
    (slot < 64 → (s.trans.vf? vf).isSome = true → s.mem.byte (a + 255) = 0 →
      (slotReservedOk c = false → ∃ t, exec (.launchCommit vf slot) s = .next t ∧ TurnedAway vf slot 0x10 s t) ∧
      (slotReservedOk c = true → (64 < slotSpill c ∨ 256 < slotGroups c) →
        ∃ t, exec (.launchCommit vf slot) s = .next t ∧ TurnedAway vf slot 0x13 s t) ∧
      (slotReservedOk c = true → slotSpill c ≤ 64 → slotGroups c ≤ 256 → regionsOk vf c u = false →
        ∃ t, exec (.launchCommit vf slot) s = .next t ∧ TurnedAway vf slot 0x11 s t) ∧
      (slotReservedOk c = true → slotSpill c ≤ 64 → slotGroups c ≤ 256 → regionsOk vf c u = true →
        (∀ g, readGroups vf c u (slotGroups c) 0 [] = .error g →
          ∃ t, exec (.launchCommit vf slot) s = .next t ∧ TurnedAway vf slot (0x12 + 256 * g) s t) ∧
        (∀ gs, readGroups vf c u (slotGroups c) 0 [] = .ok gs → (∀ l ∈ s.sch.launches, l.id < s.sch.nextLaunch) →
          ∃ t, exec (.launchCommit vf slot) s = .next t ∧ t.sch.nextLaunch = s.sch.nextLaunch + 1 ∧
            t.sch.launches = s.sch.launches ++ [⟨s.sch.nextLaunch, vf, slot, c, gs, slotThreads c⟩] ∧
            t.sch.runq = s.sch.runq ++ (List.range (slotThreads c)).map (fun k =>
              ⟨vf, plainVa (slotAx c) (slotRec c) + 64 * k, slotQueue c, false, s.now⟩) ∧
            t.ctx = s.ctx ∧ t.parked = s.parked))) ∧
    (∀ l, (s.sch.launches.find? fun x => x.id == l.id && x.live == 0) = some l →
      ∃ t, exec (.launchCompletion l.id) s = .next t ∧ (∀ x ∈ t.sch.launches, x.id ≠ l.id) ∧
        (slotDoneN l.copy = false →
          (∀ i, i < 8 → t.mem.byte (slotByte l.vf l.slot s + 240 + i) = BitVec.ofNat 8 (2 / 256 ^ i)) ∧
          t.mem.byte (slotByte l.vf l.slot s + 255) = 0))

/-- A chunk of a slot of the ring at storage address `a` has landed at byte `b`: its bytes stand there, the poisoned ones poisoned,
FILLED has gone past the slot when it was the command's last chunk and every earlier slot had filled (R258), and outside the chunk and
the two indices nothing differs. -/
def Sys2Proof.Stmt.ChunkLanded (a b : Nat) (data : List (Byte × Bool)) (slot : W32) (last : Prop) [Decidable last] (s t : State) :
    Prop :=
  t.mem.bytes b data.length = data.map Prod.fst ∧ (∀ i v, data[i]? = some (v, true) → t.mem.poisoned (b + i) = true) ∧
  ringFilled a t = (if last ∧ ringFilled a s = slot then slot + 1 else ringFilled a s) ∧
  (∀ x, (x < b ∨ b + data.length ≤ x) → (x < a ∨ a + 8 ≤ x) → t.mem.byte x = s.mem.byte x) ∧ t.ctx = s.ctx

/-- R258, R393: a chunk from a peer is admitted only from the link and VFID its ring was published for; the first claims the next
slot of a ring that is not full, the last fills it; what is not admitted changes nothing. Through a slot in window 0 the chunk's
bytes, with their poison (R181), stand in the claimed slot at its place in the command. -/
def Sys2Proof.Stmt.PeerChunksLand : Prop :=
  ∀ (s : State) (link ring vf cmd len chunk : Nat) (data : List (Byte × Bool)),
    let run := exec (.peerChunkArrival link ring vf cmd len chunk data) s
    ((∀ r ∈ s.cp.rings, ¬(r.1 = ring ∧ r.2.2.2.1 = link ∧ r.2.2.2.2 = vf)) → run = .next s) ∧
    (link ∈ s.pf.linksDown → run = .next s) ∧
    (∀ own target, (s.cp.rings.find? fun r => r.1 == ring && r.2.2.2.1 == link && r.2.2.2.2 == vf) =
        some (ring, own, target, link, vf) → link ∉ s.pf.linksDown →
      (chunk ≠ 0 → (∀ e ∈ s.cp.peerSlots, ¬(e.1 = link ∧ e.2.1 = ring ∧ e.2.2.1 = vf ∧ e.2.2.2.1 = cmd)) → run = .next s) ∧
      (chunk = 0 → ringFull (forward s target) s = true → run = .next s) ∧
      (chunk = 0 → ringFull (forward s target) s = false → len ≤ 4096 →
        (∀ e ∈ s.cp.peerSlots, ¬(e.1 = link ∧ e.2.1 = ring ∧ e.2.2.1 = vf ∧ e.2.2.2.1 = cmd)) →
        ∀ d, ringSide (peerCmd own (scratchCore (forward s target)) target len 0 CopySide.none none s) s = .ok d →
          ∃ t, run = .next t ∧ t.ctx.g = s.ctx.g ∧ t.cp.peerSlots = s.cp.peerSlots ∧ t.cp.nextId = s.cp.nextId + 1) ∧
      (RawStorage s → s.mem.wf = true → (∀ c ∈ s.cp.cmds, c.place ≠ .done) → 4096 * chunk < len → len < 2 ^ 32 →
        data.length = min 4096 (len - 4096 * chunk) →
        let slot := fun (i : Nat) => scratchAddr (slotSide own target len i s).core
          ((slotSide own target len i s).base.toNat + 4096 * chunk)
        let raw := fun (i : Nat) => ptrWin (ringBase target s) = 0 ∧
          (slot i + data.length ≤ target ∨ target + 32 ≤ slot i)
        (chunk = 0 → ringFull target s = false →
          (∀ e ∈ s.cp.peerSlots, ¬(e.1 = link ∧ e.2.1 = ring ∧ e.2.2.1 = vf ∧ e.2.2.2.1 = cmd)) →
          (∃ d, ringSide (peerCmd own (scratchCore target) target len 0 CopySide.none none s) s = .ok d) →
          raw (ringClaimed target s).toNat →
          ∃ t, run = .next t ∧ ringClaimed target t = ringClaimed target s + 1 ∧
            ChunkLanded target (slot (ringClaimed target s).toNat) data (ringClaimed target s) (len ≤ 4096) s t ∧
            t.cp.peerSlots = s.cp.peerSlots ++
              (if len ≤ 4096 then [] else [(link, ring, vf, cmd, (ringClaimed target s).toNat)])) ∧
        (∀ i : W32, chunk ≠ 0 → raw i.toNat →
          (s.cp.peerSlots.find? fun e => e.1 == link && e.2.1 == ring && e.2.2.1 == vf && e.2.2.2.1 == cmd) =
            some (link, ring, vf, cmd, i.toNat) →
          ∃ t, run = .next t ∧ ringClaimed target t = ringClaimed target s ∧
            ChunkLanded target (slot i.toNat) data i (len ≤ 4096 * (chunk + 1)) s t)))

/-- Together: HostAccesses, PeerChunksLand. -/
def Obligations.HostAndPeerAccesses : Prop := Sys2Proof.Stmt.HostAccesses ∧ Sys2Proof.Stmt.PeerChunksLand

/-! ### Dispatch, slices and the synchronised stop -/

/-- A node and the other nodes, after its entry changed. -/
def Sys2Proof.Stmt.NodeBecomes (num : Nat) (n : Node) (s t : State) : Prop :=
  nodeAt num t = some n ∧ ∀ k, k ≠ num → nodeAt k t = nodeAt k s

/-- R338, R341: a record a free core takes is runnable, of the VF, of an enabled queue and may run there; a carried one comes before all
others, and else none of a higher priority waits; the credits of smooth round robin are all that changes. -/
def Sys2Proof.Stmt.DispatcherChoosesByRank : Prop :=
  ∀ (core vf : Nat) (s : State),
    (candidates core vf s = [] ↔ chooseRecord core vf s = none) ∧
    ∀ e u, chooseRecord core vf s = some (e, u) →
      e ∈ s.sch.runq ∧ e.vf = vf ∧ queueOn vf e.queue s = true ∧ mayRunOn core ⟨e.vf, e.rva⟩ s = true ∧
      ((∃ x ∈ candidates core vf s, x.carried = true) → e.carried = true ∧ u = s) ∧
      (e.carried = false → ∀ x ∈ candidates core vf s, x.carried = false ∧ queuePri vf x.queue s ≤ queuePri vf e.queue s) ∧
      u.mem = s.mem ∧ u.ctx = s.ctx ∧ u.sch = s.sch

/-- R321, R322, R323, R341: a free core takes the chosen record: off its queue, a queue left empty losing its credit, STATE 2, and
the core runs at the record's pc with its VFID, meter, limit and dies; a record the dispatcher refuses ends with STATE 6 and the
core stays free. A core that runs, follows a gang, is retired or lost, or whose node runs no slice, takes nothing. -/
def Sys2Proof.Stmt.DispatchRunsTheRecord : Prop :=
  ∀ s : State,
    (s.live = true ∨ isFollower s.cur s = true ∨ cellOf s.cur ∈ s.fab.retired ∨ dieLost s (dieOf s.cur) = true ∨
      sliceVf s.cur s = none → exec .dispatch s = .next s) ∧
    ∀ vf e s1 r, s.live = false → isFollower s.cur s = false → cellOf s.cur ∉ s.fab.retired → dieLost s (dieOf s.cur) = false →
      sliceVf s.cur s = some vf → chooseRecord s.cur vf s = some (e, s1) →
      let k : Key := ⟨e.vf, e.rva⟩
      let u := dropQueueCredit e.vf e.queue { s1 with sch := { s1.sch with runq := s1.sch.runq.erase e } }
      let first := u.sch.fresh.contains k
      recRead k u = some r →
      (dispatchRefused k r u = true → ∀ w, recWrite k (setFld (setFld r 72 4 6) 360 8 0x41) u = some w →
        ∃ t, exec .dispatch s = .next t ∧ t.live = false ∧ imageOf k t = none ∧ (∀ a, t.mem.byte a = w.mem.byte a) ∧
          t.sch.runq = u.sch.runq) ∧
      (dispatchRefused k r u = false →
        ∀ w, recWrite k (if first then setFld (setFld r 72 4 2) 320 37 (homeBits k.vf s.cur u) else setFld r 72 4 2) u = some w →
        ∃ t, exec .dispatch s = .next t ∧ t.live = true ∧ t.cur = s.cur ∧ t.ctx.pc.toNat = r % 2 ^ 72 ∧ t.ctx.info.key = some k ∧
          t.ctx.sys.vfid = e.vf ∧ t.ctx.sys.gthread.toNat = r / 2 ^ 128 % 2 ^ 24 ∧ t.ctx.sys.meter.toNat = r / 2 ^ 192 % 2 ^ 64 ∧
          t.ctx.sys.mlimit.toNat = r / 2 ^ 256 % 2 ^ 64 ∧ t.ctx.sys.tdmask.toNat = r / 2 ^ 168 % 2 ^ 13 ∧
          t.sch.runq = u.sch.runq ∧ k ∉ t.sch.fresh ∧ ∀ a, t.mem.byte a = w.mem.byte a)

/-- Together: DispatcherChoosesByRank, DispatchRunsTheRecord. -/
def Obligations.DispatchChoosesAndRuns : Prop := Sys2Proof.Stmt.DispatcherChoosesByRank ∧ Sys2Proof.Stmt.DispatchRunsTheRecord

/-- R12, R17, R262, R337, R342, R343: a node's next entry names a VF that is placed on the node and has something to run.
SLICE_ENDING notes once, at most 5 µs ahead, a slice end that stops the VF; SLICE_END goes on into the VF's own next entry at the
end, or, that notice posted, broadcasts the stop 100 cycles before the end; SLICE_START, when the node rests and nothing is to be
retired or saved, starts the next entry that has something to run and re-injects its VF's save buffers. Before their time they
change nothing. How SLICE_START re-injects the save buffers is the model's choice (log 93). -/
def Sys2Proof.Stmt.SlicesTurn : Prop :=
  ∀ (s : State) (node : Nat) (n : Node), nodeAt node s = some n →
    (∀ i vf len, nextEntry n s = some (i, vf, len) →
      n.slices[i]? = some (vf, len, true) ∧ hosts node vf s = true ∧ vfActive vf s = true) ∧
    (∀ vf e, n.phase = .slice vf e →
      (n.noticed = true ∨ s.now + 6250 < e ∨ stopsAtEnd n vf s = false → exec (.sliceEnding node) s = .next s) ∧
      (n.noticed = false → e ≤ s.now + 6250 → stopsAtEnd n vf s = true →
        ∃ t, exec (.sliceEnding node) s = .next t ∧ NodeBecomes node { n with noticed := true } s t ∧ t.mem = s.mem) ∧
      (∀ i len, nextEntry n s = some (i, vf, len) →
        (s.now < e → exec (.sliceEnd node) s = .next s) ∧
        (e ≤ s.now → ∃ t, exec (.sliceEnd node) s = .next t ∧ t.mem = s.mem ∧ t.ctx = s.ctx ∧
          NodeBecomes node { n with pos := i, phase := .slice vf (e + len * 12500), noticed := false } s t)) ∧
      ((∀ i len, nextEntry n s ≠ some (i, vf, len)) →
        (s.now + 100 < e ∨ n.noticed = false → exec (.sliceEnd node) s = .next s) ∧
        (n.noticed = true → e ≤ s.now + 100 → ∃ t, exec (.sliceEnd node) s = .next t ∧ t.mem = s.mem ∧ t.ctx = s.ctx ∧
          NodeBecomes node { n with phase := .stopping vf (s.now + 100) } s t)) ∧
      exec (.sliceStart node) s = .next s) ∧
    (n.phase = .idle ∨ n.phase = .stopped →
      (s.pow.off = true ∨ s.pf.save = true ∨ (∃ c ∈ s.fab.retiring, (nodeFrame node).hasCell c = true) →
        exec (.sliceStart node) s = .next s) ∧
      (s.pow.off = false → s.pf.save = false → (∀ c ∈ s.fab.retiring, (nodeFrame node).hasCell c = false) →
        (nextEntry n s = none → ∃ t, exec (.sliceStart node) s = .next t ∧ NodeBecomes node { n with phase := .idle } s t ∧
          t.mem = s.mem ∧ t.ctx = s.ctx) ∧
        (∀ i vf len, nextEntry n s = some (i, vf, len) → ∃ t, exec (.sliceStart node) s = .next t ∧
          NodeBecomes node { n with pos := i, phase := .slice vf (s.now + len * 12500), noticed := false } s t ∧
          (∀ e ∈ t.sch.recCore, e.1.vf ≠ vf) ∧
          ∀ e ∈ t.mem.stores, (nodeFrame node).hasCell (cellOf e.core) = true → e.held ≠ some vf)))

/-- R36, R136, R220, R338, R342, R343, R366: at T_stop a core of the VF halts, its results written and its AMO performed, unless a vector
instruction of it has started; once the node is flushed, every core of the VF on it is free, the records runnable at the stop are
carried, the stores under way stand in the save buffers and the node rests. Which stores
the save buffers hold after FLUSH_COMPLETE is the model's choice (log 93). -/
def Sys2Proof.Stmt.TheStopIsSynchronised : Prop :=
  ∀ s : State,
    (s.live = false ∨ s.ctx.halted = true ∨ stopDue s = false ∨ (∃ q ∈ s.ctx.vec.q, q.started = true) →
      exec .coreHalt s = .next s) ∧
    (s.live = true → s.ctx.halted = false → stopDue s = true → (∀ q ∈ s.ctx.vec.q, q.started = false) →
      s.ctx.info.service = none →
      ∃ t, exec .coreHalt s = .next t ∧ t.ctx.halted = true ∧ t.ctx.amo = none ∧ t.ctx.wfi = false ∧ t.ctx.waitQ = false ∧
        (∀ e ∈ t.ctx.la, e.done = true) ∧ t.sch = s.sch ∧ t.ctx.pc = (if s.ctx.wfi = true then pcAdd s.ctx.pc 4 else s.ctx.pc)) ∧
    ∀ node n vf ts, nodeAt node s = some n → n.phase = .stopping vf ts →
      (s.now < ts ∨ flushed node vf s = false → exec (.flushComplete node) s = .next s) ∧
      (ts ≤ s.now → flushed node vf s = true → (s.cur :: s.parked.map Prod.fst).Nodup →
        ∃ t, exec (.flushComplete node) s = .next t ∧ NodeBecomes node { n with phase := .stopped, noticed := false } s t ∧
          (∀ e ∈ t.sch.runq, e.vf = vf → e.since ≤ ts → e.carried = true) ∧
          (∀ e ∈ t.mem.stores, (nodeFrame node).hasCell (cellOf e.core) = true → e.held.isSome = true) ∧
          ∀ core c, (nodeFrame node).hasCell (cellOf core) = true → ctxOn core t = some c → c.sys.vfid ≠ vf)

/-- Together: SlicesTurn, TheStopIsSynchronised. -/
def Obligations.SlicesTurnAndStop : Prop := Sys2Proof.Stmt.SlicesTurn ∧ Sys2Proof.Stmt.TheStopIsSynchronised

/-! ### The apiary -/

/-- The words of an observation (R307): the action's header with the mailbox and the count, the status word, the payload. -/
def Sys2Proof.Stmt.observation (hdr : W64) (n status step reward : Nat) (obs : List W64) : List W64 :=
  w64 (hdr.toNat / 65536 * 65536 + obs.length % 256 * 256 + n % 256) ::
    w64 (status * 2 ^ 56 + step % 2 ^ 24 * 2 ^ 32 + reward % 2 ^ 32) :: obs

/-- The episode of a mailbox has ended with a status: no hart, no core, no delivery; its region is still to be zeroed. -/
def Sys2Proof.Stmt.EpisodeEnds (n status : Nat) (m : Mailbox) (s t : State) : Prop :=
  mbox? t n = some { m with hart := none, state := .idle, zeroing := some status } ∧
    t.api.cores = s.api.cores.filter (fun c => c.2 != n) ∧ t.api.queue = s.api.queue.filter (· != n) ∧ t.mem = s.mem ∧ t.ctx = s.ctx

/-- No byte of a region is a free byte. -/
def Sys2Proof.Stmt.RegionPlain (n : Nat) (s : State) : Prop :=
  s.mem.wf = true ∧ ∀ u, u < 262144 → veilByte s.mem.veil (regionAddr n u) = none

/-- Bytes outside a region are as before. -/
def Sys2Proof.Stmt.OnlyRegion (n : Nat) (s t : State) : Prop :=
  ∀ a, (a < regionAddr n 0 ∨ regionAddr n 262144 ≤ a) → t.mem.byte a = s.mem.byte a

/-- A mailbox, and the observation the acting continuation finds at the end of its queue. -/
def Sys2Proof.Stmt.Answered (n : Nat) (m : Mailbox) (ws : List W64) (s t : State) : Prop :=
  mbox? t n = some m ∧ t.ctx.qs.qso = s.ctx.qs.qso ++ ws ∧ t.ctx.qs.sent = none ∧ t.mem = s.mem ∧ t.ctx.g = s.ctx.g

/-- R303, R305, R306, R309, R310, R314, R315, R404: an accepted record acts on its mailbox: SETMIN, SETWD and SETIMG set its
version, its limits and its image; an action is first answered with the ending of an ended episode, then STALEPOL when its version
is older than MINVER, then starts an episode (the region holding the image, zeros after it, the hart at its start) or, without an
image that can be read, is answered with ENVFAULT; a live episode takes it as its next turn. A record whose mailbox is not the
VF's is dropped. The model's choices (log 70): such a record is dropped, the mailbox's other conventions where no rule speaks, and
that bit 63 of SETIMG's word 1 is ignored. -/
def Obligations.RecordsReachTheirMailbox : Prop :=
  ∀ (s u : State) (ws : List W64), acceptable s = some (ws, u) →
    let h := ws.headD 0
    let n := hdrBox h
    let v := h.toNat / 65536 % 2 ^ 32
    let rows : List Instr := [.setmin, .setwd, .setimg, .actionRecord]
    let kinds : List (Nat → Prop) := [(· = 0x80), (· = 0x81), (· = 0x82), (· ≤ 6)]
    (∀ p ∈ rows.zip kinds, (¬ p.2 (hdrCount h) → exec p.1 s = .next s) ∧
      (p.2 (hdrCount h) → (∀ m, mbox? s n = some m → m.vf ≠ some s.ctx.sys.vfid) → exec p.1 s = .next u)) ∧
    ∀ m, mbox? s n = some m → m.vf = some s.ctx.sys.vfid →
      (hdrCount h = 0x80 → ∃ t, exec .setmin s = .next t ∧ Answered n { m with minver := BitVec.ofNat 32 v } [] s t) ∧
      (hdrCount h = 0x81 → ∃ t, exec .setwd s = .next t ∧
        Answered n { m with wdstep := BitVec.ofNat 16 (v % 65536), wdtotal := BitVec.ofNat 16 (v / 65536) } [] s t) ∧
      (hdrCount h = 0x82 → ∃ t, exec .setimg s = .next t ∧
        Answered n { m with image := some (plainVa ((ws.getD 3 0).setWidth 9) (ws.getD 1 0),
          (ws.getD 2 0).toNat % 2 ^ 19, (ws.getD 2 0).toNat / 2 ^ 19 % 2 ^ 18) } [] s t) ∧
      ∀ k, s.live = true → s.ctx.info.service = none → s.ctx.info.key = some k → k.rva < 2 ^ 72 → hdrCount h ≤ 6 →
        let a : MbAction := ⟨k, h, ws.drop 1⟩
        (m.owed ≠ some k ∨ m.posted = true → exec .actionRecord s = .next u) ∧
        (m.owed = some k → m.posted = false →
          (∀ st, m.zeroing = some st → st ≠ 1 →
            ∃ t, exec .actionRecord s = .next t ∧ Answered n { m with waiting := some a } [] s t) ∧
          ((m.zeroing = none ∨ m.zeroing = some 1) →
            (∀ st, m.pendingEnd = some st → ∃ t, exec .actionRecord s = .next t ∧
              Answered n { m with posted := true, pendingEnd := none, step := 0 } (observation h n st m.step 0 []) s t) ∧
            (m.pendingEnd = none →
              (2 ^ 31 ≤ (v + 2 ^ 32 - m.minver.toNat) % 2 ^ 32 → ∃ t, exec .actionRecord s = .next t ∧
                Answered n { m with posted := true } (observation h n 3 m.step 0 []) s t) ∧
              ((v + 2 ^ 32 - m.minver.toNat) % 2 ^ 32 < 2 ^ 31 →
                (m.state ≠ .idle → ∃ t, exec .actionRecord s = .next t ∧
                  Answered n { m with state := .running, waiting := some a } [] s t ∧
                  t.api.queue = if s.api.cores.any (fun c => c.2 == n) then s.api.queue else s.api.queue ++ [n]) ∧
                (m.state = .idle → (m.image = none ∨ ∃ i, m.image = some i ∧ imageBytes s.ctx.sys.vfid i.1 i.2.1 u = none) →
                  ∃ t, exec .actionRecord s = .next t ∧ (∀ b, t.mem.byte b = s.mem.byte b) ∧
                    Answered n { m with posted := true } (observation h n 4 m.step 0 []) { s with mem := t.mem } t) ∧
                (∀ i bs, m.state = .idle → m.image = some i → imageBytes s.ctx.sys.vfid i.1 i.2.1 u = some bs →
                  ∃ t r, exec .actionRecord s = .next t ∧ mbox? t n = some { m with
                      state := .starting, waiting := some a, current := none, step := 0, used := 0, zeroing := none, hart := some r } ∧
                    t.api.queue = s.api.queue ++ [n] ∧ r.pc = w64 i.2.2 ∧ r.fcsr = 0 ∧ r.resv = none ∧ r.waitRd = none ∧
                    (∀ j, j < 32 → r.x[j]? = some (if j = 2 then 0x40000 else if j = 10 then w64 n else 0) ∧ r.f[j]? = some 0) ∧
                    (RegionPlain n s → bs.length ≤ 262144 → OnlyRegion n s t ∧
                      ∀ b, b < 262144 → t.mem.byte (regionAddr n b) = bs.getD b 0))))))

/-- R308, R309, R311, R312, R313, R404: a free core takes the oldest delivery of the next VF in turn and its hart sees the
action's header and words; a turn or an episode past its limit ends with TIMEOUT whatever its core does; before that, POST gives
the observation to its pusher, with DONE ends the episode; WAIT gives the core back; a control block takes a write of one of its
registers, and any other write, a POST or WAIT out of turn ends the episode with ENVFAULT. The model's choices: a turn past its limit
ends at the next act of its core (log 12), and DONE is posted at the POST, before the region is zeroed (log 70). -/
def Obligations.TurnsRunAndPost : Prop :=
  ∀ (s : State) (ac : Nat),
    (64 ≤ ac ∨ (episodeOn ac s).isSome = true ∨ nextDelivery s = none → exec (.actionDelivery ac) s = .next s) ∧
    (∀ n v, nextDelivery s = some (n, v) →
      n ∈ s.api.queue ∧ (mbox? s n).bind Mailbox.vf = some v ∧
      (∀ k ∈ s.api.queue, ∀ x, (mbox? s k).bind Mailbox.vf = some x →
        if s.api.lastVf < v then ¬(s.api.lastVf < x ∧ x < v) else v ≤ x ∧ x ≤ s.api.lastVf) ∧
      (∀ before after, s.api.queue = before ++ n :: after → n ∉ before → ∀ k ∈ before, (mbox? s k).bind Mailbox.vf ≠ some v) ∧
      ∀ m, ac < 64 → episodeOn ac s = none → mbox? s n = some m →
        ∃ t h', exec (.actionDelivery ac) s = .next t ∧ t.api.cores = s.api.cores ++ [(ac, n)] ∧
          t.api.queue = s.api.queue.filter (· != n) ∧ t.api.lastVf = v ∧ t.mem = s.mem ∧ t.ctx = s.ctx ∧
          mbox? t n = some { m with current := m.waiting, waiting := none, limStep := m.wdstep, limTotal := m.wdtotal
                                    turnStart := s.now, hart := h' } ∧
          ∀ a h, m.waiting = some a → m.hart = some h → ∃ r, h' = some r ∧ r.cb.hdr = a.hdr ∧ r.pc = h.pc ∧ r.waitRd = none ∧
            (∀ i, i < 6 → r.cb.acts[i]? = some (a.payload.getD i 0)) ∧
            r.x = (match h.waitRd with
              | some rd => if rd = 0 then h.x else h.x.set rd a.hdr
              | none => h.x)) ∧
    (∀ i ∈ [Instr.post ac, .wait ac], episodeOn ac s = none → exec i s = .next s) ∧
    (∀ off v, episodeOn ac s = none → exec (.controlBlockWrite ac off v) s = .next s) ∧
    (∀ n m, episodeOn ac s = some n → mbox? s n = some m → watchdogDue m s = true →
      (∀ i ∈ [Instr.post ac, .wait ac], ∃ t, exec i s = .next t ∧ EpisodeEnds n 2 m s t) ∧
      ∀ off v, ∃ t, exec (.controlBlockWrite ac off v) s = .next t ∧ EpisodeEnds n 2 m s t) ∧
    ∀ n m, episodeOn ac s = some n → mbox? s n = some m → watchdogDue m s = false →
      (m.current = none ∨ m.hart = none → ∃ t, exec (.post ac) s = .next t ∧ EpisodeEnds n 4 m s t) ∧
      (∀ a h c, m.current = some a → m.hart = some h → a.owner.rva < 2 ^ 72 → ctxOf a.owner s = some c →
        let out := fun st step => observation a.hdr n st step h.cb.reward.toNat (h.cb.obs.toList.take h.cb.obsn)
        let got := fun (t : State) => (ctxOf a.owner t).map fun c => c.qs.qso
        (h.cb.status = 1 → ∃ t, exec (.post ac) s = .next t ∧ got t = some (c.qs.qso ++ out 1 (m.step + 1)) ∧
          mbox? t n = some { m with posted := true, current := none, step := 0, hart := none, state := .idle, zeroing := some 1 } ∧
          episodeOn ac t ≠ some n ∧ t.mem = s.mem) ∧
        (h.cb.status ≠ 1 → m.state = .starting → ∃ t, exec (.post ac) s = .next t ∧ got t = some (c.qs.qso ++ out 5 0) ∧
          mbox? t n = some { m with posted := true, current := none, step := 0, state := .live } ∧ t.mem = s.mem) ∧
        (h.cb.status ≠ 1 → m.state ≠ .starting → ∃ t, exec (.post ac) s = .next t ∧ got t = some (c.qs.qso ++ out 0 (m.step + 1)) ∧
          mbox? t n = some { m with posted := true, current := none, step := m.step + 1, state := .live } ∧ t.mem = s.mem)) ∧
      (m.current.isSome = true ∨ m.hart = none → ∃ t, exec (.wait ac) s = .next t ∧ EpisodeEnds n 4 m s t) ∧
      (∀ h, m.current = none → m.hart = some h → ∃ t, exec (.wait ac) s = .next t ∧
        mbox? t n = some { m with used := m.used + (s.now - m.turnStart), hart := some { h with waitRd := some 0 } } ∧
        (∀ c, episodeOn c t ≠ some n) ∧ t.mem = s.mem ∧ t.ctx = s.ctx ∧
        t.api.queue = if m.waiting.isSome then s.api.queue ++ [n] else s.api.queue) ∧
      ∀ h v, m.hart = some h →
        let writes := fun off (c : CtlBlock) => ∃ t, exec (.controlBlockWrite ac off v) s = .next t ∧
          mbox? t n = some { m with hart := some { h with cb := c } } ∧ t.mem = s.mem ∧ t.ctx = s.ctx
        let ends := fun off => ∃ t, exec (.controlBlockWrite ac off v) s = .next t ∧ EpisodeEnds n 4 m s t
        (v.toNat ≤ 14 → writes 0x080 { h.cb with obsn := v.toNat }) ∧ (14 < v.toNat → ends 0x080) ∧
        writes 0x088 { h.cb with reward := v.setWidth 32 } ∧
        (v.toNat ≤ 1 → writes 0x090 { h.cb with status := v.toNat }) ∧ (1 < v.toNat → ends 0x090) ∧
        (∀ i : Fin 14, writes (0x0C0 + 8 * i.val) { h.cb with obs := h.cb.obs.set i v }) ∧
        exec (.controlBlockWrite ac 0x200 v) s = exec (.post ac) s ∧
        (∀ off, off ∉ [0x080, 0x088, 0x090, 0x200] → (∀ i, i < 14 → off ≠ 0x0C0 + 8 * i) → ends off)

/-- R299, R301, R302, R311, R313, R404: an environment core touches no byte outside its episode's region, nor any register,
translation or cache of the comb dies; ADD adds and moves on, an access outside region and control block ends the episode with
ENVFAULT; the watchdog ends a turn past its limit with TIMEOUT; once the region is zeroed the ending is posted to the turn that
owes it, or stays pending. What a RISC-V instruction is and does is presumed (log 14); that a turn past its limit ends at the next act
of its core, and that EPISODE_ZEROED posts the ending, are the model's choices (log 70). -/
def Obligations.EpisodesStayInsideAndEnd : Prop :=
  ∀ (s : State) (ac n : Nat),
    (s.mem.wf = true → (episodeOn ac s = none → exec (.environmentCoreInstruction ac) s = .next s) ∧
      (episodeOn ac s = some n → ∃ t, exec (.environmentCoreInstruction ac) s = .next t ∧ OnlyRegion n s t ∧ t.ctx.g = s.ctx.g ∧
        t.ctx.sys = s.ctx.sys ∧ t.trans = s.trans ∧ t.fab = s.fab ∧ t.cp = s.cp ∧ t.mem.stores = s.mem.stores)) ∧
    (∀ m, episodeOn ac s = some n → mbox? s n = some m → watchdogDue m s = true →
      ∃ t, exec (.environmentCoreInstruction ac) s = .next t ∧ EpisodeEnds n 2 m s t) ∧
    (∀ m h, episodeOn ac s = some n → mbox? s n = some m → watchdogDue m s = false → m.hart = some h →
      (h.pc.toNat % 2 = 1 ∨ 262144 ≤ h.pc.toNat → ∃ t, exec (.environmentCoreInstruction ac) s = .next t ∧ EpisodeEnds n 4 m s t) ∧
      (∀ w, h.pc.toNat % 2 = 0 → h.pc.toNat + 4 ≤ 262144 → w = ofBytes (s.mem.bytes (regionAddr n h.pc.toNat) 4) →
        (w % 128 = 0x33 → w / 2 ^ 12 % 8 = 0 → w / 2 ^ 25 = 0 → ∃ t r, exec (.environmentCoreInstruction ac) s = .next t ∧
          mbox? t n = some { m with hart := some r } ∧ r.pc = h.pc + 4 ∧ r.instret = h.instret + 1 ∧ t.mem = s.mem ∧
          ∀ j x, h.x[j]? = some x → r.x[j]? = some (if j = w / 2 ^ 7 % 32 ∧ j ≠ 0
            then (h.x[w / 2 ^ 15 % 32]?).getD 0 + (h.x[w / 2 ^ 20 % 32]?).getD 0 else x)) ∧
        (w % 128 = 0x73 → w / 2 ^ 12 % 8 = 0 → ∃ t, exec (.environmentCoreInstruction ac) s = .next t ∧ EpisodeEnds n 4 m s t) ∧
        (w % 128 = 0x03 → w / 2 ^ 12 % 8 = 3 →
          (let a := ((h.x[w / 2 ^ 15 % 32]?).getD 0 + rvImmI w).toNat
           a % 8 ≠ 0 ∨ (262144 ≤ a ∧ (a < 0x40000000 ∨ 0x40001000 ≤ a))) →
          ∃ t, exec (.environmentCoreInstruction ac) s = .next t ∧ EpisodeEnds n 4 m s t))) ∧
    (∀ m, mbox? s n = some m →
      let limit := if m.limStep = 0 then 1000 else m.limStep.toNat
      let late := limit * 1250 < s.now - m.turnStart ∨
        (m.limTotal ≠ 0 ∧ m.limTotal.toNat * 1250000 < m.used + (s.now - m.turnStart))
      let busy := ∃ c ∈ s.api.cores, c.2 = n
      (busy → late → ∃ t, exec (.watchdogExpiry n) s = .next t ∧ EpisodeEnds n 2 m s t) ∧
      (¬(busy ∧ late) → exec (.watchdogExpiry n) s = .next s)) ∧
    (∀ m, mbox? s n = some m →
      (m.zeroing = none → exec (.episodeZeroed n) s = .next s) ∧
      (∀ st, m.zeroing = some st → ∃ t, exec (.episodeZeroed n) s = .next t ∧
        (RegionPlain n s → OnlyRegion n s t ∧ ∀ b, b < 262144 → t.mem.byte (regionAddr n b) = 0) ∧
        (st = 1 → mbox? t n = some { m with zeroing := none, current := none, waiting := none, step := 0 }) ∧
        (st ≠ 1 → m.current = none → m.waiting = none → mbox? t n = some { m with zeroing := none, pendingEnd := some st }) ∧
        (∀ a c, st ≠ 1 → (m.current = some a ∨ (m.current = none ∧ m.waiting = some a)) → a.owner.rva < 2 ^ 72 →
          ctxOf a.owner s = some c →
          mbox? t n = some { m with zeroing := none, current := none, waiting := none, step := 0, posted := true } ∧
          (ctxOf a.owner t).map (fun c => c.qs.qso) = some (c.qs.qso ++ observation a.hdr n st m.step 0 []))))

/-! ### Power, clocks, heat and boot -/

/-- The collective of a number. -/
def Sys2Proof.Stmt.collective (id : Nat) (s : State) : Option Coll := s.pow.colls.find? fun c => c.id == id

/-- A step touched only power, clocks and the PF status. -/
def Sys2Proof.Stmt.OnlyPower (s t : State) : Prop :=
  ∃ p f, t = { s with pow := p, pf := f }

/-- R373, R374, R378: the parts of the active nodes together stay within what the loop plans against, which is at most 90 % of the budget
in the fallback; a member's need is the smallest cadence 1 to 16 whose predicted energy fits its part, 16 where none does. The part of
an idle node goes to the others; that such a node asks for cadence 1 is the model's choice (log 92). -/
def Sys2Proof.Stmt.BudgetAndNeed : Prop :=
  ∀ s : State,
    planBudget s ≤ chipBudget s ∧ (s.pf.est = true → planBudget s * 10 ≤ chipBudget s * 9) ∧
    (let busy := (s.sch.nodes.map fun n => n.num).filter fun m => !nodeIdle m s
     0 < (busy.map fun m => nodeShare m s).sum → (busy.map fun m => nodeBudget m s).sum ≤ planBudget s) ∧
    ∀ (n chip : Nat) (pred : List Nat),
      let m := needOf n chip pred s
      let fits := fun (c : Nat) => planEnergy chip (pred.getD (c - 1) 0) s ≤ nodeBudget n s
      (nodeIdle n s = true → nodeBudget n s = 0 ∧ m = 1) ∧
      (nodeIdle n s = false → 1 ≤ m ∧ m ≤ 16 ∧ (m < 16 → fits m) ∧ ∀ c, 1 ≤ c → c < m → ¬ fits c)

/-- R372, R374, R375, R376, R378, R383, R394: grants, trades and the fallback grant after ten whole intervals without one; a
capping decision in FULL with none pending takes the cadence that serves every member's need, here and on peer chips, slower for a
hot member, faster by one step at most, from a cycle 10 µs ahead, 100 µs over chip links, and tells every VF of the collective;
the change holds from its cycle on; a link that fails leaves every collective, and the peer's commands under way over it end (R258).
The model's choices: a decision that meets a pending change makes none (log 72), trades go on until they are undone and a chip offers
what it has not offered yet (log 64). -/
def Sys2Proof.Stmt.TokensAndCadence : Prop :=
  ∀ (s : State) (mj : Nat),
    (∃ t, exec (.tokenGrant mj) s = .next t ∧ OnlyPower s t ∧ t.pow.grant = mj ∧ t.pow.grantAt = s.now / 1250000) ∧
    (exec (.tokenTrade true mj) s = .next { s with pow := { s.pow with
      trades := s.pow.trades ++ [(s.now / 1250000 + 1, true, mj)] } }) ∧
    (let out := ((s.pow.trades.filter fun t => !t.2.1).map fun t => t.2.2).sum
     exec (.tokenTrade false mj) s = .next (if out + mj ≤ s.pow.grant then { s with pow := { s.pow with
      trades := s.pow.trades ++ [(s.now / 1250000 + 1, false, mj)] } } else s)) ∧
    (exec .fallbackGrant s = .next (if s.pow.grantAt + 10 < s.now / 1250000 then
      { s with pow := { s.pow with grant := s.pf.flash.fallback } } else s)) ∧
    (∀ (coll : Nat) (c : Coll) (x : CapNeed), collective coll s = some c →
      let now := c.inForce s
      let new := decideCadence c x s
      let need := fun (i n : Nat) => needOf n x.chip (x.pred.getD i []) s
      (now ≤ 16 → 1 ≤ new ∧ new ≤ 16 ∧ now ≤ new + 1 ∧
        (∀ (i n : Nat), c.nodes[i]? = some n → (need i n ≤ new ∨ new + 1 = now) ∧ (nodeHot n s = true → min 16 (now + 1) ≤ new)) ∧
        (∀ (i p : Nat), i < c.links.length → x.peers[i]? = some p → min 16 p ≤ new ∨ new + 1 = now) ∧
        (s.pf.flow = true → 2 ≤ new ∨ new + 1 = now) ∧
        (now ≤ new → new = 1 ∨ (s.pf.flow = true ∧ new = 2) ∨
          (∃ i n, c.nodes[i]? = some n ∧ (new = need i n ∨ (nodeHot n s = true ∧ new = min 16 (now + 1)))) ∨
          ∃ p ∈ x.peers.take c.links.length, new = min 16 p)) ∧
      (s.pf.phase ≠ 4 ∨ s.pf.save = true ∨ (c.settled s).pending.isSome = true ∨ new = now →
        exec (.cappingDecision coll x) s = .next s) ∧
      (s.pf.phase = 4 → s.pf.save = false → (c.settled s).pending = none → new ≠ now →
        ∃ t, exec (.cappingDecision coll x) s = .next t ∧ t.mem = s.mem ∧ t.ctx.g = s.ctx.g ∧
          collective coll t = some { c.settled s with pending := some (new, s.now + if c.links = [] then 12500 else 125000) } ∧
          ((s.trans.vfs.map Vf.id).Nodup → ∀ f ∈ s.trans.vfs, f.node ∈ c.nodes → ∀ a, s.trans.acct? f.id = some a →
            (t.trans.acct? f.id).map VfAcct.notices = some ((a.notices + 1) % 65536)))) ∧
    (∀ coll c new at', collective coll s = some c → c.pending = some (new, at') →
      (s.now < at' → c.inForce s = c.cadence ∧ exec (.cadenceApply coll) s = .next s) ∧
      (at' ≤ s.now → c.inForce s = new ∧ ∃ t, exec (.cadenceApply coll) s = .next t ∧ OnlyPower s t ∧
        collective coll t = some { c with cadence := new, pending := none })) ∧
    (∀ link, ∃ t, exec (.chipLinkFailure link) s = .next t ∧ link ∈ t.pf.linksDown ∧ (∀ c ∈ t.pow.colls, link ∉ c.links) ∧
      t.cp.peerSlots = s.cp.peerSlots.filter (fun e => e.1 != link) ∧ t.ctx = s.ctx ∧
      ((∀ e ∈ s.cp.peerSlots, e.1 ≠ link) → OnlyPower s t))

/-- R242, R377, R378, R379: a refit keeps every weight within 50 to 150 % of its factory value; three residuals in a row above 5 % of the
measured energy, or no shunt reading, make the estimator fall back, three good refits in a row end it; in the fallback the measured
power is kept; a VF's energy never decreases, by nothing where the VF neither counted an event nor had slice time, and the part below
a microjoule is carried; STALLR takes its value. The estimator's arithmetic, the shares of leakage and the operands that the rows take
from outside, STALLR's among them, are the model's choices (log 92). -/
def Sys2Proof.Stmt.EstimationAndEnergy : Prop :=
  ∀ (s : State) (uj rms : Nat) (counts : List Nat),
    let kept := fun (t : State) => t.pow.weights.length = counts.length ∧ ∀ i w, t.pow.weights[i]? = some w →
      factoryPj (i + 1) / 2 ≤ w ∧ w ≤ factoryPj (i + 1) * 3 / 2
    (∃ t, exec (.estimatorRefit none rms counts) s = .next t ∧ OnlyPower s t ∧ t.pf.est = true ∧ t.pow.goodFits = 0 ∧
      t.pow.weights = s.pow.weights ∧ t.pow.cov = s.pow.cov) ∧
    (20 * rms ≤ uj → ∃ t, exec (.estimatorRefit (some uj) rms counts) s = .next t ∧ OnlyPower s t ∧ t.pow.badFits = 0 ∧
      t.pow.goodFits = s.pow.goodFits + 1 ∧ (t.pf.est = true ↔ s.pf.est = true ∧ s.pow.goodFits + 1 < 3) ∧ kept t) ∧
    (uj < 20 * rms → ∃ t, exec (.estimatorRefit (some uj) rms counts) s = .next t ∧ OnlyPower s t ∧ t.pow.goodFits = 0 ∧
      t.pow.badFits = s.pow.badFits + 1 ∧ (t.pf.est = true ↔ s.pf.est = true ∨ 3 ≤ s.pow.badFits + 1) ∧ kept t) ∧
    (∀ mw, exec (.telemetryRead mw) s = .next (if s.pf.est = true then { s with pow := { s.pow with measured := mw } } else s)) ∧
    (∀ vf x a, s.trans.acct? vf = some a → ∃ t b, exec (.energyRefresh vf x) s = .next t ∧ t.trans.acct? vf = some b ∧
      b.energy.toNat = min (a.energy.toNat + (a.energyPj + energyGain vf x s) / 1000000) (2 ^ 64 - 1) ∧
      b.energyPj = (a.energyPj + energyGain vf x s) % 1000000 ∧ a.energy.toNat ≤ b.energy.toNat ∧
      ((∀ c ∈ x.counts, c = 0) → x.mine = 0 → energyGain vf x s = 0) ∧
      (∀ v, v ≠ vf → t.trans.acct? v = s.trans.acct? v) ∧ t.mem = s.mem ∧ t.ctx = s.ctx) ∧
    (∀ k v, ∃ t, exec (.stallrUpdate k v) s = .next t ∧ OnlyPower s t ∧ clusterAt k t = { clusterAt k s with stallr := v } ∧
      ∀ j, j ≠ k → clusterAt j t = clusterAt j s)

/-- Together: BudgetAndNeed, TokensAndCadence, EstimationAndEnergy. -/
def Obligations.TokensCadenceAndEstimation : Prop :=
  Sys2Proof.Stmt.BudgetAndNeed ∧ Sys2Proof.Stmt.TokensAndCadence ∧ Sys2Proof.Stmt.EstimationAndEnergy

/-- What a cluster becomes when it is asked for a frequency and a bias: during a stop on its cells another frequency waits; with the
bias as it is, the supply high enough and nothing settling the change is made at once; else it settles at the lower clock. -/
def Sys2Proof.Stmt.askedCluster (k f : Nat) (b : Int) (s : State) : Cluster :=
  let c := clusterAt k s
  if f ≠ c.freq ∧ stopOnCluster k s = true then { c with settling := some (f, b) }
  else if b = c.bias ∧ vmin f b ≤ (supplyAt (k / 16) s).mv ∧ c.settling = none then c.atFreq f s
  else { c.atFreq (min c.freq f) s with settling := some (f, b) }

/-- R380, R381, R382, R384, R399: SETV outside 600 to 850 mV or under what a cluster of the die needs is refused with its code and
moves no supply; SETFB past 850 mV is refused, and else changes the cluster at once when the supply serves it, or settles at the
lower clock with the supply's target raised, no frequency changing during a stop on its cells. What names no step of 25 mV, none
of the five frequencies or no step of 50 mV of bias, another frequency in REDUCED and any SETFB during an emergency save are no
requests (log 92). The supply moves by steps of 25 mV and never past its target; a clock that changes keeps what it has counted.
-/
def Obligations.ClocksFollowTheSupply : Prop :=
  ∀ (s : State) (die : Nat),
    (∀ mv : Nat,
      let low := ∃ i, i < 16 ∧ (mv : Int) < clusterVmin (clusterAt (die * 16 + i) s)
      let shows := fun (code : Nat) => exec (.setv die mv) s = .next { s with pf := { s.pf with eff := code } }
      (mv < 600 → shows 1) ∧ (850 < mv → shows 2) ∧
      (600 ≤ mv → mv ≤ 850 → (mv % 25 ≠ 0 → exec (.setv die mv) s = .next s) ∧
        (mv % 25 = 0 → low → shows 3) ∧
        (mv % 25 = 0 → ¬ low → ∃ t, exec (.setv die mv) s = .next t ∧ OnlyPower s t ∧ t.pf.eff = 0 ∧
          (supplyAt die t).target = mv ∧ (supplyAt die t).mv = (supplyAt die s).mv ∧
          (∀ d, d ≠ die → supplyAt d t = supplyAt d s) ∧ t.pow.clusters = s.pow.clusters))) ∧
    (∀ k f b,
      let named := f ≤ 4 ∧ -300 ≤ b ∧ b ≤ 200 ∧ b % 50 = 0
      let asked := named ∧ (s.pf.phase = 4 ∨ f = 0) ∧ s.pf.save = false
      (¬ asked → exec (.setfb k f b) s = .next s) ∧
      (asked → 850 < vmin f b → exec (.setfb k f b) s = .next { s with pf := { s.pf with eff := 4 } }) ∧
      (asked → vmin f b ≤ 850 → ∃ t, exec (.setfb k f b) s = .next t ∧ OnlyPower s t ∧ t.pf.eff = 0 ∧
        ((supplyAt (k / 16) t).target : Int) = max ((supplyAt (k / 16) s).target : Int) (vmin f b) ∧
        (supplyAt (k / 16) t).mv = (supplyAt (k / 16) s).mv ∧ (∀ j, j ≠ k → clusterAt j t = clusterAt j s) ∧
        clusterAt k t = askedCluster k f b s)) ∧
    (∀ (c : Cluster) f, (c.atFreq f s).freq = f ∧ (c.atFreq f s).clock s = c.clock s) ∧
    (∃ t, exec (.voltageStepSettled die) s = .next t ∧ OnlyPower s t ∧ (supplyAt die t).target = (supplyAt die s).target ∧
      let old := (supplyAt die s).mv
      let new := (supplyAt die t).mv
      let goal := (supplyAt die s).target
      (old ≤ goal → old ≤ new ∧ new ≤ goal ∧ new ≤ old + 25 ∧ (new = goal ∨ new = old + 25)) ∧
      (goal ≤ old → goal ≤ new ∧ new ≤ old ∧ old ≤ new + 25 ∧ (new = goal ∨ new + 25 = old))) ∧
    (∀ k f b, (clusterAt k s).settling = some (f, b) →
      let held := f ≠ (clusterAt k s).freq ∧ stopOnCluster k s = true
      (((supplyAt (k / 16) s).mv : Int) < vmin f b ∨ held → exec (.biasSettled k) s = .next s) ∧
      (vmin f b ≤ ((supplyAt (k / 16) s).mv : Int) → ¬ held → ∃ t, exec (.biasSettled k) s = .next t ∧ OnlyPower s t ∧
        clusterAt k t = { (clusterAt k s).atFreq f s with bias := b, settling := none }))

/-- R382, R383, R384, R385: a reading is held, and a node is hot from 100 °C of its hottest junction until that falls below 97 °C;
a stack's refresh follows its temperature with 3 °C of hold; 118 °C turns the dies off at once; 108 °C, a stack past its last step
or a coolant flow under 3 L/min starts the emergency save: cadence 16, the lowest clock, every slice stopped, no header of the
save region set; a save that has begun waits for the stops, then writes one context after another, and with all dealt with turns
the dies off; a flow under 6 L/min shows in the status. A cluster with a stop under way takes the lowest clock after it (R382).
How the sensors are numbered and where the headers of the save region stand is the model's choice (log 16). -/
def Sys2Proof.Stmt.HeatAndCoolant : Prop :=
  ∀ (s : State) (sensor c : Nat),
    let saving := fun (t : State) => t.pf.save = true ∧ (∀ k ∈ t.pow.colls, k.cadence = 16 ∧ k.pending = none) ∧
      (∀ k ∈ t.pow.clusters, if stopOnCluster k.id s = true then k.settling = some (0, k.bias) else k.freq = 0 ∧ k.settling = none) ∧
      t.ctx = s.ctx ∧ t.pow.saved = 0 ∧
      (s.mem.wf = true → ∀ a, (∀ b n, s.pow.saveRegion = some (b, n) → a < b ∨ b + n ≤ a) → t.mem.byte a = s.mem.byte a) ∧
      (s.mem.wf = true → s.mem.veil = [] → ∀ b n i, s.pow.saveRegion = some (b, n) → i < (allCtxs s).length →
        (i + 1) * saveStride ≤ n → t.mem.byte (b + i * saveStride) = 0) ∧
      ∀ n ∈ t.sch.nodes, ∀ vf e, n.phase ≠ .slice vf e
    (118 ≤ c → ∃ t, exec (.thermalSample sensor c) s = .next t ∧ t.pow.off = true ∧ t.live = false ∧ t.parked = [] ∧ t.pf.phase = 0) ∧
    (s.pf.save = false →
      (sensor < 132 → c < 108 → ∃ t, exec (.thermalSample sensor c) s = .next t ∧ OnlyPower s t ∧ t.pf = s.pf ∧
        tempOf sensor t = c ∧ (∀ k, k ≠ sensor → tempOf k t = tempOf k s) ∧
        ∀ n ∈ s.sch.nodes,
          let top := hottest n.num t
          (∀ k, (nodeFrame n.num).die * 16 ≤ k → k < ((nodeFrame n.num).die + (nodeFrame n.num).dies) * 16 → tempOf k t ≤ top) ∧
          (n.num ∈ t.pow.hot ↔ 100 ≤ top ∨ (97 ≤ top ∧ n.num ∈ s.pow.hot))) ∧
      (108 ≤ c → c < 118 → ∃ t, exec (.thermalSample sensor c) s = .next t ∧ saving t) ∧
      (132 ≤ sensor → c < 108 →
        let old := ((s.pow.refresh.find? fun e => e.1 == sensor - 132).map Prod.snd).getD 0
        let step := if 105 < c ∨ (3 ≤ old ∧ 102 < c) then 3 else if 95 < c ∨ (2 ≤ old ∧ 92 < c) then 2
          else if 85 < c ∨ (1 ≤ old ∧ 82 < c) then 1 else 0
        ∃ t, exec (.thermalSample sensor c) s = .next t ∧
          ((t.pow.refresh.find? fun e => e.1 == sensor - 132).map Prod.snd).getD 0 = step ∧
          (step = 3 → saving t) ∧ (step ≠ 3 → OnlyPower s t ∧ t.pf = s.pf)) ∧
      (∀ dl, 30 ≤ dl → exec (.coolantFlowLow dl) s = .next { s with pf := { s.pf with flow := decide (dl < 60) } }) ∧
      (∀ dl, dl < 30 → ∃ t, exec (.coolantFlowLow dl) s = .next t ∧ t.pf.flow = true ∧ saving t)) ∧
    (s.pf.save = true → ∀ dl,
      (allStopped s = false → exec (.coolantFlowLow dl) s = .next { s with pf := { s.pf with flow := decide (dl < 60) } }) ∧
      (allStopped s = true →
        (∀ p b n, (savedCtxs s)[s.pow.saved]? = some p → s.pow.saveRegion = some (b, n) →
          ∃ t, exec (.coolantFlowLow dl) s = .next t ∧ t.pow.saved = s.pow.saved + 1 ∧ t.pow.off = s.pow.off ∧ t.ctx = s.ctx ∧
            t.sch = s.sch ∧ (n < (s.pow.saved + 1) * saveStride → t.mem = s.mem) ∧
            (s.mem.wf = true → ∀ a, a < b ∨ b + n ≤ a → t.mem.byte a = s.mem.byte a)) ∧
        ((savedCtxs s)[s.pow.saved]? = none ∨ s.pow.saveRegion = none →
          ∃ t, exec (.coolantFlowLow dl) s = .next t ∧ t.pow.off = true ∧ t.live = false ∧ t.parked = [])))

/-- R381, R395, R397, R398, R399: from power-on the ROM starts, then goes on to firmware with a present image whose signature
verifies, firmware to REDUCED with a signed configuration, the key and trained memory, and to FULL with every cluster asked for
1.25 GHz and every supply's target high enough; the first thing that is missing stops boot with its code. Out of their phase these
have no effect. That a bias the supply could not serve at 1.25 GHz goes to 0 is the model's choice (log 92), and so is that
POWER_ON_RESET acts in PHASE 0 and 1 alone (log 77). -/
def Sys2Proof.Stmt.BootGoesByPhases : Prop :=
  ∀ s : State,
    let fl := s.pf.flash
    (s.pf.phase ≠ 0 → s.pf.phase ≠ 1 → exec .powerOnReset s = .next s) ∧
    (s.pf.phase = 0 → ∃ t, exec .powerOnReset s = .next t ∧ OnlyPower s t ∧ t.pf.phase = 1 ∧ t.pow.off = false ∧ t.pf.save = false) ∧
    (s.pf.phase = 1 → ∃ t, exec .powerOnReset s = .next t ∧ OnlyPower s t ∧ (t.pf.phase, t.pf.fail) =
      if fl.imagePresent = false then (15, 1) else if fl.imageOk = false then (15, 2) else (2, s.pf.fail)) ∧
    (s.pf.phase ≠ 2 → exec .enterReduced s = .next s) ∧
    (s.pf.phase = 2 → ∃ t, exec .enterReduced s = .next t ∧ t.mem = s.mem ∧ t.ctx = s.ctx ∧
      (t.pf.phase, t.pf.fail, t.fab.remap, t.pow.calib) =
        if fl.configOk = false then (15, 3, s.fab.remap, s.pow.calib)
        else if fl.pufOk = false then (15, 4, s.fab.remap, s.pow.calib)
        else if fl.hbmOk = false then (15, 5, s.fab.remap, s.pow.calib)
        else (3, s.pf.fail, fl.remap, fl.calib)) ∧
    (s.pf.phase ≠ 3 ∨ s.pf.save = true → exec .enterFull s = .next s) ∧
    (s.pf.phase = 3 → s.pf.save = false → ∃ t, exec .enterFull s = .next t ∧ OnlyPower s t ∧ t.pf.phase = 4 ∧
      (∀ die, (supplyAt die t).mv = (supplyAt die s).mv) ∧
      ∀ k, k < 128 →
        let b := if vmin 4 (clusterAt k s).bias ≤ 850 then (clusterAt k s).bias else 0
        vmin 4 b ≤ ((supplyAt (k / 16) t).target : Int) ∧ clusterAt k t = askedCluster k 4 b s)

/-- Together: HeatAndCoolant, BootGoesByPhases. -/
def Obligations.HeatAndBoot : Prop := Sys2Proof.Stmt.HeatAndCoolant ∧ Sys2Proof.Stmt.BootGoesByPhases

/-! ### Commands of the PF and requests of the VFs -/

/-- A command ended with a status and changed nothing else. -/
def Sys2Proof.Stmt.EndsWith (i : Instr) (code : Nat) (s : State) : Prop :=
  exec i s = .next { s with pf := { s.pf with cmdStatus := w64 code } }

/-- A command was done: status 0; what it says of the state after. -/
def Sys2Proof.Stmt.Done (i : Instr) (s : State) (p : State → Prop) : Prop :=
  ∃ t, exec i s = .next t ∧ t.pf.cmdStatus = 0 ∧ p t

/-- Every slot of a VF's generation has advanced by one, modulo 4,096. -/
def Sys2Proof.Stmt.AllBumped (vf : Nat) (s t : State) : Prop :=
  ∀ k, k < 256 → generation vf k t = (generation vf k s).map fun g => (g + 1) % 4096

/-- R17, R179, R187, R194, R196, R243, R252, R303, R337, R363, R374, R391, R396, R399: a part that does not serve ignores the PF's
commands; one that serves ends each with status 0 and its effect, 2 for a bad argument, 3 for a refusal, and a command that fails
changes nothing; one that has to wait for accesses under old generations is not begun, nor is any while the area's command is
busy. A VF that moves leaves its slice entries on the old node invalid, and a node that hosts none is not active any more. The
model's choices: the places, ranges and units of the arguments and that a new mode bumps every slot (log 16), the order of the
report's fields (log 23), when SETBUDGET takes effect (log 62), what SETMBOX resets (log 63), and where ASSIGNVF is refused (log
66). -/
def Obligations.PfCommandsActOrRefuse : Prop :=
  ∀ s : State,
    (serves s = false ∨ s.pf.cmdStatus.getLsbD 63 = true → ∀ (a b c d : Nat) (x : Bool) (e : BitVec 128) (w : BitVec 16) (sc : Scope) (o : Option Nat) (l : List Byte),
      ∀ i ∈ [Instr.assignvf a b c x, .sets2 a b e, .setslice a b c d x, .setcoll a b, .setway a b w, .setscope a sc, .setmbox a o,
        .setbudget a b c d, .resetdie a, .saveregion a b, .attest l, .s2reply a b c], exec i s = .next s) ∧
    (serves s = true → s.pf.cmdStatus.getLsbD 63 = false →
      (∀ vf node share compat,
        (1024 ≤ vf ∨ 4095 ≤ node → EndsWith (.assignvf vf node share compat) 2 s) ∧
        (vf < 1024 → node < 4095 →
          let moded := ∃ f, s.trans.vf? vf = some f ∧ f.compat ≠ compat
          let refused := (s.pf.phase = 3 ∧ 2 < (nodeFrame node).die + (nodeFrame node).dies) ∨ (moded ∧ vfPresent vf s = true) ∨
            (∃ f, s.trans.vf? vf = some f ∧ f.node ≠ node ∧ vfPresent vf s = true) ∨
            (∃ n ∈ s.sch.nodes, n.num ≠ node ∧ nodesMeet n.num node = true ∧ nodeIdle n.num s = false) ∨
            16 ≤ (s.trans.vfs.filter fun x => x.node == node && x.id != vf).length
          (refused → EndsWith (.assignvf vf node share compat) 3 s) ∧
          (¬ refused → moded → vfBusy vf s = true → exec (.assignvf vf node share compat) s = .next s) ∧
          (¬ refused → (moded → vfBusy vf s = false) →
            Done (.assignvf vf node share compat) s fun t => (nodeAt node t).isSome = true ∧ t.mem = s.mem ∧ t.ctx = s.ctx ∧
              (∀ f, s.trans.vf? vf = some f → ∃ g, (f.compat = compat → g = f.gens) ∧
                t.trans.vf? vf = some { f with node := node, share := share, compat := compat, gens := g }) ∧
              (moded → AllBumped vf s t) ∧
              (s.trans.vf? vf = none → t.trans.vf? vf = some (Vf.fresh vf node share compat)) ∧
              (∀ f, s.trans.vf? vf = some f → f.node ≠ node →
                (∀ n, nodeAt f.node t = some n → ∀ e ∈ n.slices, e.2.2 = true → e.1 ≠ vf) ∧
                ((∀ x ∈ s.trans.vfs, x.node = f.node → x.id = vf) → nodeAt f.node t = none)) ∧
              ∀ v, v ≠ vf → t.trans.vf? v = s.trans.vf? v))) ∧
      (∀ vf i e,
        (s.trans.vf? vf = none → EndsWith (.sets2 vf i e) 2 s) ∧
        ∀ f, s.trans.vf? vf = some f →
          (48 ≤ i → f.compat = false → EndsWith (.sets2 vf i e) 2 s) ∧
          (∀ h : i < 48, fld e.toNat 115 13 = 0 → fld e.toNat 1 15 = 0 → (e.getLsbD 0 = true → s2Base e ≤ s2Limit e) →
            (e.getLsbD 0 = true → s2Allowed f e = false → EndsWith (.sets2 vf i e) 3 s) ∧
            ((e.getLsbD 0 = true → s2Allowed f e = true) → vfBusy vf s = true → exec (.sets2 vf i e) s = .next s) ∧
            ((e.getLsbD 0 = true → s2Allowed f e = true) → vfBusy vf s = false →
              Done (.sets2 vf i e) s fun t => AllBumped vf s t ∧ t.mem = s.mem ∧
                (t.trans.vf? vf).map Vf.s2 = some (f.s2.set i e) ∧ ∀ v, v ≠ vf → t.trans.vf? v = s.trans.vf? v)) ∧
          (48 ≤ i → i < 112 → f.compat = true → fld e.toNat 115 13 = 0 → fld e.toNat 1 15 = 0 →
            (e.getLsbD 0 = true → s2Base e ≤ s2Limit e) → vfBusy vf s = false →
            Done (.sets2 vf i e) s fun t => AllBumped vf s t ∧ t.mem = s.mem ∧
              ((t.trans.vf? vf).bind fun g => g.ranges[i - 48]?) = some (rangeReg e))) ∧
      (∀ node i vf units valid n, nodeAt node s = some n →
        (16 ≤ i ∨ (valid = true ∧ (units = 0 ∨ 255 < units)) → EndsWith (.setslice node i vf units valid) 2 s) ∧
        (i < 16 → (valid = true → 1 ≤ units ∧ units ≤ 255) →
          (valid = true → (s.trans.vf? vf).map Vf.node ≠ some node → EndsWith (.setslice node i vf units valid) 3 s) ∧
          ((valid = true → (s.trans.vf? vf).map Vf.node = some node) → Done (.setslice node i vf units valid) s fun t =>
            NodeBecomes node { n with slices := n.slices.set i (vf, units, valid) } s t ∧ t.mem = s.mem ∧ t.ctx = s.ctx))) ∧
      (∀ node coll, node < 4096 →
        (nodeAt node s = none → EndsWith (.setcoll node coll) 2 s) ∧
        ((nodeAt node s).isSome = true → Done (.setcoll node coll) s fun t => OnlyPower s t ∧
          (∃ c ∈ t.pow.colls, c.id = coll ∧ node ∈ c.nodes) ∧ ∀ c ∈ t.pow.colls, node ∈ c.nodes → c.id = coll)) ∧
      (∀ vf cell m f, s.trans.vf? vf = some f → cell < 2048 → Done (.setway vf cell m) s fun t =>
        wayMask t vf cell = m ∧ (∀ c, c ≠ cell → wayMask t vf c = wayMask s vf c) ∧ t.mem = s.mem ∧ t.ctx = s.ctx) ∧
      (∀ vf sc f, s.trans.vf? vf = some f → Done (.setscope vf sc) s fun t =>
        t.trans.vf? vf = some { f with scopecap := sc } ∧ (∀ v, v ≠ vf → t.trans.vf? v = s.trans.vf? v) ∧ t.mem = s.mem ∧ t.ctx = s.ctx) ∧
      (∀ n o, n < 256 → (∀ v, o = some v → (s.trans.vf? v).isSome = true) → Done (.setmbox n o) s fun t =>
        (∃ m, mbox? t n = some m ∧ m.vf = o ∧ m.state = .idle ∧ m.owed = none ∧ m.waiting = none ∧ m.current = none ∧ m.hart = none ∧
          m.image = none ∧ m.minver = 0 ∧ m.wdstep = 0 ∧ m.wdtotal = 0) ∧
        (∀ k, k ≠ n → mbox? t k = mbox? s k) ∧ n ∉ t.api.queue ∧ (∀ c ∈ t.api.cores, c.2 ≠ n) ∧ t.mem = s.mem) ∧
      (∀ vf units period weight a, (s.trans.vf? vf).isSome = true → s.trans.acct? vf = some a →
        (weight = 0 ∨ 16 < weight → EndsWith (.setbudget vf units period weight) 2 s) ∧
        (1 ≤ weight → weight ≤ 16 → Done (.setbudget vf units period weight) s fun t => ∃ b, t.trans.acct? vf = some b ∧
          b.alloc = units ∧ b.period = period ∧ b.weight = weight ∧ b.budget = a.budget ∧ b.periodStart = a.periodStart ∧ t.mem = s.mem)) ∧
      (∀ die, (12 ≤ die → EndsWith (.resetdie die) 2 s) ∧
        (die < 12 → s.fab.lost.getLsbD die = false → EndsWith (.resetdie die) 3 s) ∧
        (die < 12 → s.fab.lost.getLsbD die = true → Done (.resetdie die) s fun t => t.fab.lost.getLsbD die = false ∧
          (∀ d, d ≠ die → t.fab.lost.getLsbD d = s.fab.lost.getLsbD d) ∧ t.ctx = s.ctx ∧
          (s.mem.wf = true → s.mem.veil = [] → ∀ a, t.mem.byte a = if ofDie die a then 0 else s.mem.byte a))) ∧
      (∀ base size, 2 ^ 47 ≤ base → base + size ≤ 2 ^ 48 → 0 < size → Done (.saveregion base size) s fun t =>
        (s.pf.save = false → OnlyPower s t) ∧ t.pow.saveRegion = some (base, size)) ∧
      (∀ base size, base < 2 ^ 47 ∨ 2 ^ 48 < base + size ∨ size = 0 → EndsWith (.saveregion base size) 2 s) ∧
      (∀ nonce, nonce.length = 32 → Done (.attest nonce) s fun t =>
        let r := s.pf.flash.report nonce
        r.take 96 = nonce ++ digest s.pf.flash.image ++ digest s.pf.flash.config ∧
        (r.drop 102).take 64 = sm2Public (Config.pufKey s.pf.flash.pufHelper) ∧
        t.pf.report = r ++ sm2Sign (Config.pufKey s.pf.flash.pufHelper) (Config.signerNonce s.freeNo) r ∧
        t.mem = s.mem ∧ t.ctx = s.ctx) ∧
      (∀ vf st r a, (s.trans.vf? vf).isSome = true → s.trans.acct? vf = some a →
        (a.s2wait = false → EndsWith (.s2reply vf st r) 3 s) ∧
        (a.s2wait = true → Done (.s2reply vf st r) s fun t => t.mem = s.mem ∧ t.ctx.g = s.ctx.g ∧
          (a.mbox.isSome = true → ∃ b, t.trans.acct? vf = some b ∧ b.mbox = none ∧ b.s2wait = false))))

/-- An unanswered request of a VF with this code that firmware can serve: its account, sequence number, issuer and the arguments. -/
def Sys2Proof.Stmt.Asks (vf code : Nat) (s : State) (seq : Nat) (k : Key) (arg : Nat → Nat) : Prop :=
  serves s = true ∧ ∃ a, s.trans.acct? vf = some a ∧ a.mbox = some (seq, k) ∧ a.s2wait = false ∧
    ofBytes (a.request.take 2) = code ∧ ofBytes ((a.request.drop 2).take 6) = 0 ∧
    ∀ i, arg i = ofBytes ((a.request.drop (8 + 8 * i)).take 8)

/-- The row answers: the mailbox is free and the issuer, whose queue has room, is told sequence number, status and result. -/
def Sys2Proof.Stmt.Told (i : Instr) (vf seq status result : Nat) (k : Key) (s : State) (p : State → Prop) : Prop :=
  ∃ t, exec i s = .next t ∧ p t ∧ (∃ b, t.trans.acct? vf = some b ∧ b.mbox = none ∧ b.s2wait = false) ∧
    t.ctx.g = s.ctx.g ∧ ∀ c, ctxOf k s = some c → c.qs.qnt.length < 64 → (ctxOf k t).map (fun c => c.qs.qnt) =
      some (c.qs.qnt ++ [w64 (7 * 2 ^ 56 + seq % 65536 + status % 65536 * 2 ^ 16 + result % 2 ^ 24 * 2 ^ 32)])

/-- The row answers and memory is as it was. -/
def Sys2Proof.Stmt.Answers (i : Instr) (vf seq status result : Nat) (k : Key) (s : State) (p : State → Prop) : Prop :=
  Told i vf seq status result k s fun t => p t ∧ t.mem = s.mem

/-- R175, R183, R194, R248, R258, R266, R338, R376, R392, R393: each request is answered to its issuer with its sequence number, its
effect done: the root with every slot bumped once no access under the old generations is open, a page in the reserve (64 for each
VF, log 91), a relocation asked for, a queue entry, a ring published or withdrawn, the cadence read; a bad argument is answered 2
and a refusal 4 with nothing done; S2REQ waits for the host; reserved bytes are answered 2 and an unknown code 1. UNPUBLISH ends the
peer's commands under way to its ring. That whichever row meets an unknown code or reserved bytes answers them is the model's choice
(log 67). -/
def Obligations.VfRequestsAreAnswered : Prop :=
  ∀ (s : State) (vf seq : Nat) (k : Key) (arg : Nat → Nat),
    (Asks vf 1 s seq k arg →
      (arg 0 % 16384 = 0 → arg 0 < 2 ^ 48 → vfBusy vf s = true → exec (.setroot vf) s = .next s) ∧
      (arg 0 % 16384 = 0 → arg 0 < 2 ^ 48 → vfBusy vf s = false → (s.trans.vf? vf).isSome = true →
        Answers (.setroot vf) vf seq 0 0 k s fun t => (t.trans.vf? vf).map Vf.root = some (arg 0) ∧ AllBumped vf s t) ∧
      (arg 0 % 16384 ≠ 0 ∨ 2 ^ 48 ≤ arg 0 → Answers (.setroot vf) vf seq 2 0 k s fun t => t.trans.vf? vf = s.trans.vf? vf)) ∧
    (Asks vf 2 s seq k arg → ∀ core page, vfPage vf (w64 (arg 0)) s = some (core, page) →
      let mine := (s.fab.reserve.filter fun r => r.vf == vf).length
      let fits := ptrWin (w64 (arg 0)) = 0 ∧ ptrOff (w64 (arg 0)) % 4096 = 0 ∧ ⟨vf, core, page⟩ ∉ s.fab.reserve ∧
        cellOf core ∉ s.fab.retired
      (fits → mine < 64 → Answers (.reserve vf) vf seq 0 (mine + 1) k s fun t => t.fab.reserve = s.fab.reserve ++ [⟨vf, core, page⟩]) ∧
      (fits → 64 ≤ mine → Answers (.reserve vf) vf seq 4 0 k s fun t => t.fab = s.fab) ∧
      (¬ fits → Answers (.reserve vf) vf seq 2 0 k s fun t => t.fab = s.fab)) ∧
    (Asks vf 2 s seq k arg → vfPage vf (w64 (arg 0)) s = none → Answers (.reserve vf) vf seq 2 0 k s fun t => t.fab = s.fab) ∧
    (Asks vf 3 s seq k arg → ∀ core page, vfPage vf (w64 (arg 0)) s = some (core, page) →
      let asked := (s.fab.relocQ.filter fun q => q.1 == vf).length
      let mine := (s.fab.reserve.filter fun r => r.vf == vf).length
      let fresh := (vf, core, page) ∉ s.fab.relocQ
      (fresh → asked < mine → Answers (.relocate vf) vf seq 0 0 k s fun t => t.fab.relocQ = s.fab.relocQ ++ [(vf, core, page)]) ∧
      (fresh → mine ≤ asked → Answers (.relocate vf) vf seq 4 0 k s fun t => t.fab = s.fab) ∧
      (¬ fresh → Answers (.relocate vf) vf seq 2 0 k s fun t => t.fab = s.fab)) ∧
    (Asks vf 4 s seq k arg → ∀ f, s.trans.vf? vf = some f →
      (arg 1 / 2 ^ 9 % 2 ^ 7 = 0 → Answers (.setq vf) vf seq 0 0 k s fun t =>
        (t.trans.vf? vf).map Vf.queues = some (f.queues.set! (arg 0 % 16) (BitVec.ofNat 16 (arg 1)))) ∧
      (arg 1 / 2 ^ 9 % 2 ^ 7 ≠ 0 → Answers (.setq vf) vf seq 2 0 k s fun t => t.trans.vf? vf = some f)) ∧
    (Asks vf 5 s seq k arg → ∃ t, exec (.s2req vf) s = .next t ∧ t.mem = s.mem ∧ t.ctx = s.ctx ∧
      ∃ b, t.trans.acct? vf = some b ∧ b.s2wait = true ∧ b.mbox = some (seq, k)) ∧
    (Asks vf 6 s seq k arg → ∀ core page, vfPage vf (w64 (arg 0)) s = some (core, page) →
      (ptrWin (w64 (arg 0)) = 0 → ptrOff (w64 (arg 0)) % 32 = 0 → s.cp.rings.length < 65536 →
        ∃ n, (∀ r ∈ s.cp.rings, r.1 ≠ n) ∧ Answers (.publish vf) vf seq 0 n k s fun t => t.cp.rings = s.cp.rings ++
          [(n, vf, scratchAddr core (ptrOff (w64 (arg 0))), arg 1 % 16, arg 1 / 2 ^ 16 % 1024)]) ∧
      (ptrWin (w64 (arg 0)) ≠ 0 ∨ ptrOff (w64 (arg 0)) % 32 ≠ 0 → s.cp.rings.length < 65536 →
        Answers (.publish vf) vf seq 2 0 k s fun t => t.cp = s.cp)) ∧
    (Asks vf 7 s seq k arg →
      ((∃ r ∈ s.cp.rings, r.1 = arg 0 % 65536 ∧ r.2.1 = vf) → Told (.unpublish vf) vf seq 0 0 k s fun t =>
        t.cp.rings = s.cp.rings.filter (fun r => r.1 != arg 0 % 65536) ∧
        t.cp.peerSlots = s.cp.peerSlots.filter (fun e => e.2.1 != arg 0 % 65536) ∧
        ((∀ e ∈ s.cp.peerSlots, e.2.1 ≠ arg 0 % 65536) → t.mem = s.mem)) ∧
      ((∀ r ∈ s.cp.rings, ¬(r.1 = arg 0 % 65536 ∧ r.2.1 = vf)) → Answers (.unpublish vf) vf seq 2 0 k s fun t => t.cp = s.cp)) ∧
    (Asks vf 8 s seq k arg → ∀ f a, s.trans.vf? vf = some f → s.trans.acct? vf = some a →
      Answers (.pwrread vf) vf seq 0 (nodeCadence f.node s % 32 + a.notices % 65536 * 256) k s fun t => t.pow = s.pow) ∧
    ∀ i ∈ [Instr.setroot vf, .reserve vf, .relocate vf, .setq vf, .s2req vf, .publish vf, .unpublish vf, .pwrread vf],
      (∀ code, code = 0 ∨ 8 < code → Asks vf code s seq k arg → Answers i vf seq 1 0 k s fun t => t.fab = s.fab ∧ t.cp = s.cp) ∧
      ∀ a, serves s = true → s.trans.acct? vf = some a → a.mbox = some (seq, k) → a.s2wait = false →
        ofBytes ((a.request.drop 2).take 6) ≠ 0 → Answers i vf seq 2 0 k s fun t => t.fab = s.fab ∧ t.cp = s.cp

/-! ### Encoding, the step, the invariant, reset -/

/-- R20 to R59: words of the spec's examples decode to the instructions they stand for. -/
def Obligations.DecodesWrittenWords : Prop :=
  decodeTableWord 32 0x1C616503 = some (.sltu (.m 10) (.m 11) (.m 12)) ∧
  decodeTableWord 32 0x5000C283 = some (.clz (.m 5) (.m 6)) ∧
  decodeTableWord 32 0x04190393 = some (.srai (.m 7) (.m 8) 3) ∧
  decodeTableWord 32 0x0000BB05 = some (.addi .qsa (.m 5) 0) ∧
  decodeTableWord 32 0x02594499 = some (.crdmk (.m 9) (.m 10) (.m 11)) ∧
  decodeTableWord 32 0x0E30A239 = some (.fmadd (.m 4) (.m 5) (.m 6) (.m 7)) ∧
  decodeTableWord 32 0x00280055 = some (.trap 5) ∧
  decodeTableWord 32 0x10000055 = some .uret ∧
  decodeTableWord 32 0x0030A04D = some (.evsig (.m 5) (.m 6)) ∧
  decodeTableWord 32 0x000122D9 = some (.vfcall (.m 5) (.m 9)) ∧
  decodeTableWord 16 0 = none

/-- R20 to R61: the encoding of every well-formed instruction that has one, with every operand at every value its field admits,
decodes to that instruction. -/
def Sys2Proof.Stmt.DecodeOfEncode : Prop :=
  ∀ (i : Instr) (e : Enc), i.wf = true → encode i = some e → decodeTableWord e.len e.bits = some i

/-- R20 to R61: every word that decodes stands for a well-formed instruction, and encoding it gives the word's own bits back: no
two words stand for one instruction and no reserved bit is ignored. -/
def Sys2Proof.Stmt.EveryWordHasOneMeaning : Prop :=
  ∀ (w : Nat) (i : Instr), w < 2 ^ 32 → decodeTableWord 32 w = some i →
    i.wf = true ∧ ∃ e, encode i = some e ∧ (e.len = 16 ∨ e.len = 32) ∧ e.bits = w % 2 ^ e.len

/-- Together: DecodeOfEncode, EveryWordHasOneMeaning. -/
def Obligations.EncodingsAreExact : Prop := Sys2Proof.Stmt.DecodeOfEncode ∧ Sys2Proof.Stmt.EveryWordHasOneMeaning

/-- The invariant that memory lists its bytes in rising order with no entry equal to what an unlisted address reads as is kept by every
step from every state. -/
def Obligations.EveryStepKeepsTheInvariant : Prop :=
  ∀ s t : State, step s = .next t → s.Inv → t.Inv

/-- R11, R95, R398: right after reset PHASE is 0, GCYCLE is 0 and nothing runs: no continuation, VF, launch, event, copy command,
engine, episode or collective, no die lost and memory in its canonical form; a continuation that starts has every register 0 but
m2 and m4, all tags clear, 16 active lanes and user privilege. That GCYCLE starts at 0 and every byte of memory reads 0 is the
model's choice (log 3, log 2). -/
def Obligations.ResetLeavesNothingRunning : Prop :=
  State.reset.Inv ∧ State.reset.pf.phase = 0 ∧ State.reset.gcycle = 0 ∧ State.reset.live = false ∧ State.reset.parked = [] ∧
    State.reset.trans.vfs = [] ∧ State.reset.sch.launches = [] ∧ State.reset.sch.events = [] ∧ State.reset.sch.runq = [] ∧
    State.reset.cp.cmds = [] ∧ State.reset.engines = [] ∧ State.reset.api.cores = [] ∧ State.reset.pow.colls = [] ∧
    State.reset.fab.lost = 0 ∧ (∀ a, State.reset.mem.byte a = 0) ∧
    ∀ k gthread ax code saveptr ctrptr arg prio launch seed,
      let c := initialCtx k gthread ax code saveptr ctrptr arg prio launch seed
      (∀ j, j < 32 → c.g.m[j]? = some (if j = 2 then w64 (2 ^ 63 + 15 * 2 ^ 20 + code * 1024) else if j = 4 then arg else 0)) ∧
        (∀ j, j < 16 → c.g.tags[j]? = some false) ∧ (∀ j, j < 8 → c.g.cur.o[j]? = some 0) ∧ (∀ j, j < 4 → c.g.cur.l[j]? = some 0) ∧
        (∀ j, j < 32 → ∀ n, n < 16 → (c.vec.v[j]?).bind (fun v => v[n]?) = some 0) ∧ (∀ j, j < 8 → c.vec.vm[j]? = some 0) ∧
        c.vec.width = 16 ∧ c.vec.gang = 1 ∧ c.st.mode = false ∧ c.sys.vfid = k.vf ∧ c.sys.gthread.toNat = gthread % 2 ^ 24

/-- The acting core's turn may issue: the part serves, its core is not idle and nothing is due before the instruction. -/
def Sys2Proof.Stmt.Issues (core : Nat) (s t : State) : Prop :=
  s.pow.off = false ∧ (s.pf.phase = 3 ∨ s.pf.phase = 4) ∧ (∃ rest, s.schedule = ⟨core, .instr⟩ :: rest ∧
    t = swapTo (core % 8192) { s with schedule := rest }) ∧ idleCore t = false ∧ t.ctx.tr.pendFault = none

/-- R11, R22, R23, R33, R34, R60, R61, R357, R358, R398: when the bytes at the pc of the core whose turn it is decode to an
instruction, the step is `exec` of it, after the checks that come first and LAVIOL, and at once where a count of a vector mask
waits for its result; bytes that decode to none raise ILL through the reserved encoding; a fetch fault is taken as such; an
asynchronous trap, then a user interrupt come before the instruction; another agent's row acts in its turn; time advances GCYCLE;
boot goes on by itself. The fetch reads the bytes where the pc translates to, and finds out a line whose check fails (R180). The
model's choices: turns come from the schedule and boot goes by itself (log 1), time passes in a turn of its own (log 12), and an
odd pc is taken with bit 0 zero (log 28). -/
def Obligations.StepRunsDecodedInstruction : Prop :=
  ∀ (s t : State) (core : Nat),
    (Issues core s t →
      let counting := t.ctx.vec.popc.isSome = true
      let quiet := counting ∨ (asyncDue t = none ∨ supOpen t = true) ∧ (t.ctx.qs.pendUi = [] ∨ interruptDue t = false)
      (quiet → ∀ w u, fetch t = .ok (w, u) →
        let v := { u with insn := w64 w }
        (decodeWord w = none → step s = exec (.reservedEncoding (BitVec.ofNat 32 w)) v) ∧
        ∀ i, decodeWord w = some i →
          (∀ e, checkedFirst i v = .error e → step s = finish v (.error e)) ∧
          (checkedFirst i v = .ok () →
            (laviol i v = none → step s = exec i v) ∧
            ∀ e, laviol i v = some e → step s = finish v (raise 0x02 (w64 (e.pc.toNat % 2 ^ 63))))) ∧
      (quiet → ∀ e, fetch t = .error e → step s = exec .fetchFault t) ∧
      (¬ counting → (asyncDue t).isSome = true → supOpen t = false → step s = exec .asynchronousTrap t) ∧
      (¬ counting → asyncDue t = none → t.ctx.qs.pendUi ≠ [] → interruptDue t = true → step s = exec .userInterrupt t)) ∧
    (t.ctx.pcBad = false → ∀ pa u, fetchXl t.cur t.ctx.sys.vfid (t.ctx.pc.toNat / 2 * 2) (!t.ctx.st.mode)
        (w64 (t.ctx.pc.toNat % 2 ^ 63)) t = .ok (pa, u) → u.mem.msgs = [] → u.mem.stores = [] →
      let p := (u.mem.byte pa).toNat + 256 * (u.mem.byte (pa + 1)).toNat
      let seen := fun (a : Nat) (v : State) => { v with mem := v.mem.noted a 2 }
      (p % 2 = 0 → fetch t = .ok (p, seen pa u)) ∧
      (p % 2 = 1 → ∀ pb x, fetchXl u.cur u.ctx.sys.vfid ((pcAdd t.ctx.pc 2).toNat / 2 * 2) (!u.ctx.st.mode)
          (w64 ((pcAdd t.ctx.pc 2).toNat % 2 ^ 63)) (seen pa u) = .ok (pb, x) → x.mem.msgs = [] → x.mem.stores = [] →
        fetch t = .ok (p + 65536 * ((x.mem.byte pb).toNat + 256 * (x.mem.byte (pb + 1)).toNat), seen pb x))) ∧
    (∀ rest, s.pow.off = false → (s.pf.phase = 3 ∨ s.pf.phase = 4) →
      let t := swapTo (core % 8192) { s with schedule := rest }
      (∀ e, s.schedule = ⟨core, .event e⟩ :: rest → agentRow e = true → step s = exec e t) ∧
      (∀ n, s.schedule = ⟨core, .elapse n⟩ :: rest → ∃ u, step s = .next u ∧ u.gcycle = t.gcycle + w64 n ∧ u.mem = t.mem ∧
        u.ctx.g = t.ctx.g ∧ u.ctx.pc = t.ctx.pc)) ∧
    (s.pow.off = false →
      (s.pf.phase = 0 ∨ s.pf.phase = 1 → step s = exec .powerOnReset s) ∧ (s.pf.phase = 2 → step s = exec .enterReduced s))
end

