-- ==== Sys2Proof/Laws/State.lean ====
section
/-!
SUPPORT. One lemma per field per update of the state, so that no later proof unfolds a record update.
-/

namespace Sys2Proof.Machine

/-! ### setG -/

@[simp] theorem setG_cur (f : Gpr → Gpr) (s : State) : (setG f s).cur = s.cur := rfl
@[simp] theorem setG_live (f : Gpr → Gpr) (s : State) : (setG f s).live = s.live := rfl
@[simp] theorem setG_parked (f : Gpr → Gpr) (s : State) : (setG f s).parked = s.parked := rfl
@[simp] theorem setG_mem (f : Gpr → Gpr) (s : State) : (setG f s).mem = s.mem := rfl
@[simp] theorem setG_fab (f : Gpr → Gpr) (s : State) : (setG f s).fab = s.fab := rfl
@[simp] theorem setG_trans (f : Gpr → Gpr) (s : State) : (setG f s).trans = s.trans := rfl
@[simp] theorem setG_cp (f : Gpr → Gpr) (s : State) : (setG f s).cp = s.cp := rfl
@[simp] theorem setG_engines (f : Gpr → Gpr) (s : State) : (setG f s).engines = s.engines := rfl
@[simp] theorem setG_claims (f : Gpr → Gpr) (s : State) : (setG f s).claims = s.claims := rfl
@[simp] theorem setG_api (f : Gpr → Gpr) (s : State) : (setG f s).api = s.api := rfl
@[simp] theorem setG_sch (f : Gpr → Gpr) (s : State) : (setG f s).sch = s.sch := rfl
@[simp] theorem setG_pow (f : Gpr → Gpr) (s : State) : (setG f s).pow = s.pow := rfl
@[simp] theorem setG_pf (f : Gpr → Gpr) (s : State) : (setG f s).pf = s.pf := rfl
@[simp] theorem setG_gcycle (f : Gpr → Gpr) (s : State) : (setG f s).gcycle = s.gcycle := rfl
@[simp] theorem setG_insn (f : Gpr → Gpr) (s : State) : (setG f s).insn = s.insn := rfl
@[simp] theorem setG_latch (f : Gpr → Gpr) (s : State) : (setG f s).latch = s.latch := rfl
@[simp] theorem setG_hostLatch (f : Gpr → Gpr) (s : State) : (setG f s).hostLatch = s.hostLatch := rfl
@[simp] theorem setG_schedule (f : Gpr → Gpr) (s : State) : (setG f s).schedule = s.schedule := rfl
@[simp] theorem setG_turnNo (f : Gpr → Gpr) (s : State) : (setG f s).turnNo = s.turnNo := rfl
@[simp] theorem setG_freeNo (f : Gpr → Gpr) (s : State) : (setG f s).freeNo = s.freeNo := rfl
@[simp] theorem setG_ctx_g (f : Gpr → Gpr) (s : State) : (setG f s).ctx.g = f s.ctx.g := rfl
@[simp] theorem setG_ctx_st (f : Gpr → Gpr) (s : State) : (setG f s).ctx.st = s.ctx.st := rfl
@[simp] theorem setG_ctx_tr (f : Gpr → Gpr) (s : State) : (setG f s).ctx.tr = s.ctx.tr := rfl
@[simp] theorem setG_ctx_sys (f : Gpr → Gpr) (s : State) : (setG f s).ctx.sys = s.ctx.sys := rfl
@[simp] theorem setG_ctx_vec (f : Gpr → Gpr) (s : State) : (setG f s).ctx.vec = s.ctx.vec := rfl
@[simp] theorem setG_ctx_qs (f : Gpr → Gpr) (s : State) : (setG f s).ctx.qs = s.ctx.qs := rfl
@[simp] theorem setG_ctx_pc (f : Gpr → Gpr) (s : State) : (setG f s).ctx.pc = s.ctx.pc := rfl
@[simp] theorem setG_ctx_pcBad (f : Gpr → Gpr) (s : State) : (setG f s).ctx.pcBad = s.ctx.pcBad := rfl
@[simp] theorem setG_ctx_rng (f : Gpr → Gpr) (s : State) : (setG f s).ctx.rng = s.ctx.rng := rfl
@[simp] theorem setG_ctx_la (f : Gpr → Gpr) (s : State) : (setG f s).ctx.la = s.ctx.la := rfl
@[simp] theorem setG_ctx_amo (f : Gpr → Gpr) (s : State) : (setG f s).ctx.amo = s.ctx.amo := rfl
@[simp] theorem setG_ctx_acks (f : Gpr → Gpr) (s : State) : (setG f s).ctx.acks = s.ctx.acks := rfl
@[simp] theorem setG_ctx_fences (f : Gpr → Gpr) (s : State) : (setG f s).ctx.fences = s.ctx.fences := rfl
@[simp] theorem setG_ctx_cmdScope (f : Gpr → Gpr) (s : State) : (setG f s).ctx.cmdScope = s.ctx.cmdScope := rfl
@[simp] theorem setG_ctx_engine (f : Gpr → Gpr) (s : State) : (setG f s).ctx.engine = s.ctx.engine := rfl
@[simp] theorem setG_ctx_info (f : Gpr → Gpr) (s : State) : (setG f s).ctx.info = s.ctx.info := rfl
@[simp] theorem setG_ctx_waitQ (f : Gpr → Gpr) (s : State) : (setG f s).ctx.waitQ = s.ctx.waitQ := rfl
@[simp] theorem setG_ctx_wfi (f : Gpr → Gpr) (s : State) : (setG f s).ctx.wfi = s.ctx.wfi := rfl
@[simp] theorem setG_ctx_halted (f : Gpr → Gpr) (s : State) : (setG f s).ctx.halted = s.ctx.halted := rfl

/-! ### setSt -/

@[simp] theorem setSt_cur (f : Status → Status) (s : State) : (setSt f s).cur = s.cur := rfl
@[simp] theorem setSt_live (f : Status → Status) (s : State) : (setSt f s).live = s.live := rfl
@[simp] theorem setSt_parked (f : Status → Status) (s : State) : (setSt f s).parked = s.parked := rfl
@[simp] theorem setSt_mem (f : Status → Status) (s : State) : (setSt f s).mem = s.mem := rfl
@[simp] theorem setSt_fab (f : Status → Status) (s : State) : (setSt f s).fab = s.fab := rfl
@[simp] theorem setSt_trans (f : Status → Status) (s : State) : (setSt f s).trans = s.trans := rfl
@[simp] theorem setSt_cp (f : Status → Status) (s : State) : (setSt f s).cp = s.cp := rfl
@[simp] theorem setSt_engines (f : Status → Status) (s : State) : (setSt f s).engines = s.engines := rfl
@[simp] theorem setSt_claims (f : Status → Status) (s : State) : (setSt f s).claims = s.claims := rfl
@[simp] theorem setSt_api (f : Status → Status) (s : State) : (setSt f s).api = s.api := rfl
@[simp] theorem setSt_sch (f : Status → Status) (s : State) : (setSt f s).sch = s.sch := rfl
@[simp] theorem setSt_pow (f : Status → Status) (s : State) : (setSt f s).pow = s.pow := rfl
@[simp] theorem setSt_pf (f : Status → Status) (s : State) : (setSt f s).pf = s.pf := rfl
@[simp] theorem setSt_gcycle (f : Status → Status) (s : State) : (setSt f s).gcycle = s.gcycle := rfl
@[simp] theorem setSt_insn (f : Status → Status) (s : State) : (setSt f s).insn = s.insn := rfl
@[simp] theorem setSt_latch (f : Status → Status) (s : State) : (setSt f s).latch = s.latch := rfl
@[simp] theorem setSt_hostLatch (f : Status → Status) (s : State) : (setSt f s).hostLatch = s.hostLatch := rfl
@[simp] theorem setSt_schedule (f : Status → Status) (s : State) : (setSt f s).schedule = s.schedule := rfl
@[simp] theorem setSt_turnNo (f : Status → Status) (s : State) : (setSt f s).turnNo = s.turnNo := rfl
@[simp] theorem setSt_freeNo (f : Status → Status) (s : State) : (setSt f s).freeNo = s.freeNo := rfl
@[simp] theorem setSt_ctx_g (f : Status → Status) (s : State) : (setSt f s).ctx.g = s.ctx.g := rfl
@[simp] theorem setSt_ctx_st (f : Status → Status) (s : State) : (setSt f s).ctx.st = f s.ctx.st := rfl
@[simp] theorem setSt_ctx_tr (f : Status → Status) (s : State) : (setSt f s).ctx.tr = s.ctx.tr := rfl
@[simp] theorem setSt_ctx_sys (f : Status → Status) (s : State) : (setSt f s).ctx.sys = s.ctx.sys := rfl
@[simp] theorem setSt_ctx_vec (f : Status → Status) (s : State) : (setSt f s).ctx.vec = s.ctx.vec := rfl
@[simp] theorem setSt_ctx_qs (f : Status → Status) (s : State) : (setSt f s).ctx.qs = s.ctx.qs := rfl
@[simp] theorem setSt_ctx_pc (f : Status → Status) (s : State) : (setSt f s).ctx.pc = s.ctx.pc := rfl
@[simp] theorem setSt_ctx_pcBad (f : Status → Status) (s : State) : (setSt f s).ctx.pcBad = s.ctx.pcBad := rfl
@[simp] theorem setSt_ctx_rng (f : Status → Status) (s : State) : (setSt f s).ctx.rng = s.ctx.rng := rfl
@[simp] theorem setSt_ctx_la (f : Status → Status) (s : State) : (setSt f s).ctx.la = s.ctx.la := rfl
@[simp] theorem setSt_ctx_amo (f : Status → Status) (s : State) : (setSt f s).ctx.amo = s.ctx.amo := rfl
@[simp] theorem setSt_ctx_acks (f : Status → Status) (s : State) : (setSt f s).ctx.acks = s.ctx.acks := rfl
@[simp] theorem setSt_ctx_fences (f : Status → Status) (s : State) : (setSt f s).ctx.fences = s.ctx.fences := rfl
@[simp] theorem setSt_ctx_cmdScope (f : Status → Status) (s : State) : (setSt f s).ctx.cmdScope = s.ctx.cmdScope := rfl
@[simp] theorem setSt_ctx_engine (f : Status → Status) (s : State) : (setSt f s).ctx.engine = s.ctx.engine := rfl
@[simp] theorem setSt_ctx_info (f : Status → Status) (s : State) : (setSt f s).ctx.info = s.ctx.info := rfl
@[simp] theorem setSt_ctx_waitQ (f : Status → Status) (s : State) : (setSt f s).ctx.waitQ = s.ctx.waitQ := rfl
@[simp] theorem setSt_ctx_wfi (f : Status → Status) (s : State) : (setSt f s).ctx.wfi = s.ctx.wfi := rfl
@[simp] theorem setSt_ctx_halted (f : Status → Status) (s : State) : (setSt f s).ctx.halted = s.ctx.halted := rfl

/-! ### setTr -/

@[simp] theorem setTr_cur (f : TrapRegs → TrapRegs) (s : State) : (setTr f s).cur = s.cur := rfl
@[simp] theorem setTr_live (f : TrapRegs → TrapRegs) (s : State) : (setTr f s).live = s.live := rfl
@[simp] theorem setTr_parked (f : TrapRegs → TrapRegs) (s : State) : (setTr f s).parked = s.parked := rfl
@[simp] theorem setTr_mem (f : TrapRegs → TrapRegs) (s : State) : (setTr f s).mem = s.mem := rfl
@[simp] theorem setTr_fab (f : TrapRegs → TrapRegs) (s : State) : (setTr f s).fab = s.fab := rfl
@[simp] theorem setTr_trans (f : TrapRegs → TrapRegs) (s : State) : (setTr f s).trans = s.trans := rfl
@[simp] theorem setTr_cp (f : TrapRegs → TrapRegs) (s : State) : (setTr f s).cp = s.cp := rfl
@[simp] theorem setTr_engines (f : TrapRegs → TrapRegs) (s : State) : (setTr f s).engines = s.engines := rfl
@[simp] theorem setTr_claims (f : TrapRegs → TrapRegs) (s : State) : (setTr f s).claims = s.claims := rfl
@[simp] theorem setTr_api (f : TrapRegs → TrapRegs) (s : State) : (setTr f s).api = s.api := rfl
@[simp] theorem setTr_sch (f : TrapRegs → TrapRegs) (s : State) : (setTr f s).sch = s.sch := rfl
@[simp] theorem setTr_pow (f : TrapRegs → TrapRegs) (s : State) : (setTr f s).pow = s.pow := rfl
@[simp] theorem setTr_pf (f : TrapRegs → TrapRegs) (s : State) : (setTr f s).pf = s.pf := rfl
@[simp] theorem setTr_gcycle (f : TrapRegs → TrapRegs) (s : State) : (setTr f s).gcycle = s.gcycle := rfl
@[simp] theorem setTr_insn (f : TrapRegs → TrapRegs) (s : State) : (setTr f s).insn = s.insn := rfl
@[simp] theorem setTr_latch (f : TrapRegs → TrapRegs) (s : State) : (setTr f s).latch = s.latch := rfl
@[simp] theorem setTr_hostLatch (f : TrapRegs → TrapRegs) (s : State) : (setTr f s).hostLatch = s.hostLatch := rfl
@[simp] theorem setTr_schedule (f : TrapRegs → TrapRegs) (s : State) : (setTr f s).schedule = s.schedule := rfl
@[simp] theorem setTr_turnNo (f : TrapRegs → TrapRegs) (s : State) : (setTr f s).turnNo = s.turnNo := rfl
@[simp] theorem setTr_freeNo (f : TrapRegs → TrapRegs) (s : State) : (setTr f s).freeNo = s.freeNo := rfl
@[simp] theorem setTr_ctx_g (f : TrapRegs → TrapRegs) (s : State) : (setTr f s).ctx.g = s.ctx.g := rfl
@[simp] theorem setTr_ctx_st (f : TrapRegs → TrapRegs) (s : State) : (setTr f s).ctx.st = s.ctx.st := rfl
@[simp] theorem setTr_ctx_tr (f : TrapRegs → TrapRegs) (s : State) : (setTr f s).ctx.tr = f s.ctx.tr := rfl
@[simp] theorem setTr_ctx_sys (f : TrapRegs → TrapRegs) (s : State) : (setTr f s).ctx.sys = s.ctx.sys := rfl
@[simp] theorem setTr_ctx_vec (f : TrapRegs → TrapRegs) (s : State) : (setTr f s).ctx.vec = s.ctx.vec := rfl
@[simp] theorem setTr_ctx_qs (f : TrapRegs → TrapRegs) (s : State) : (setTr f s).ctx.qs = s.ctx.qs := rfl
@[simp] theorem setTr_ctx_pc (f : TrapRegs → TrapRegs) (s : State) : (setTr f s).ctx.pc = s.ctx.pc := rfl
@[simp] theorem setTr_ctx_pcBad (f : TrapRegs → TrapRegs) (s : State) : (setTr f s).ctx.pcBad = s.ctx.pcBad := rfl
@[simp] theorem setTr_ctx_rng (f : TrapRegs → TrapRegs) (s : State) : (setTr f s).ctx.rng = s.ctx.rng := rfl
@[simp] theorem setTr_ctx_la (f : TrapRegs → TrapRegs) (s : State) : (setTr f s).ctx.la = s.ctx.la := rfl
@[simp] theorem setTr_ctx_amo (f : TrapRegs → TrapRegs) (s : State) : (setTr f s).ctx.amo = s.ctx.amo := rfl
@[simp] theorem setTr_ctx_acks (f : TrapRegs → TrapRegs) (s : State) : (setTr f s).ctx.acks = s.ctx.acks := rfl
@[simp] theorem setTr_ctx_fences (f : TrapRegs → TrapRegs) (s : State) : (setTr f s).ctx.fences = s.ctx.fences := rfl
@[simp] theorem setTr_ctx_cmdScope (f : TrapRegs → TrapRegs) (s : State) : (setTr f s).ctx.cmdScope = s.ctx.cmdScope := rfl
@[simp] theorem setTr_ctx_engine (f : TrapRegs → TrapRegs) (s : State) : (setTr f s).ctx.engine = s.ctx.engine := rfl
@[simp] theorem setTr_ctx_info (f : TrapRegs → TrapRegs) (s : State) : (setTr f s).ctx.info = s.ctx.info := rfl
@[simp] theorem setTr_ctx_waitQ (f : TrapRegs → TrapRegs) (s : State) : (setTr f s).ctx.waitQ = s.ctx.waitQ := rfl
@[simp] theorem setTr_ctx_wfi (f : TrapRegs → TrapRegs) (s : State) : (setTr f s).ctx.wfi = s.ctx.wfi := rfl
@[simp] theorem setTr_ctx_halted (f : TrapRegs → TrapRegs) (s : State) : (setTr f s).ctx.halted = s.ctx.halted := rfl

/-! ### setSys -/

@[simp] theorem setSys_cur (f : SysRegs → SysRegs) (s : State) : (setSys f s).cur = s.cur := rfl
@[simp] theorem setSys_live (f : SysRegs → SysRegs) (s : State) : (setSys f s).live = s.live := rfl
@[simp] theorem setSys_parked (f : SysRegs → SysRegs) (s : State) : (setSys f s).parked = s.parked := rfl
@[simp] theorem setSys_mem (f : SysRegs → SysRegs) (s : State) : (setSys f s).mem = s.mem := rfl
@[simp] theorem setSys_fab (f : SysRegs → SysRegs) (s : State) : (setSys f s).fab = s.fab := rfl
@[simp] theorem setSys_trans (f : SysRegs → SysRegs) (s : State) : (setSys f s).trans = s.trans := rfl
@[simp] theorem setSys_cp (f : SysRegs → SysRegs) (s : State) : (setSys f s).cp = s.cp := rfl
@[simp] theorem setSys_engines (f : SysRegs → SysRegs) (s : State) : (setSys f s).engines = s.engines := rfl
@[simp] theorem setSys_claims (f : SysRegs → SysRegs) (s : State) : (setSys f s).claims = s.claims := rfl
@[simp] theorem setSys_api (f : SysRegs → SysRegs) (s : State) : (setSys f s).api = s.api := rfl
@[simp] theorem setSys_sch (f : SysRegs → SysRegs) (s : State) : (setSys f s).sch = s.sch := rfl
@[simp] theorem setSys_pow (f : SysRegs → SysRegs) (s : State) : (setSys f s).pow = s.pow := rfl
@[simp] theorem setSys_pf (f : SysRegs → SysRegs) (s : State) : (setSys f s).pf = s.pf := rfl
@[simp] theorem setSys_gcycle (f : SysRegs → SysRegs) (s : State) : (setSys f s).gcycle = s.gcycle := rfl
@[simp] theorem setSys_insn (f : SysRegs → SysRegs) (s : State) : (setSys f s).insn = s.insn := rfl
@[simp] theorem setSys_latch (f : SysRegs → SysRegs) (s : State) : (setSys f s).latch = s.latch := rfl
@[simp] theorem setSys_hostLatch (f : SysRegs → SysRegs) (s : State) : (setSys f s).hostLatch = s.hostLatch := rfl
@[simp] theorem setSys_schedule (f : SysRegs → SysRegs) (s : State) : (setSys f s).schedule = s.schedule := rfl
@[simp] theorem setSys_turnNo (f : SysRegs → SysRegs) (s : State) : (setSys f s).turnNo = s.turnNo := rfl
@[simp] theorem setSys_freeNo (f : SysRegs → SysRegs) (s : State) : (setSys f s).freeNo = s.freeNo := rfl
@[simp] theorem setSys_ctx_g (f : SysRegs → SysRegs) (s : State) : (setSys f s).ctx.g = s.ctx.g := rfl
@[simp] theorem setSys_ctx_st (f : SysRegs → SysRegs) (s : State) : (setSys f s).ctx.st = s.ctx.st := rfl
@[simp] theorem setSys_ctx_tr (f : SysRegs → SysRegs) (s : State) : (setSys f s).ctx.tr = s.ctx.tr := rfl
@[simp] theorem setSys_ctx_sys (f : SysRegs → SysRegs) (s : State) : (setSys f s).ctx.sys = f s.ctx.sys := rfl
@[simp] theorem setSys_ctx_vec (f : SysRegs → SysRegs) (s : State) : (setSys f s).ctx.vec = s.ctx.vec := rfl
@[simp] theorem setSys_ctx_qs (f : SysRegs → SysRegs) (s : State) : (setSys f s).ctx.qs = s.ctx.qs := rfl
@[simp] theorem setSys_ctx_pc (f : SysRegs → SysRegs) (s : State) : (setSys f s).ctx.pc = s.ctx.pc := rfl
@[simp] theorem setSys_ctx_pcBad (f : SysRegs → SysRegs) (s : State) : (setSys f s).ctx.pcBad = s.ctx.pcBad := rfl
@[simp] theorem setSys_ctx_rng (f : SysRegs → SysRegs) (s : State) : (setSys f s).ctx.rng = s.ctx.rng := rfl
@[simp] theorem setSys_ctx_la (f : SysRegs → SysRegs) (s : State) : (setSys f s).ctx.la = s.ctx.la := rfl
@[simp] theorem setSys_ctx_amo (f : SysRegs → SysRegs) (s : State) : (setSys f s).ctx.amo = s.ctx.amo := rfl
@[simp] theorem setSys_ctx_acks (f : SysRegs → SysRegs) (s : State) : (setSys f s).ctx.acks = s.ctx.acks := rfl
@[simp] theorem setSys_ctx_fences (f : SysRegs → SysRegs) (s : State) : (setSys f s).ctx.fences = s.ctx.fences := rfl
@[simp] theorem setSys_ctx_cmdScope (f : SysRegs → SysRegs) (s : State) : (setSys f s).ctx.cmdScope = s.ctx.cmdScope := rfl
@[simp] theorem setSys_ctx_engine (f : SysRegs → SysRegs) (s : State) : (setSys f s).ctx.engine = s.ctx.engine := rfl
@[simp] theorem setSys_ctx_info (f : SysRegs → SysRegs) (s : State) : (setSys f s).ctx.info = s.ctx.info := rfl
@[simp] theorem setSys_ctx_waitQ (f : SysRegs → SysRegs) (s : State) : (setSys f s).ctx.waitQ = s.ctx.waitQ := rfl
@[simp] theorem setSys_ctx_wfi (f : SysRegs → SysRegs) (s : State) : (setSys f s).ctx.wfi = s.ctx.wfi := rfl
@[simp] theorem setSys_ctx_halted (f : SysRegs → SysRegs) (s : State) : (setSys f s).ctx.halted = s.ctx.halted := rfl

/-! ### setVec -/

@[simp] theorem setVec_cur (f : VecRegs → VecRegs) (s : State) : (setVec f s).cur = s.cur := rfl
@[simp] theorem setVec_live (f : VecRegs → VecRegs) (s : State) : (setVec f s).live = s.live := rfl
@[simp] theorem setVec_parked (f : VecRegs → VecRegs) (s : State) : (setVec f s).parked = s.parked := rfl
@[simp] theorem setVec_mem (f : VecRegs → VecRegs) (s : State) : (setVec f s).mem = s.mem := rfl
@[simp] theorem setVec_fab (f : VecRegs → VecRegs) (s : State) : (setVec f s).fab = s.fab := rfl
@[simp] theorem setVec_trans (f : VecRegs → VecRegs) (s : State) : (setVec f s).trans = s.trans := rfl
@[simp] theorem setVec_cp (f : VecRegs → VecRegs) (s : State) : (setVec f s).cp = s.cp := rfl
@[simp] theorem setVec_engines (f : VecRegs → VecRegs) (s : State) : (setVec f s).engines = s.engines := rfl
@[simp] theorem setVec_claims (f : VecRegs → VecRegs) (s : State) : (setVec f s).claims = s.claims := rfl
@[simp] theorem setVec_api (f : VecRegs → VecRegs) (s : State) : (setVec f s).api = s.api := rfl
@[simp] theorem setVec_sch (f : VecRegs → VecRegs) (s : State) : (setVec f s).sch = s.sch := rfl
@[simp] theorem setVec_pow (f : VecRegs → VecRegs) (s : State) : (setVec f s).pow = s.pow := rfl
@[simp] theorem setVec_pf (f : VecRegs → VecRegs) (s : State) : (setVec f s).pf = s.pf := rfl
@[simp] theorem setVec_gcycle (f : VecRegs → VecRegs) (s : State) : (setVec f s).gcycle = s.gcycle := rfl
@[simp] theorem setVec_insn (f : VecRegs → VecRegs) (s : State) : (setVec f s).insn = s.insn := rfl
@[simp] theorem setVec_latch (f : VecRegs → VecRegs) (s : State) : (setVec f s).latch = s.latch := rfl
@[simp] theorem setVec_hostLatch (f : VecRegs → VecRegs) (s : State) : (setVec f s).hostLatch = s.hostLatch := rfl
@[simp] theorem setVec_schedule (f : VecRegs → VecRegs) (s : State) : (setVec f s).schedule = s.schedule := rfl
@[simp] theorem setVec_turnNo (f : VecRegs → VecRegs) (s : State) : (setVec f s).turnNo = s.turnNo := rfl
@[simp] theorem setVec_freeNo (f : VecRegs → VecRegs) (s : State) : (setVec f s).freeNo = s.freeNo := rfl
@[simp] theorem setVec_ctx_g (f : VecRegs → VecRegs) (s : State) : (setVec f s).ctx.g = s.ctx.g := rfl
@[simp] theorem setVec_ctx_st (f : VecRegs → VecRegs) (s : State) : (setVec f s).ctx.st = s.ctx.st := rfl
@[simp] theorem setVec_ctx_tr (f : VecRegs → VecRegs) (s : State) : (setVec f s).ctx.tr = s.ctx.tr := rfl
@[simp] theorem setVec_ctx_sys (f : VecRegs → VecRegs) (s : State) : (setVec f s).ctx.sys = s.ctx.sys := rfl
@[simp] theorem setVec_ctx_vec (f : VecRegs → VecRegs) (s : State) : (setVec f s).ctx.vec = f s.ctx.vec := rfl
@[simp] theorem setVec_ctx_qs (f : VecRegs → VecRegs) (s : State) : (setVec f s).ctx.qs = s.ctx.qs := rfl
@[simp] theorem setVec_ctx_pc (f : VecRegs → VecRegs) (s : State) : (setVec f s).ctx.pc = s.ctx.pc := rfl
@[simp] theorem setVec_ctx_pcBad (f : VecRegs → VecRegs) (s : State) : (setVec f s).ctx.pcBad = s.ctx.pcBad := rfl
@[simp] theorem setVec_ctx_rng (f : VecRegs → VecRegs) (s : State) : (setVec f s).ctx.rng = s.ctx.rng := rfl
@[simp] theorem setVec_ctx_la (f : VecRegs → VecRegs) (s : State) : (setVec f s).ctx.la = s.ctx.la := rfl
@[simp] theorem setVec_ctx_amo (f : VecRegs → VecRegs) (s : State) : (setVec f s).ctx.amo = s.ctx.amo := rfl
@[simp] theorem setVec_ctx_acks (f : VecRegs → VecRegs) (s : State) : (setVec f s).ctx.acks = s.ctx.acks := rfl
@[simp] theorem setVec_ctx_fences (f : VecRegs → VecRegs) (s : State) : (setVec f s).ctx.fences = s.ctx.fences := rfl
@[simp] theorem setVec_ctx_cmdScope (f : VecRegs → VecRegs) (s : State) : (setVec f s).ctx.cmdScope = s.ctx.cmdScope := rfl
@[simp] theorem setVec_ctx_engine (f : VecRegs → VecRegs) (s : State) : (setVec f s).ctx.engine = s.ctx.engine := rfl
@[simp] theorem setVec_ctx_info (f : VecRegs → VecRegs) (s : State) : (setVec f s).ctx.info = s.ctx.info := rfl
@[simp] theorem setVec_ctx_waitQ (f : VecRegs → VecRegs) (s : State) : (setVec f s).ctx.waitQ = s.ctx.waitQ := rfl
@[simp] theorem setVec_ctx_wfi (f : VecRegs → VecRegs) (s : State) : (setVec f s).ctx.wfi = s.ctx.wfi := rfl
@[simp] theorem setVec_ctx_halted (f : VecRegs → VecRegs) (s : State) : (setVec f s).ctx.halted = s.ctx.halted := rfl

/-! ### setQs -/

@[simp] theorem setQs_cur (f : Queues → Queues) (s : State) : (setQs f s).cur = s.cur := rfl
@[simp] theorem setQs_live (f : Queues → Queues) (s : State) : (setQs f s).live = s.live := rfl
@[simp] theorem setQs_parked (f : Queues → Queues) (s : State) : (setQs f s).parked = s.parked := rfl
@[simp] theorem setQs_mem (f : Queues → Queues) (s : State) : (setQs f s).mem = s.mem := rfl
@[simp] theorem setQs_fab (f : Queues → Queues) (s : State) : (setQs f s).fab = s.fab := rfl
@[simp] theorem setQs_trans (f : Queues → Queues) (s : State) : (setQs f s).trans = s.trans := rfl
@[simp] theorem setQs_cp (f : Queues → Queues) (s : State) : (setQs f s).cp = s.cp := rfl
@[simp] theorem setQs_engines (f : Queues → Queues) (s : State) : (setQs f s).engines = s.engines := rfl
@[simp] theorem setQs_claims (f : Queues → Queues) (s : State) : (setQs f s).claims = s.claims := rfl
@[simp] theorem setQs_api (f : Queues → Queues) (s : State) : (setQs f s).api = s.api := rfl
@[simp] theorem setQs_sch (f : Queues → Queues) (s : State) : (setQs f s).sch = s.sch := rfl
@[simp] theorem setQs_pow (f : Queues → Queues) (s : State) : (setQs f s).pow = s.pow := rfl
@[simp] theorem setQs_pf (f : Queues → Queues) (s : State) : (setQs f s).pf = s.pf := rfl
@[simp] theorem setQs_gcycle (f : Queues → Queues) (s : State) : (setQs f s).gcycle = s.gcycle := rfl
@[simp] theorem setQs_insn (f : Queues → Queues) (s : State) : (setQs f s).insn = s.insn := rfl
@[simp] theorem setQs_latch (f : Queues → Queues) (s : State) : (setQs f s).latch = s.latch := rfl
@[simp] theorem setQs_hostLatch (f : Queues → Queues) (s : State) : (setQs f s).hostLatch = s.hostLatch := rfl
@[simp] theorem setQs_schedule (f : Queues → Queues) (s : State) : (setQs f s).schedule = s.schedule := rfl
@[simp] theorem setQs_turnNo (f : Queues → Queues) (s : State) : (setQs f s).turnNo = s.turnNo := rfl
@[simp] theorem setQs_freeNo (f : Queues → Queues) (s : State) : (setQs f s).freeNo = s.freeNo := rfl
@[simp] theorem setQs_ctx_g (f : Queues → Queues) (s : State) : (setQs f s).ctx.g = s.ctx.g := rfl
@[simp] theorem setQs_ctx_st (f : Queues → Queues) (s : State) : (setQs f s).ctx.st = s.ctx.st := rfl
@[simp] theorem setQs_ctx_tr (f : Queues → Queues) (s : State) : (setQs f s).ctx.tr = s.ctx.tr := rfl
@[simp] theorem setQs_ctx_sys (f : Queues → Queues) (s : State) : (setQs f s).ctx.sys = s.ctx.sys := rfl
@[simp] theorem setQs_ctx_vec (f : Queues → Queues) (s : State) : (setQs f s).ctx.vec = s.ctx.vec := rfl
@[simp] theorem setQs_ctx_qs (f : Queues → Queues) (s : State) : (setQs f s).ctx.qs = f s.ctx.qs := rfl
@[simp] theorem setQs_ctx_pc (f : Queues → Queues) (s : State) : (setQs f s).ctx.pc = s.ctx.pc := rfl
@[simp] theorem setQs_ctx_pcBad (f : Queues → Queues) (s : State) : (setQs f s).ctx.pcBad = s.ctx.pcBad := rfl
@[simp] theorem setQs_ctx_rng (f : Queues → Queues) (s : State) : (setQs f s).ctx.rng = s.ctx.rng := rfl
@[simp] theorem setQs_ctx_la (f : Queues → Queues) (s : State) : (setQs f s).ctx.la = s.ctx.la := rfl
@[simp] theorem setQs_ctx_amo (f : Queues → Queues) (s : State) : (setQs f s).ctx.amo = s.ctx.amo := rfl
@[simp] theorem setQs_ctx_acks (f : Queues → Queues) (s : State) : (setQs f s).ctx.acks = s.ctx.acks := rfl
@[simp] theorem setQs_ctx_fences (f : Queues → Queues) (s : State) : (setQs f s).ctx.fences = s.ctx.fences := rfl
@[simp] theorem setQs_ctx_cmdScope (f : Queues → Queues) (s : State) : (setQs f s).ctx.cmdScope = s.ctx.cmdScope := rfl
@[simp] theorem setQs_ctx_engine (f : Queues → Queues) (s : State) : (setQs f s).ctx.engine = s.ctx.engine := rfl
@[simp] theorem setQs_ctx_info (f : Queues → Queues) (s : State) : (setQs f s).ctx.info = s.ctx.info := rfl
@[simp] theorem setQs_ctx_waitQ (f : Queues → Queues) (s : State) : (setQs f s).ctx.waitQ = s.ctx.waitQ := rfl
@[simp] theorem setQs_ctx_wfi (f : Queues → Queues) (s : State) : (setQs f s).ctx.wfi = s.ctx.wfi := rfl
@[simp] theorem setQs_ctx_halted (f : Queues → Queues) (s : State) : (setQs f s).ctx.halted = s.ctx.halted := rfl

/-! ### setPc -/

@[simp] theorem setPc_cur (pc : BitVec 72) (b : Bool) (s : State) : (setPc pc b s).cur = s.cur := rfl
@[simp] theorem setPc_live (pc : BitVec 72) (b : Bool) (s : State) : (setPc pc b s).live = s.live := rfl
@[simp] theorem setPc_parked (pc : BitVec 72) (b : Bool) (s : State) : (setPc pc b s).parked = s.parked := rfl
@[simp] theorem setPc_mem (pc : BitVec 72) (b : Bool) (s : State) : (setPc pc b s).mem = s.mem := rfl
@[simp] theorem setPc_fab (pc : BitVec 72) (b : Bool) (s : State) : (setPc pc b s).fab = s.fab := rfl
@[simp] theorem setPc_trans (pc : BitVec 72) (b : Bool) (s : State) : (setPc pc b s).trans = s.trans := rfl
@[simp] theorem setPc_cp (pc : BitVec 72) (b : Bool) (s : State) : (setPc pc b s).cp = s.cp := rfl
@[simp] theorem setPc_engines (pc : BitVec 72) (b : Bool) (s : State) : (setPc pc b s).engines = s.engines := rfl
@[simp] theorem setPc_claims (pc : BitVec 72) (b : Bool) (s : State) : (setPc pc b s).claims = s.claims := rfl
@[simp] theorem setPc_api (pc : BitVec 72) (b : Bool) (s : State) : (setPc pc b s).api = s.api := rfl
@[simp] theorem setPc_sch (pc : BitVec 72) (b : Bool) (s : State) : (setPc pc b s).sch = s.sch := rfl
@[simp] theorem setPc_pow (pc : BitVec 72) (b : Bool) (s : State) : (setPc pc b s).pow = s.pow := rfl
@[simp] theorem setPc_pf (pc : BitVec 72) (b : Bool) (s : State) : (setPc pc b s).pf = s.pf := rfl
@[simp] theorem setPc_gcycle (pc : BitVec 72) (b : Bool) (s : State) : (setPc pc b s).gcycle = s.gcycle := rfl
@[simp] theorem setPc_insn (pc : BitVec 72) (b : Bool) (s : State) : (setPc pc b s).insn = s.insn := rfl
@[simp] theorem setPc_latch (pc : BitVec 72) (b : Bool) (s : State) : (setPc pc b s).latch = s.latch := rfl
@[simp] theorem setPc_hostLatch (pc : BitVec 72) (b : Bool) (s : State) : (setPc pc b s).hostLatch = s.hostLatch := rfl
@[simp] theorem setPc_schedule (pc : BitVec 72) (b : Bool) (s : State) : (setPc pc b s).schedule = s.schedule := rfl
@[simp] theorem setPc_turnNo (pc : BitVec 72) (b : Bool) (s : State) : (setPc pc b s).turnNo = s.turnNo := rfl
@[simp] theorem setPc_freeNo (pc : BitVec 72) (b : Bool) (s : State) : (setPc pc b s).freeNo = s.freeNo := rfl
@[simp] theorem setPc_ctx_g (pc : BitVec 72) (b : Bool) (s : State) : (setPc pc b s).ctx.g = s.ctx.g := rfl
@[simp] theorem setPc_ctx_st (pc : BitVec 72) (b : Bool) (s : State) : (setPc pc b s).ctx.st = s.ctx.st := rfl
@[simp] theorem setPc_ctx_tr (pc : BitVec 72) (b : Bool) (s : State) : (setPc pc b s).ctx.tr = s.ctx.tr := rfl
@[simp] theorem setPc_ctx_sys (pc : BitVec 72) (b : Bool) (s : State) : (setPc pc b s).ctx.sys = s.ctx.sys := rfl
@[simp] theorem setPc_ctx_vec (pc : BitVec 72) (b : Bool) (s : State) : (setPc pc b s).ctx.vec = s.ctx.vec := rfl
@[simp] theorem setPc_ctx_qs (pc : BitVec 72) (b : Bool) (s : State) : (setPc pc b s).ctx.qs = s.ctx.qs := rfl
@[simp] theorem setPc_ctx_pc (pc : BitVec 72) (b : Bool) (s : State) : (setPc pc b s).ctx.pc = pc := rfl
@[simp] theorem setPc_ctx_pcBad (pc : BitVec 72) (b : Bool) (s : State) : (setPc pc b s).ctx.pcBad = b := rfl
@[simp] theorem setPc_ctx_rng (pc : BitVec 72) (b : Bool) (s : State) : (setPc pc b s).ctx.rng = s.ctx.rng := rfl
@[simp] theorem setPc_ctx_la (pc : BitVec 72) (b : Bool) (s : State) : (setPc pc b s).ctx.la = s.ctx.la := rfl
@[simp] theorem setPc_ctx_amo (pc : BitVec 72) (b : Bool) (s : State) : (setPc pc b s).ctx.amo = s.ctx.amo := rfl
@[simp] theorem setPc_ctx_acks (pc : BitVec 72) (b : Bool) (s : State) : (setPc pc b s).ctx.acks = s.ctx.acks := rfl
@[simp] theorem setPc_ctx_fences (pc : BitVec 72) (b : Bool) (s : State) : (setPc pc b s).ctx.fences = s.ctx.fences := rfl
@[simp] theorem setPc_ctx_cmdScope (pc : BitVec 72) (b : Bool) (s : State) : (setPc pc b s).ctx.cmdScope = s.ctx.cmdScope := rfl
@[simp] theorem setPc_ctx_engine (pc : BitVec 72) (b : Bool) (s : State) : (setPc pc b s).ctx.engine = s.ctx.engine := rfl
@[simp] theorem setPc_ctx_info (pc : BitVec 72) (b : Bool) (s : State) : (setPc pc b s).ctx.info = s.ctx.info := rfl
@[simp] theorem setPc_ctx_waitQ (pc : BitVec 72) (b : Bool) (s : State) : (setPc pc b s).ctx.waitQ = false := rfl
@[simp] theorem setPc_ctx_wfi (pc : BitVec 72) (b : Bool) (s : State) : (setPc pc b s).ctx.wfi = false := rfl
@[simp] theorem setPc_ctx_halted (pc : BitVec 72) (b : Bool) (s : State) : (setPc pc b s).ctx.halted = s.ctx.halted := rfl

/-! ### setFab -/

@[simp] theorem setFab_cur (f : Fabric → Fabric) (s : State) : (setFab f s).cur = s.cur := rfl
@[simp] theorem setFab_live (f : Fabric → Fabric) (s : State) : (setFab f s).live = s.live := rfl
@[simp] theorem setFab_ctx (f : Fabric → Fabric) (s : State) : (setFab f s).ctx = s.ctx := rfl
@[simp] theorem setFab_parked (f : Fabric → Fabric) (s : State) : (setFab f s).parked = s.parked := rfl
@[simp] theorem setFab_mem (f : Fabric → Fabric) (s : State) : (setFab f s).mem = s.mem := rfl
@[simp] theorem setFab_fab (f : Fabric → Fabric) (s : State) : (setFab f s).fab = f s.fab := rfl
@[simp] theorem setFab_trans (f : Fabric → Fabric) (s : State) : (setFab f s).trans = s.trans := rfl
@[simp] theorem setFab_cp (f : Fabric → Fabric) (s : State) : (setFab f s).cp = s.cp := rfl
@[simp] theorem setFab_engines (f : Fabric → Fabric) (s : State) : (setFab f s).engines = s.engines := rfl
@[simp] theorem setFab_claims (f : Fabric → Fabric) (s : State) : (setFab f s).claims = s.claims := rfl
@[simp] theorem setFab_api (f : Fabric → Fabric) (s : State) : (setFab f s).api = s.api := rfl
@[simp] theorem setFab_sch (f : Fabric → Fabric) (s : State) : (setFab f s).sch = s.sch := rfl
@[simp] theorem setFab_pow (f : Fabric → Fabric) (s : State) : (setFab f s).pow = s.pow := rfl
@[simp] theorem setFab_pf (f : Fabric → Fabric) (s : State) : (setFab f s).pf = s.pf := rfl
@[simp] theorem setFab_gcycle (f : Fabric → Fabric) (s : State) : (setFab f s).gcycle = s.gcycle := rfl
@[simp] theorem setFab_insn (f : Fabric → Fabric) (s : State) : (setFab f s).insn = s.insn := rfl
@[simp] theorem setFab_latch (f : Fabric → Fabric) (s : State) : (setFab f s).latch = s.latch := rfl
@[simp] theorem setFab_hostLatch (f : Fabric → Fabric) (s : State) : (setFab f s).hostLatch = s.hostLatch := rfl
@[simp] theorem setFab_schedule (f : Fabric → Fabric) (s : State) : (setFab f s).schedule = s.schedule := rfl
@[simp] theorem setFab_turnNo (f : Fabric → Fabric) (s : State) : (setFab f s).turnNo = s.turnNo := rfl
@[simp] theorem setFab_freeNo (f : Fabric → Fabric) (s : State) : (setFab f s).freeNo = s.freeNo := rfl

/-! ### setMem -/

@[simp] theorem setMem_cur (f : Memory → Memory) (s : State) : (setMem f s).cur = s.cur := rfl
@[simp] theorem setMem_live (f : Memory → Memory) (s : State) : (setMem f s).live = s.live := rfl
@[simp] theorem setMem_ctx (f : Memory → Memory) (s : State) : (setMem f s).ctx = s.ctx := rfl
@[simp] theorem setMem_parked (f : Memory → Memory) (s : State) : (setMem f s).parked = s.parked := rfl
@[simp] theorem setMem_mem (f : Memory → Memory) (s : State) : (setMem f s).mem = f s.mem := rfl
@[simp] theorem setMem_fab (f : Memory → Memory) (s : State) : (setMem f s).fab = s.fab := rfl
@[simp] theorem setMem_trans (f : Memory → Memory) (s : State) : (setMem f s).trans = s.trans := rfl
@[simp] theorem setMem_cp (f : Memory → Memory) (s : State) : (setMem f s).cp = s.cp := rfl
@[simp] theorem setMem_engines (f : Memory → Memory) (s : State) : (setMem f s).engines = s.engines := rfl
@[simp] theorem setMem_claims (f : Memory → Memory) (s : State) : (setMem f s).claims = s.claims := rfl
@[simp] theorem setMem_api (f : Memory → Memory) (s : State) : (setMem f s).api = s.api := rfl
@[simp] theorem setMem_sch (f : Memory → Memory) (s : State) : (setMem f s).sch = s.sch := rfl
@[simp] theorem setMem_pow (f : Memory → Memory) (s : State) : (setMem f s).pow = s.pow := rfl
@[simp] theorem setMem_pf (f : Memory → Memory) (s : State) : (setMem f s).pf = s.pf := rfl
@[simp] theorem setMem_gcycle (f : Memory → Memory) (s : State) : (setMem f s).gcycle = s.gcycle := rfl
@[simp] theorem setMem_insn (f : Memory → Memory) (s : State) : (setMem f s).insn = s.insn := rfl
@[simp] theorem setMem_latch (f : Memory → Memory) (s : State) : (setMem f s).latch = s.latch := rfl
@[simp] theorem setMem_hostLatch (f : Memory → Memory) (s : State) : (setMem f s).hostLatch = s.hostLatch := rfl
@[simp] theorem setMem_schedule (f : Memory → Memory) (s : State) : (setMem f s).schedule = s.schedule := rfl
@[simp] theorem setMem_turnNo (f : Memory → Memory) (s : State) : (setMem f s).turnNo = s.turnNo := rfl
@[simp] theorem setMem_freeNo (f : Memory → Memory) (s : State) : (setMem f s).freeNo = s.freeNo := rfl

/-! ### The general registers -/

@[simp] theorem setM_m (g : Gpr) (i : Fin 32) (v : W64) : (g.setM i v).m = g.m.set i v := rfl
@[simp] theorem setM_tags (g : Gpr) (i : Fin 32) (v : W64) : (g.setM i v).tags = g.tags.set (i.val / 2) false := rfl
@[simp] theorem setM_active (g : Gpr) (i : Fin 32) (v : W64) : (g.setM i v).active = g.active := rfl
@[simp] theorem setM_cur (g : Gpr) (i : Fin 32) (v : W64) : (g.setM i v).cur = g.cur := rfl
@[simp] theorem setCap_m (g : Gpr) (k : Cap) (lo hi : W64) (t : Bool) :
    (g.setCap k lo hi t).m = (g.m.set (2 * k.val) lo).set (2 * k.val + 1) hi := rfl
@[simp] theorem setCap_tags (g : Gpr) (k : Cap) (lo hi : W64) (t : Bool) :
    (g.setCap k lo hi t).tags = g.tags.set k.val t := rfl
@[simp] theorem setCap_cur (g : Gpr) (k : Cap) (lo hi : W64) (t : Bool) : (g.setCap k lo hi t).cur = g.cur := rfl
@[simp] theorem setCur_m (g : Gpr) (x : OlSet) : (g.setCur x).m = g.m := by unfold Gpr.setCur; split <;> rfl
@[simp] theorem setCur_tags (g : Gpr) (x : OlSet) : (g.setCur x).tags = g.tags := by unfold Gpr.setCur; split <;> rfl
@[simp] theorem setCur_active (g : Gpr) (x : OlSet) : (g.setCur x).active = g.active := by
  unfold Gpr.setCur; split <;> rfl
@[simp] theorem setCur_cur (g : Gpr) (x : OlSet) : (g.setCur x).cur = x := by
  unfold Gpr.setCur
  cases h : g.active <;> simp [Gpr.cur]
@[simp] theorem pushL_o (x : OlSet) (v : W64) : (x.pushL v).o = x.o := rfl
@[simp] theorem pushL_l (x : OlSet) (v : W64) : (x.pushL v).l = #v[v, x.l[0], x.l[1], x.l[2]] := rfl

/-- A last-result push touches only the active set. -/
theorem pushL_ctx_m (v : W64) (s : State) : (pushL v s).ctx.g.m = s.ctx.g.m := by simp [pushL]

end Sys2Proof.Machine
end

