-- ==== Sys2Proof/Laws/Memory.lean ====
section
/-!
SUPPORT. The laws of memory: the canonical form, read after write, and that every memory operation keeps the form.
-/

namespace Sys2Proof.Machine

/-! ### The canonical form -/

theorem cellsWfFrom_cons {lo k : Nat} {b : Byte} {t : List Host.Cell} :
    cellsWfFrom lo ((k, b) :: t) = true ↔ lo ≤ k ∧ b ≠ 0 ∧ cellsWfFrom (k + 1) t = true := by
  rw [cellsWfFrom]
  simp [and_assoc]

theorem cellsWfFrom_mono {lo lo' : Nat} (h : lo' ≤ lo) : ∀ {m : List Host.Cell}, cellsWfFrom lo m = true → cellsWfFrom lo' m = true
  | [], _ => rfl
  | (k, b) :: t, hm => by
    rw [cellsWfFrom_cons] at hm ⊢
    exact ⟨Nat.le_trans h hm.1, hm.2⟩

/-- Below the first address of a canonical list nothing is listed. -/
theorem cellGet_below {lo a : Nat} : ∀ {m : List Host.Cell}, cellsWfFrom lo m = true → a < lo → cellGet m a = 0
  | [], _, _ => rfl
  | (k, b) :: t, hm, ha => by
    rw [cellsWfFrom_cons] at hm
    have h1 : a ≠ k := by omega
    have h2 : a < k := by omega
    simp [cellGet, h1, h2]

theorem cellSet_wf {lo a : Nat} {b : Byte} : ∀ {m : List Host.Cell}, cellsWfFrom lo m = true → lo ≤ a →
    cellsWfFrom lo (cellSet m a b) = true
  | [], _, ha => by
    unfold cellSet
    split
    · rfl
    · next hb => exact cellsWfFrom_cons.2 ⟨ha, hb, rfl⟩
  | (k, c) :: t, hm, ha => by
    obtain ⟨h1, h2, h3⟩ := cellsWfFrom_cons.1 hm
    unfold cellSet
    split
    · next hk =>
      split
      · exact cellsWfFrom_mono (by omega) h3
      · next hb => exact cellsWfFrom_cons.2 ⟨ha, hb, hk ▸ h3⟩
    · next hk =>
      split
      · next hlt =>
        split
        · exact hm
        · next hb =>
          exact cellsWfFrom_cons.2 ⟨ha, hb, cellsWfFrom_cons.2 ⟨by omega, h2, h3⟩⟩
      · next hlt =>
        have ih := cellSet_wf (b := b) h3 (by omega : k + 1 ≤ a)
        exact cellsWfFrom_cons.2 ⟨h1, h2, ih⟩

theorem cellsSet_wf {lo : Nat} : ∀ {bs : List Byte} {a : Nat} {m : List Host.Cell}, cellsWfFrom lo m = true → lo ≤ a →
    cellsWfFrom lo (cellsSet m a bs) = true
  | [], _, _, hm, _ => hm
  | b :: bs, a, m, hm, ha => by
    unfold cellsSet
    exact cellsSet_wf (bs := bs) (cellSet_wf hm ha) (by omega)

theorem cellsFilter_wf {p : Host.Cell → Bool} : ∀ {m : List Host.Cell} {lo : Nat}, cellsWfFrom lo m = true →
    cellsWfFrom lo (m.filter p) = true
  | [], _, _ => rfl
  | (k, b) :: t, lo, hm => by
    obtain ⟨h1, h2, h3⟩ := cellsWfFrom_cons.1 hm
    have ih := cellsFilter_wf (p := p) h3
    by_cases hp : p (k, b) = true
    · rw [List.filter, hp]
      exact cellsWfFrom_cons.2 ⟨h1, h2, ih⟩
    · simp only [List.filter, Bool.not_eq_true] at hp ⊢
      rw [hp]
      exact cellsWfFrom_mono (by omega) ih

/-! ### Reading one byte after a write -/

theorem cellGet_cellSet {lo a x : Nat} {b : Byte} : ∀ {m : List Host.Cell}, cellsWfFrom lo m = true →
    cellGet (cellSet m a b) x = if x = a then b else cellGet m x
  | [], _ => by
    unfold cellSet
    split
    · next hb => subst hb; split <;> simp [cellGet]
    · simp only [cellGet]
      split
      · rfl
      · split <;> rfl
  | (k, c) :: t, hm => by
    obtain ⟨h1, h2, h3⟩ := cellsWfFrom_cons.1 hm
    have below : ∀ y, y < k + 1 → cellGet t y = 0 := fun y hy => cellGet_below h3 hy
    unfold cellSet
    split
    · next hk =>
      subst hk
      split
      · next hb =>
        subst hb
        by_cases hx : x = a
        · subst hx; simp [below x (by omega)]
        · by_cases hlt : x < a
          · simp [hx, cellGet, hlt, below x (by omega)]
          · simp [hx, cellGet, hlt]
      · by_cases hx : x = a <;> simp [cellGet, hx]
    · next hk =>
      split
      · next hlt =>
        split
        · next hb =>
          subst hb
          by_cases hx : x = a
          · subst hx; simp [cellGet, hk, hlt]
          · simp [hx]
        · by_cases hx : x = a
          · simp [cellGet, hx]
          · by_cases hl : x < a
            · have h4 : x ≠ k := by omega
              have h5 : x < k := by omega
              simp [cellGet, hx, hl, h4, h5]
            · simp [cellGet, hx, hl]
      · next hlt =>
        have ih := cellGet_cellSet (a := a) (x := x) (b := b) h3
        by_cases hx : x = k
        · have : x ≠ a := by omega
          simp [cellGet, hx]
          intro h; omega
        · by_cases hl : x < k
          · have : x ≠ a := by omega
            simp [cellGet, hx, hl, this]
          · simp [cellGet, hx, hl, ih]

/-- Read after write over a run of bytes. -/
theorem cellGet_cellsSet {lo x : Nat} : ∀ {bs : List Byte} {a : Nat} {m : List Host.Cell}, cellsWfFrom lo m = true → lo ≤ a →
    cellGet (cellsSet m a bs) x = if a ≤ x ∧ x < a + bs.length then bs.getD (x - a) 0 else cellGet m x
  | [], a, m, _, _ => by
    have : ¬ (a ≤ x ∧ x < a + ([] : List Byte).length) := by simp
    rw [if_neg this, cellsSet]
  | b :: bs, a, m, hm, ha => by
    unfold cellsSet
    rw [cellGet_cellsSet (bs := bs) (cellSet_wf hm ha) (by omega : lo ≤ a + 1), cellGet_cellSet hm]
    by_cases h1 : x = a
    · subst h1
      have h2 : ¬ (x + 1 ≤ x ∧ x < x + 1 + bs.length) := by omega
      have h3 : x ≤ x ∧ x < x + (b :: bs).length := by simp
      rw [if_neg h2, if_pos h3, Nat.sub_self]
      simp
    · by_cases h2 : a + 1 ≤ x ∧ x < a + 1 + bs.length
      · have h3 : a ≤ x ∧ x < a + (b :: bs).length := by simp only [List.length_cons]; omega
        have h4 : x - a = (x - (a + 1)) + 1 := by omega
        rw [if_pos h2, if_pos h3, h4]
        rfl
      · have h3 : ¬ (a ≤ x ∧ x < a + (b :: bs).length) := by simp only [List.length_cons]; omega
        rw [if_neg h2, if_neg h3, if_neg h1]

/-! ### Veils -/

theorem veilByte_append (v w : List (Nat × Nat × Nat)) (x : Nat) :
    veilByte (v ++ w) x = (veilByte v x).or (veilByte w x) := by
  induction v with
  | nil => simp [veilByte]
  | cons e t ih =>
    obtain ⟨b, n, k⟩ := e
    simp only [List.cons_append, veilByte]
    split
    · simp
    · exact ih

/-- Cut ranges cover what they covered outside the cut, and nothing inside it. -/
theorem veilByte_veilCut (a n x : Nat) : ∀ v : List (Nat × Nat × Nat),
    veilByte (veilCut v a n) x = if a ≤ x ∧ x < a + n then none else veilByte v x
  | [] => by simp [veilCut, veilByte]
  | (b, m, k) :: t => by
    have ih := veilByte_veilCut a n x t
    unfold veilCut
    simp only
    split
    · next h =>
      simp only [veilByte, ih]
      by_cases hx : a ≤ x ∧ x < a + n
      · have : ¬ (b ≤ x ∧ x < b + m) := by omega
        simp [hx, this]
      · simp [hx]
    · next h =>
      rw [veilByte_append, veilByte_append, ih]
      by_cases hx : a ≤ x ∧ x < a + n
      · rw [if_pos hx, if_pos hx]
        split <;> split <;> simp only [veilByte, Option.or_none] <;> repeat (first | rfl | (split <;> first | omega | skip))
      · rw [if_neg hx, if_neg hx]
        simp only [veilByte]
        by_cases hb : b ≤ x ∧ x < b + m
        · rw [if_pos hb]
          by_cases hf : x < a
          · have h1 : b < a := by omega
            have h2 : b ≤ x ∧ x < b + (a - b) := by omega
            rw [if_pos h1]
            simp [veilByte, h2]
          · have h1 : a + n < b + m := by omega
            have h2 : a + n ≤ x ∧ x < a + n + (b + m - (a + n)) := by omega
            have h3 : ¬ (b ≤ x ∧ x < b + (a - b)) := by omega
            rw [if_pos h1]
            split
            · simp [veilByte, h2, h3]
            · simp [veilByte, h2]
        · rw [if_neg hb]
          split <;> split <;> simp only [veilByte] <;> repeat (first | rfl | (split <;> first | omega | skip))

/-! ### The operations of memory: the byte each leaves at an address, and the form -/

theorem Memory.write_byte {m : Memory} (hm : m.wf = true) (a : Nat) (bs : List Byte) (x : Nat) :
    (m.write a bs).byte x = if a ≤ x ∧ x < a + bs.length then bs.getD (x - a) 0 else m.byte x := by
  simp only [Memory.byte, Memory.write, veilByte_veilCut]
  have h := cellGet_cellsSet (lo := 0) (x := x) (bs := bs) (a := a) (m := m.cells) hm (Nat.zero_le a)
  by_cases hx : a ≤ x ∧ x < a + bs.length
  · simp only [if_pos hx] at h ⊢
    exact h
  · simp only [if_neg hx] at h ⊢
    rw [h]

theorem Memory.write_wf {m : Memory} (hm : m.wf = true) (a : Nat) (bs : List Byte) : (m.write a bs).wf = true :=
  cellsSet_wf hm (Nat.zero_le a)

theorem Memory.writeAll_byte {m : Memory} (hm : m.wf = true) (a : Nat) (bs : List Byte) (x : Nat) :
    (m.writeAll a bs).byte x = if a ≤ x ∧ x < a + bs.length then bs.getD (x - a) 0 else m.byte x :=
  Memory.write_byte hm a bs x

theorem Memory.writeAll_wf {m : Memory} (hm : m.wf = true) (a : Nat) (bs : List Byte) : (m.writeAll a bs).wf = true :=
  cellsSet_wf hm (Nat.zero_le a)

theorem Memory.writeFwd_byte {m : Memory} (hm : m.wf = true) (w : Writer) (a : Nat) (bs : List Byte) (x : Nat) :
    (m.writeFwd w a bs).byte x = if a ≤ x ∧ x < a + bs.length then bs.getD (x - a) 0 else m.byte x :=
  Memory.write_byte hm a bs x

theorem Memory.writeFwd_wf {m : Memory} (hm : m.wf = true) (w : Writer) (a : Nat) (bs : List Byte) :
    (m.writeFwd w a bs).wf = true := cellsSet_wf hm (Nat.zero_le a)

theorem Memory.writeSeen_byte {m : Memory} (hm : m.wf = true) (now : Nat) (w : Writer) (a : Nat) (bs : List Byte) (x : Nat) :
    (m.writeSeen now w a bs).byte x = if a ≤ x ∧ x < a + bs.length then bs.getD (x - a) 0 else m.byte x :=
  Memory.write_byte hm a bs x

theorem Memory.writeSeen_wf {m : Memory} (hm : m.wf = true) (now : Nat) (w : Writer) (a : Nat) (bs : List Byte) :
    (m.writeSeen now w a bs).wf = true := cellsSet_wf hm (Nat.zero_le a)

@[simp] theorem Memory.performLines_cells (m : Memory) (p : WriteMsg → Bool) (now a n : Nat) :
    (m.performLines p now a n).cells = m.cells := rfl
@[simp] theorem Memory.performLines_byte (m : Memory) (p : WriteMsg → Bool) (now a n x : Nat) :
    (m.performLines p now a n).byte x = m.byte x := rfl

/-- Whoever sees a write first, the newest value of every byte is the same. -/
theorem Memory.writeBy_byte {m : Memory} (hm : m.wf = true) (now : Nat) (w : Writer) (g : Bool) (a : Nat) (bs : List Byte)
    (x : Nat) : (m.writeBy now w g a bs).byte x = if a ≤ x ∧ x < a + bs.length then bs.getD (x - a) 0 else m.byte x := by
  unfold Memory.writeBy
  split
  · exact Memory.writeAll_byte hm a bs x
  split
  · exact Memory.writeSeen_byte (m := m.performLines _ now a bs.length) hm now w a bs x
  · exact Memory.writeFwd_byte (m := m.performLines _ now a bs.length) hm w a bs x

theorem Memory.writeBy_wf {m : Memory} (hm : m.wf = true) (now : Nat) (w : Writer) (g : Bool) (a : Nat) (bs : List Byte) :
    (m.writeBy now w g a bs).wf = true := by
  unfold Memory.writeBy
  split
  · exact Memory.writeAll_wf hm a bs
  split
  · exact Memory.writeSeen_wf (m := m.performLines _ now a bs.length) hm now w a bs
  · exact Memory.writeFwd_wf (m := m.performLines _ now a bs.length) hm w a bs

@[simp] theorem Memory.drain_cells (m : Memory) (die : Nat) : (m.drain die).cells = m.cells := rfl
@[simp] theorem Memory.coverAll_cells (m : Memory) (die : Nat) (k : Option Key) : (m.coverAll die k).cells = m.cells := rfl
@[simp] theorem Memory.setPoison_cells (m : Memory) (a : Nat) : (m.setPoison a).cells = m.cells := rfl
@[simp] theorem Memory.setTag_cells (m : Memory) (g : Nat) (b : Bool) : (m.setTag g b).cells = m.cells := rfl
@[simp] theorem Memory.veilRange_cells (m : Memory) (a n k : Nat) : (m.veilRange a n k).cells = m.cells := rfl
@[simp] theorem Memory.cleanCovered_cells (m : Memory) (ws : List (Nat × Nat)) : (m.cleanCovered ws).cells = m.cells := by
  unfold Memory.cleanCovered
  split <;> rfl

theorem setTags_cells (g : Nat) (f : Nat → Bool) : ∀ (js : List Nat) (m : Memory),
    (js.foldl (fun m j => m.setTag (g + j) (f j)) m).cells = m.cells
  | [], _ => rfl
  | j :: js, m => by simp [setTags_cells g f js]

@[simp] theorem tagBitsSet_cells : ∀ (bs : List Byte) (m : Memory) (g : Nat), (tagBitsSet m g bs).cells = m.cells
  | [], _, _ => rfl
  | b :: bs, m, g => by
    unfold tagBitsSet
    simp only
    rw [tagBitsSet_cells bs, setTags_cells]

theorem Memory.zeroRange_wf {m : Memory} (hm : m.wf = true) (a n : Nat) : (m.zeroRange a n).wf = true :=
  cellsFilter_wf hm

theorem clearDie_wf {m : Memory} (hm : m.wf = true) (die : Nat) : (clearDie die m).wf = true :=
  cellsFilter_wf hm

/-- A checked read changes no byte. -/
@[simp] theorem Memory.noted_cells (m : Memory) (a n : Nat) : (m.noted a n).cells = m.cells := by
  unfold Memory.noted
  split
  · rfl
  · suffices h : ∀ (l : List Nat) (m : Memory), (l.foldl (fun m i =>
        if isGlobal (a + i) && m.lineBad ((a + i) / 64 * 64) then m.setPoison (a + i) else m) m).cells = m.cells from h _ m
    intro l
    induction l with
    | nil => intro m; rfl
    | cons i t ih =>
      intro m
      rw [List.foldl_cons, ih]
      split <;> rfl

/-- A read changes no byte. -/
@[simp] theorem Memory.readAtom_cells (m : Memory) (die now r : Nat) (k : Option Key) (a n : Nat) :
    (m.readAtom die now r k a n).2.2.cells = m.cells := rfl

@[simp] theorem Memory.readVis_cells (m : Memory) (die now r : Nat) (k : Option Key) (a n : Nat) :
    (m.readVis die now r k a n).2.cells = m.cells := by
  unfold Memory.readVis
  split
  · rfl
  · suffices h : ∀ (l : List (Nat × Nat)) (x : List Byte × Memory), (l.foldl (fun acc p =>
        let x := acc.2.readAtom die now r k p.1 p.2
        (acc.1 ++ x.1, x.2.2)) x).2.cells = x.2.cells from h _ ([], m)
    intro l
    induction l with
    | nil => intro x; rfl
    | cons p t ih =>
      intro x
      rw [List.foldl_cons, ih]
      rfl

/-- Without writes on their way a read returns the bytes of memory. -/
theorem Memory.readVis_calm {m : Memory} (h : m.msgs = []) (die now r : Nat) (k : Option Key) (a n : Nat) :
    m.readVis die now r k a n = (m.bytes a n, m) := by
  simp [Memory.readVis, h]

theorem Memory.bytes_length (m : Memory) : ∀ (n a : Nat), (m.bytes a n).length = n
  | 0, _ => rfl
  | n + 1, a => by simp [Memory.bytes, m.bytes_length n]

theorem Memory.bytes_getD (m : Memory) : ∀ (n a i : Nat), i < n → (m.bytes a n).getD i 0 = m.byte (a + i)
  | n + 1, a, 0, _ => by simp [Memory.bytes]
  | n + 1, a, i + 1, h => by
    have : a + (i + 1) = a + 1 + i := by omega
    rw [Memory.bytes, List.getD_cons_succ, m.bytes_getD n (a + 1) i (by omega), this]

/-- Bytes read from where they were written, whole. -/
theorem Memory.write_bytes {m : Memory} (hm : m.wf = true) (a : Nat) (bs : List Byte) :
    (m.write a bs).bytes a bs.length = bs := by
  apply List.ext_getElem
  · rw [Memory.bytes_length]
  · intro i h1 h2
    have h3 := (m.write a bs).bytes_getD bs.length a i h2
    rw [Memory.write_byte hm, if_pos (by omega), Nat.add_sub_cancel_left] at h3
    rw [List.getD_eq_getElem?_getD, List.getD_eq_getElem?_getD, List.getElem?_eq_getElem h1, List.getElem?_eq_getElem h2] at h3
    exact h3

theorem reset_wf : State.reset.mem.wf = true := rfl

end Sys2Proof.Machine
end

