-- ==== Sys2Proof/Laws/Retire.lean ====
section
/-!
SUPPORT. What lookahead windows and retiring can change, and how the shared operand forms end.
-/

namespace Sys2Proof.Machine

open Host (Outcome)

/-! ### The result of an instruction -/

@[simp] theorem finish_ok (s t : State) : finish s (.ok t) = .next t := rfl
@[simp] theorem finish4_ok (s t : State) : finish4 s (.ok t) = .next (retire 4 t) := rfl
@[simp] theorem res_bind_ok {α β : Type} (a : α) (f : α → Res β) : ((.ok a : Res α) >>= f) = f a := rfl
@[simp] theorem res_bind_error {α β : Type} (e : Stop) (f : α → Res β) : ((.error e : Res α) >>= f) = .error e := rfl

/-- A chain of steps that ends well had a first part that ended well. -/
theorem res_bind_eq_ok {α β : Type} {x : Res α} {f : α → Res β} {b : β} (h : (x >>= f) = .ok b) :
    ∃ a, x = .ok a ∧ f a = .ok b := by
  cases x with
  | error e => simp at h
  | ok a => exact ⟨a, rfl, h⟩

/-! ### What misses leave behind (R190, R191, R198) -/

@[simp] theorem keepWalk_ok {α : Type} (t : State) (a : α) : keepWalk t (.ok a) = .ok a := rfl

/-- Keeping what a miss left changes no result that is well. -/
theorem keepWalk_eq_ok {α : Type} {t : State} {r : Res α} {a : α} : keepWalk t r = .ok a ↔ r = .ok a := by
  unfold keepWalk
  split
  · simp
  · rfl

@[simp] theorem afterMiss_self (s : State) : s.afterMiss s = s := rfl
@[simp] theorem afterMiss_mem (s t : State) : (s.afterMiss t).mem = t.mem := rfl
@[simp] theorem afterMiss_fab (s t : State) : (s.afterMiss t).fab = t.fab := rfl
@[simp] theorem afterMiss_g (s t : State) : (s.afterMiss t).ctx.g = s.ctx.g := rfl
@[simp] theorem afterMiss_pc (s t : State) : (s.afterMiss t).ctx.pc = s.ctx.pc := rfl
@[simp] theorem afterMiss_st (s t : State) : (s.afterMiss t).ctx.st = s.ctx.st := rfl
@[simp] theorem afterMiss_tr (s t : State) : (s.afterMiss t).ctx.tr = s.ctx.tr := rfl
@[simp] theorem afterMiss_vec (s t : State) : (s.afterMiss t).ctx.vec = s.ctx.vec := rfl
@[simp] theorem afterMiss_qs (s t : State) : (s.afterMiss t).ctx.qs = s.ctx.qs := rfl

/-! ### Registers that results are owed to -/

/-- The destinations of a list of lookahead results. -/
def laRegs (la : List LaEnt) : List Reg := la.flatMap fun e => e.dests.map Prod.fst

/-- `h` differs from `g` at most in the main and operand registers of `rs`, and in the tags of their pairs. -/
structure Gpr.SameBut (rs : List Reg) (g h : Gpr) : Prop where
  m : ∀ i : Fin 32, Reg.m i ∉ rs → h.m[i] = g.m[i]
  o : ∀ i : Fin 8, Reg.o i ∉ rs → h.cur.o[i] = g.cur.o[i]
  tag : ∀ k : Fin 16, (∀ i : Fin 32, i.val / 2 = k.val → Reg.m i ∉ rs) → h.tags[k] = g.tags[k]
  l : h.cur.l = g.cur.l
  active : h.active = g.active

theorem Gpr.SameBut.rfl {rs : List Reg} {g : Gpr} : g.SameBut rs g := ⟨fun _ _ => by trivial, fun _ _ => by trivial, fun _ _ => by trivial, by trivial, by trivial⟩

theorem Gpr.SameBut.trans {rs : List Reg} {g h k : Gpr} (a : g.SameBut rs h) (b : h.SameBut rs k) : g.SameBut rs k :=
  ⟨fun i hi => (b.m i hi).trans (a.m i hi), fun i hi => (b.o i hi).trans (a.o i hi),
    fun i hi => (b.tag i hi).trans (a.tag i hi), b.l.trans a.l, b.active.trans a.active⟩

theorem Gpr.SameBut.mono {rs qs : List Reg} {g h : Gpr} (hq : ∀ r ∈ rs, r ∈ qs) (a : g.SameBut rs h) : g.SameBut qs h :=
  ⟨fun i hi => a.m i fun x => hi (hq _ x), fun i hi => a.o i fun x => hi (hq _ x),
    fun k hk => a.tag k fun i hi x => hk i hi (hq _ x), a.l, a.active⟩

theorem Gpr.setM_sameBut (g : Gpr) (i : Fin 32) (v : W64) : g.SameBut [.m i] (g.setM i v) where
  m j hj := by
    have : i.val ≠ j.val := fun e => hj (by simp [Fin.ext e])
    simp [this]
  o j _ := by simp
  tag k hk := by
    have : i.val / 2 ≠ k.val := fun e => hk i e (by simp)
    simp [this]
  l := by simp
  active := by simp

theorem Gpr.setO_sameBut (g : Gpr) (i : Fin 8) (v : W64) :
    g.SameBut [.o i] (g.setCur { g.cur with o := g.cur.o.set i v }) where
  m j _ := by simp
  o j hj := by
    have : i.val ≠ j.val := fun e => hj (by simp [Fin.ext e])
    simp [this]
  tag k _ := by simp
  l := by simp
  active := by simp

theorem Gpr.put_sameBut (g : Gpr) (r : Reg) (v : W64) : g.SameBut [r] (g.put r v) := by
  cases r <;> first | exact Gpr.setM_sameBut .. | exact Gpr.setO_sameBut .. | exact Gpr.SameBut.rfl

theorem Gpr.putList_sameBut (ds : List (Reg × W64)) : ∀ g : Gpr,
    g.SameBut (ds.map Prod.fst) (ds.foldl (fun g d => g.put d.1 d.2) g) := by
  induction ds with
  | nil => exact fun g => Gpr.SameBut.rfl
  | cons d ds ih =>
    intro g
    refine ((g.put_sameBut d.1 d.2).mono ?_).trans ((ih _).mono ?_) <;> simp +contextual

theorem Gpr.putAll_sameBut (g : Gpr) (ds : List (Reg × W64)) (tag : Option Bool) :
    g.SameBut (ds.map Prod.fst) (g.putAll ds tag) := by
  have h := Gpr.putList_sameBut ds g
  unfold Gpr.putAll
  simp only
  split
  · next t i v ds' =>
    refine ⟨h.m, h.o, fun k hk => ?_, h.l, h.active⟩
    have : i.val / 2 ≠ k.val := fun e => hk i e (by simp)
    simp only [Fin.getElem_fin, Vector.getElem_set, this, if_false]
    exact h.tag k hk
  · exact h

/-! ### Windows -/

/-- What writing lookahead results can change in a context: their destinations and the sticky flags. -/
structure Ctx.LaSame (rs : List Reg) (c d : Ctx) : Prop where
  g : c.g.SameBut rs d.g
  rest : ∃ g la fs lf, d = { c with g := g, la := la, sys := { c.sys with fstat := fs, lflags := lf } }

theorem Ctx.LaSame.rfl {rs : List Reg} {c : Ctx} : c.LaSame rs c := ⟨Gpr.SameBut.rfl, c.g, c.la, c.sys.fstat, c.sys.lflags, by trivial⟩

theorem Ctx.LaSame.trans {rs : List Reg} {c d e : Ctx} (a : c.LaSame rs d) (b : d.LaSame rs e) : c.LaSame rs e := by
  refine ⟨a.g.trans b.g, ?_⟩
  obtain ⟨g, la, fs, lf, rfl⟩ := a.rest
  exact b.rest

theorem Ctx.LaSame.mono {rs qs : List Reg} {c d : Ctx} (hq : ∀ r ∈ rs, r ∈ qs) (a : c.LaSame rs d) : c.LaSame qs d :=
  ⟨a.g.mono hq, a.rest⟩

theorem LaEnt.write_same (e : LaEnt) (c : Ctx) : c.LaSame (e.dests.map Prod.fst) (e.write c) := by
  unfold LaEnt.write
  split
  · exact Ctx.LaSame.rfl
  · exact ⟨c.g.putAll_sameBut .., _, _, _, _, by trivial⟩

theorem LaEnt.writeAll_same (es : List LaEnt) : ∀ c : Ctx, c.LaSame (laRegs es) (es.foldl (fun c e => e.write c) c) := by
  induction es with
  | nil => exact fun c => Ctx.LaSame.rfl
  | cons e es ih =>
    intro c
    refine ((e.write_same c).mono ?_).trans ((ih _).mono ?_)
    · intro r hr; simp only [laRegs, List.flatMap_cons, List.mem_append]; exact .inl hr
    · intro r hr; simp only [laRegs, List.flatMap_cons, List.mem_append] at hr ⊢; exact .inr hr

theorem LaEnt.writeAll_la (es : List LaEnt) : ∀ c : Ctx, (es.foldl (fun c e => e.write c) c).la = c.la := by
  induction es with
  | nil => exact fun c => rfl
  | cons e es ih => intro c; rw [List.foldl_cons, ih]; unfold LaEnt.write; split <;> rfl

/-- Changing which windows are open is no change of registers. -/
theorem Ctx.LaSame.withLa {rs : List Reg} {c d : Ctx} (a : c.LaSame rs d) (la : List LaEnt) : c.LaSame rs { d with la := la } := by
  obtain ⟨g, l, fs, lf, h⟩ := a.rest
  exact ⟨a.g, g, la, fs, lf, by rw [h]⟩

theorem Ctx.flushLa_same (c : Ctx) : c.LaSame (laRegs c.la) c.flushLa := (LaEnt.writeAll_same c.la c).withLa []

@[simp] theorem Ctx.flushLa_la (c : Ctx) : c.flushLa.la = [] := rfl

theorem Ctx.flushLa_none {c : Ctx} (h : c.la = []) : c.flushLa = c := by
  unfold Ctx.flushLa
  cases c
  simp_all

theorem laRegs_filter (p : LaEnt → Bool) (es : List LaEnt) : ∀ r ∈ laRegs (es.filter p), r ∈ laRegs es := by
  intro r hr
  simp only [laRegs, List.mem_flatMap, List.mem_filter] at hr ⊢
  obtain ⟨e, ⟨he, _⟩, h⟩ := hr
  exact ⟨e, he, h⟩

theorem Ctx.stepLa_same (c : Ctx) : c.LaSame (laRegs c.la) c.stepLa :=
  ((LaEnt.writeAll_same (c.la.filter fun e => decide (e.left ≤ 1)) c).mono (laRegs_filter _ _)).withLa _

theorem Ctx.stepLa_none {c : Ctx} (h : c.la = []) : c.stepLa = c := by
  unfold Ctx.stepLa
  cases c
  simp_all

/-! ### Retiring -/

/-- Counting events touches the event counters only. -/
theorem addEvent_evc (code n : Nat) (s : State) :
    ∃ evc, addEvent code n s = { s with ctx := { s.ctx with sys := { s.ctx.sys with evc := evc } } } := by
  unfold addEvent Ctx.addEvent
  split
  · exact ⟨_, rfl⟩
  · exact ⟨s.ctx.sys.evc, rfl⟩

@[simp] theorem addEvent_cur (code n : Nat) (s : State) : (addEvent code n s).cur = s.cur := by
  obtain ⟨e, h⟩ := addEvent_evc code n s; rw [h]
@[simp] theorem addEvent_live (code n : Nat) (s : State) : (addEvent code n s).live = s.live := by
  obtain ⟨e, h⟩ := addEvent_evc code n s; rw [h]
@[simp] theorem addEvent_parked (code n : Nat) (s : State) : (addEvent code n s).parked = s.parked := by
  obtain ⟨e, h⟩ := addEvent_evc code n s; rw [h]
@[simp] theorem addEvent_mem (code n : Nat) (s : State) : (addEvent code n s).mem = s.mem := by
  obtain ⟨e, h⟩ := addEvent_evc code n s; rw [h]
@[simp] theorem addEvent_fab (code n : Nat) (s : State) : (addEvent code n s).fab = s.fab := by
  obtain ⟨e, h⟩ := addEvent_evc code n s; rw [h]
@[simp] theorem addEvent_trans (code n : Nat) (s : State) : (addEvent code n s).trans = s.trans := by
  obtain ⟨e, h⟩ := addEvent_evc code n s; rw [h]
@[simp] theorem addEvent_cp (code n : Nat) (s : State) : (addEvent code n s).cp = s.cp := by
  obtain ⟨e, h⟩ := addEvent_evc code n s; rw [h]
@[simp] theorem addEvent_engines (code n : Nat) (s : State) : (addEvent code n s).engines = s.engines := by
  obtain ⟨e, h⟩ := addEvent_evc code n s; rw [h]
@[simp] theorem addEvent_api (code n : Nat) (s : State) : (addEvent code n s).api = s.api := by
  obtain ⟨e, h⟩ := addEvent_evc code n s; rw [h]
@[simp] theorem addEvent_sch (code n : Nat) (s : State) : (addEvent code n s).sch = s.sch := by
  obtain ⟨e, h⟩ := addEvent_evc code n s; rw [h]
@[simp] theorem addEvent_pow (code n : Nat) (s : State) : (addEvent code n s).pow = s.pow := by
  obtain ⟨e, h⟩ := addEvent_evc code n s; rw [h]
@[simp] theorem addEvent_pf (code n : Nat) (s : State) : (addEvent code n s).pf = s.pf := by
  obtain ⟨e, h⟩ := addEvent_evc code n s; rw [h]
@[simp] theorem addEvent_gcycle (code n : Nat) (s : State) : (addEvent code n s).gcycle = s.gcycle := by
  obtain ⟨e, h⟩ := addEvent_evc code n s; rw [h]
@[simp] theorem addEvent_insn (code n : Nat) (s : State) : (addEvent code n s).insn = s.insn := by
  obtain ⟨e, h⟩ := addEvent_evc code n s; rw [h]
@[simp] theorem addEvent_latch (code n : Nat) (s : State) : (addEvent code n s).latch = s.latch := by
  obtain ⟨e, h⟩ := addEvent_evc code n s; rw [h]
@[simp] theorem addEvent_hostLatch (code n : Nat) (s : State) : (addEvent code n s).hostLatch = s.hostLatch := by
  obtain ⟨e, h⟩ := addEvent_evc code n s; rw [h]
@[simp] theorem addEvent_schedule (code n : Nat) (s : State) : (addEvent code n s).schedule = s.schedule := by
  obtain ⟨e, h⟩ := addEvent_evc code n s; rw [h]
@[simp] theorem addEvent_turnNo (code n : Nat) (s : State) : (addEvent code n s).turnNo = s.turnNo := by
  obtain ⟨e, h⟩ := addEvent_evc code n s; rw [h]
@[simp] theorem addEvent_freeNo (code n : Nat) (s : State) : (addEvent code n s).freeNo = s.freeNo := by
  obtain ⟨e, h⟩ := addEvent_evc code n s; rw [h]
@[simp] theorem addEvent_ctx_g (code n : Nat) (s : State) : (addEvent code n s).ctx.g = s.ctx.g := by
  obtain ⟨e, h⟩ := addEvent_evc code n s; rw [h]
@[simp] theorem addEvent_ctx_st (code n : Nat) (s : State) : (addEvent code n s).ctx.st = s.ctx.st := by
  obtain ⟨e, h⟩ := addEvent_evc code n s; rw [h]
@[simp] theorem addEvent_ctx_tr (code n : Nat) (s : State) : (addEvent code n s).ctx.tr = s.ctx.tr := by
  obtain ⟨e, h⟩ := addEvent_evc code n s; rw [h]
@[simp] theorem addEvent_ctx_vec (code n : Nat) (s : State) : (addEvent code n s).ctx.vec = s.ctx.vec := by
  obtain ⟨e, h⟩ := addEvent_evc code n s; rw [h]
@[simp] theorem addEvent_ctx_qs (code n : Nat) (s : State) : (addEvent code n s).ctx.qs = s.ctx.qs := by
  obtain ⟨e, h⟩ := addEvent_evc code n s; rw [h]
@[simp] theorem addEvent_ctx_pc (code n : Nat) (s : State) : (addEvent code n s).ctx.pc = s.ctx.pc := by
  obtain ⟨e, h⟩ := addEvent_evc code n s; rw [h]
@[simp] theorem addEvent_ctx_pcBad (code n : Nat) (s : State) : (addEvent code n s).ctx.pcBad = s.ctx.pcBad := by
  obtain ⟨e, h⟩ := addEvent_evc code n s; rw [h]
@[simp] theorem addEvent_ctx_rng (code n : Nat) (s : State) : (addEvent code n s).ctx.rng = s.ctx.rng := by
  obtain ⟨e, h⟩ := addEvent_evc code n s; rw [h]
@[simp] theorem addEvent_ctx_la (code n : Nat) (s : State) : (addEvent code n s).ctx.la = s.ctx.la := by
  obtain ⟨e, h⟩ := addEvent_evc code n s; rw [h]
@[simp] theorem addEvent_ctx_amo (code n : Nat) (s : State) : (addEvent code n s).ctx.amo = s.ctx.amo := by
  obtain ⟨e, h⟩ := addEvent_evc code n s; rw [h]
@[simp] theorem addEvent_ctx_acks (code n : Nat) (s : State) : (addEvent code n s).ctx.acks = s.ctx.acks := by
  obtain ⟨e, h⟩ := addEvent_evc code n s; rw [h]
@[simp] theorem addEvent_ctx_engine (code n : Nat) (s : State) : (addEvent code n s).ctx.engine = s.ctx.engine := by
  obtain ⟨e, h⟩ := addEvent_evc code n s; rw [h]
@[simp] theorem addEvent_ctx_info (code n : Nat) (s : State) : (addEvent code n s).ctx.info = s.ctx.info := by
  obtain ⟨e, h⟩ := addEvent_evc code n s; rw [h]
@[simp] theorem addEvent_ctx_waitQ (code n : Nat) (s : State) : (addEvent code n s).ctx.waitQ = s.ctx.waitQ := by
  obtain ⟨e, h⟩ := addEvent_evc code n s; rw [h]
@[simp] theorem addEvent_ctx_wfi (code n : Nat) (s : State) : (addEvent code n s).ctx.wfi = s.ctx.wfi := by
  obtain ⟨e, h⟩ := addEvent_evc code n s; rw [h]
@[simp] theorem addEvent_ctx_halted (code n : Nat) (s : State) : (addEvent code n s).ctx.halted = s.ctx.halted := by
  obtain ⟨e, h⟩ := addEvent_evc code n s; rw [h]
@[simp] theorem addEvent_ctx_sys_gthread (code n : Nat) (s : State) : (addEvent code n s).ctx.sys.gthread = s.ctx.sys.gthread := by
  obtain ⟨e, h⟩ := addEvent_evc code n s; rw [h]
@[simp] theorem addEvent_ctx_sys_grpmap (code n : Nat) (s : State) : (addEvent code n s).ctx.sys.grpmap = s.ctx.sys.grpmap := by
  obtain ⟨e, h⟩ := addEvent_evc code n s; rw [h]
@[simp] theorem addEvent_ctx_sys_vfid (code n : Nat) (s : State) : (addEvent code n s).ctx.sys.vfid = s.ctx.sys.vfid := by
  obtain ⟨e, h⟩ := addEvent_evc code n s; rw [h]
@[simp] theorem addEvent_ctx_sys_home (code n : Nat) (s : State) : (addEvent code n s).ctx.sys.home = s.ctx.sys.home := by
  obtain ⟨e, h⟩ := addEvent_evc code n s; rw [h]
@[simp] theorem addEvent_ctx_sys_ax (code n : Nat) (s : State) : (addEvent code n s).ctx.sys.ax = s.ctx.sys.ax := by
  obtain ⟨e, h⟩ := addEvent_evc code n s; rw [h]
@[simp] theorem addEvent_ctx_sys_fillv (code n : Nat) (s : State) : (addEvent code n s).ctx.sys.fillv = s.ctx.sys.fillv := by
  obtain ⟨e, h⟩ := addEvent_evc code n s; rw [h]
@[simp] theorem addEvent_ctx_sys_spillsz (code n : Nat) (s : State) : (addEvent code n s).ctx.sys.spillsz = s.ctx.sys.spillsz := by
  obtain ⟨e, h⟩ := addEvent_evc code n s; rw [h]
@[simp] theorem addEvent_ctx_sys_ovfptr (code n : Nat) (s : State) : (addEvent code n s).ctx.sys.ovfptr = s.ctx.sys.ovfptr := by
  obtain ⟨e, h⟩ := addEvent_evc code n s; rw [h]
@[simp] theorem addEvent_ctx_sys_tdmask (code n : Nat) (s : State) : (addEvent code n s).ctx.sys.tdmask = s.ctx.sys.tdmask := by
  obtain ⟨e, h⟩ := addEvent_evc code n s; rw [h]
@[simp] theorem addEvent_ctx_sys_lflags (code n : Nat) (s : State) : (addEvent code n s).ctx.sys.lflags = s.ctx.sys.lflags := by
  obtain ⟨e, h⟩ := addEvent_evc code n s; rw [h]
@[simp] theorem addEvent_ctx_sys_fstat (code n : Nat) (s : State) : (addEvent code n s).ctx.sys.fstat = s.ctx.sys.fstat := by
  obtain ⟨e, h⟩ := addEvent_evc code n s; rw [h]
@[simp] theorem addEvent_ctx_sys_wdesc5 (code n : Nat) (s : State) : (addEvent code n s).ctx.sys.wdesc5 = s.ctx.sys.wdesc5 := by
  obtain ⟨e, h⟩ := addEvent_evc code n s; rw [h]
@[simp] theorem addEvent_ctx_sys_wdesc6 (code n : Nat) (s : State) : (addEvent code n s).ctx.sys.wdesc6 = s.ctx.sys.wdesc6 := by
  obtain ⟨e, h⟩ := addEvent_evc code n s; rw [h]
@[simp] theorem addEvent_ctx_sys_meter (code n : Nat) (s : State) : (addEvent code n s).ctx.sys.meter = s.ctx.sys.meter := by
  obtain ⟨e, h⟩ := addEvent_evc code n s; rw [h]
@[simp] theorem addEvent_ctx_sys_mlimit (code n : Nat) (s : State) : (addEvent code n s).ctx.sys.mlimit = s.ctx.sys.mlimit := by
  obtain ⟨e, h⟩ := addEvent_evc code n s; rw [h]
@[simp] theorem addEvent_ctx_sys_evsel (code n : Nat) (s : State) : (addEvent code n s).ctx.sys.evsel = s.ctx.sys.evsel := by
  obtain ⟨e, h⟩ := addEvent_evc code n s; rw [h]

/-- All that retiring can change: the windows that end with their results, the pc, the wait marks and the event counters. -/
structure Retires (len : Nat) (s t : State) : Prop where
  regs : s.ctx.g.SameBut (laRegs s.ctx.la) t.ctx.g
  pc : t.ctx.pc = pcAdd s.ctx.pc len
  rest : ∃ g la pc evc fs lf, t = { s with ctx := { s.ctx with
    g := g, la := la, pc := pc, pcBad := false, waitQ := false, wfi := false,
    sys := { s.ctx.sys with evc := evc, fstat := fs, lflags := lf } } }

theorem stepLa_pc (c : Ctx) : c.stepLa.pc = c.pc := by
  obtain ⟨g, la, fs, lf, h⟩ := c.stepLa_same.rest
  rw [h]

theorem retire_retires (len : Nat) (s : State) : Retires len s (retire len s) := by
  have hg := s.ctx.stepLa_same.g
  obtain ⟨g, la, fs, lf, h⟩ := s.ctx.stepLa_same.rest
  unfold retire
  simp only
  generalize s.ctx.stepLa = d at *
  subst h
  obtain ⟨evc, h⟩ := addEvent_evc 0x01 1 { s with ctx := { s.ctx with
    g := g, la := la, pc := pcAdd s.ctx.pc len, pcBad := false, waitQ := false, wfi := false,
    sys := { s.ctx.sys with fstat := fs, lflags := lf } } }
  rw [h]
  exact ⟨hg, rfl, g, la, _, evc, fs, lf, rfl⟩

/-- Retiring moves the sticky flags only by what an ending window writes. -/
theorem writeAll_fstat_none : ∀ (es : List LaEnt) (c : Ctx), (∀ e ∈ es, e.fstat = 0) →
    (es.foldl (fun c e => e.write c) c).sys.fstat = c.sys.fstat
  | [], _, _ => rfl
  | e :: es, c, h => by
    rw [List.foldl_cons, writeAll_fstat_none es _ fun x hx => h x (List.mem_cons_of_mem _ hx)]
    unfold LaEnt.write
    split
    · rfl
    · simp [h e List.mem_cons_self]

theorem writeAll_lflags_none : ∀ (es : List LaEnt) (c : Ctx), (∀ e ∈ es, e.lflags = 0) →
    (es.foldl (fun c e => e.write c) c).sys.lflags = c.sys.lflags
  | [], _, _ => rfl
  | e :: es, c, h => by
    rw [List.foldl_cons, writeAll_lflags_none es _ fun x hx => h x (List.mem_cons_of_mem _ hx)]
    unfold LaEnt.write
    split
    · rfl
    · simp [h e List.mem_cons_self]

theorem retire_fstat (len : Nat) (s : State) (h : ∀ e ∈ s.ctx.la, e.fstat = 0) :
    (retire len s).ctx.sys.fstat = s.ctx.sys.fstat := by
  unfold retire
  rw [addEvent_ctx_sys_fstat]
  exact writeAll_fstat_none _ _ fun e he => h e (List.mem_filter.1 he).1

theorem retire_lflags (len : Nat) (s : State) (h : ∀ e ∈ s.ctx.la, e.lflags = 0) :
    (retire len s).ctx.sys.lflags = s.ctx.sys.lflags := by
  unfold retire
  rw [addEvent_ctx_sys_lflags]
  exact writeAll_lflags_none _ _ fun e he => h e (List.mem_filter.1 he).1

/-! ### Reading and writing plain registers -/

@[simp] theorem readReg_m (i : Fin 32) (s : State) : readReg (.m i) s = .ok s.ctx.g.m[i] := rfl
@[simp] theorem readReg_o (i : Fin 8) (s : State) : readReg (.o i) s = .ok s.ctx.g.cur.o[i] := rfl
@[simp] theorem readReg_l (i : Fin 4) (s : State) : readReg (.l i) s = .ok s.ctx.g.cur.l[i] := rfl
@[simp] theorem readReg_z (s : State) : readReg .z s = .ok 0 := rfl
@[simp] theorem writeReg_m (i : Fin 32) (v : W64) (s : State) : writeReg (.m i) v s = .ok (setG (fun g => g.setM i v) s) := rfl
@[simp] theorem writeReg_z (v : W64) (s : State) : writeReg .z v s = .ok s := rfl
@[simp] theorem popReg_m (i : Fin 32) (s : State) : popReg (.m i) s = s := rfl
@[simp] theorem popReg_o (i : Fin 8) (s : State) : popReg (.o i) s = s := rfl
@[simp] theorem popReg_l (i : Fin 4) (s : State) : popReg (.l i) s = s := rfl
@[simp] theorem popReg_z (s : State) : popReg .z s = s := rfl

/-- The one-cycle forms end well when their sources can be read and their destination written. -/
theorem one1_ok {f : W64 → W64} {rd x : Reg} {s u : State} {a : W64} (hx : readReg x s = .ok a)
    (hw : writeReg rd (f a) s = .ok u) : one1 f rd x s = .next (retire 4 (pushL (f a) (popReg x u))) := by
  simp [one1, hx, putOne, putPlain, hw, popAll]

theorem one2_ok {f : W64 → W64 → W64} {rd x y : Reg} {s u : State} {a b : W64} (hx : readReg x s = .ok a)
    (hy : readReg y s = .ok b) (hw : writeReg rd (f a b) s = .ok u) :
    one2 f rd x y s = .next (retire 4 (pushL (f a b) (popReg y (popReg x u)))) := by
  simp [one2, hx, hy, putOne, putPlain, hw, popAll]

theorem fp1_ok {f : W64 → W64 × FFlags} {rd x : Reg} {s u : State} {a : W64} (hx : readReg x s = .ok a)
    (hw : writeReg rd (f a).1 s = .ok u) :
    fp1 f rd x s = .next (retire 4 (orFstat (f a).2 (pushL (f a).1 (popReg x u)))) := by
  simp [fp1, hx, putOne, putPlain, hw, popAll, setFstat]

theorem fp2_ok {f : W64 → W64 → W64 × FFlags} {rd x y : Reg} {s u : State} {a b : W64} (hx : readReg x s = .ok a)
    (hy : readReg y s = .ok b) (hw : writeReg rd (f a b).1 s = .ok u) :
    fp2 f rd x y s = .next (retire 4 (orFstat (f a b).2 (pushL (f a b).1 (popReg y (popReg x u))))) := by
  simp [fp2, hx, hy, putOne, putPlain, hw, popAll, setFstat]

theorem fp3_ok {f : W64 → W64 → W64 → W64 × FFlags} {rd x y w : Reg} {s u : State} {a b c : W64} (hx : readReg x s = .ok a)
    (hy : readReg y s = .ok b) (hz : readReg w s = .ok c) (hw : writeReg rd (f a b c).1 s = .ok u) :
    fp3 f rd x y w s = .next (retire 4 (orFstat (f a b c).2 (pushL (f a b c).1 (popReg w (popReg y (popReg x u)))))) := by
  simp [fp3, hx, hy, hz, putOne, putPlain, hw, popAll, setFstat]

theorem lns1_ok {f : W64 → W64 × LFlags} {rd x : Reg} {s u : State} {a : W64} (hx : readReg x s = .ok a)
    (hw : writeReg rd (f a).1 s = .ok u) :
    lns1 f rd x s = .next (retire 4 (orLflags (f a).2 (pushL (f a).1 (popReg x u)))) := by
  simp [lns1, hx, putOne, putPlain, hw, popAll, setLflags]

theorem lns2_ok {f : W64 → W64 → W64 × LFlags} {rd x y : Reg} {s u : State} {a b : W64} (hx : readReg x s = .ok a)
    (hy : readReg y s = .ok b) (hw : writeReg rd (f a b).1 s = .ok u) :
    lns2 f rd x y s = .next (retire 4 (orLflags (f a b).2 (pushL (f a b).1 (popReg y (popReg x u))))) := by
  simp [lns2, hx, hy, putOne, putPlain, hw, popAll, setLflags]

end Sys2Proof.Machine
end

