-- ==== Sys2Proof/Laws/Access.lean ====
section
/-!
SUPPORT. What the steps of a memory access can do (R198, R235), and that a write that takes its place changes its own bytes alone.
-/

namespace Sys2Proof.Machine

/-! ### Charge, descriptor, issue -/

theorem charge_ok {n : Nat} {s t : State} (h : charge n s = .ok t) :
    (s.ctx.sys.mlimit = BitVec.allOnes 64 ∨ s.ctx.sys.meter.toNat + n ≤ s.ctx.sys.mlimit.toNat) ∧
      t = setSys (fun r => { r with meter := w64 (min (s.ctx.sys.meter.toNat + n) (2 ^ 64 - 1)) }) s := by
  unfold charge at h
  dsimp only at h
  split at h
  · exact nomatch h
  · next hn =>
    refine ⟨?_, by cases h; rfl⟩
    by_cases hl : s.ctx.sys.mlimit = BitVec.allOnes 64
    · exact .inl hl
    · exact .inr (by have := mt (And.intro hl) hn; omega)

theorem withDesc_ok {t v : Target} {p : W64} {s : State} (h : withDesc t p s = .ok v) :
    v = { t with place := { t.place with desc := v.place.desc } } := by
  unfold withDesc at h
  dsimp only at h
  split at h
  · cases h; rfl
  · exact nomatch h

/-- An access that has issued has resolved, passed its own checks and been charged; its dies are noted. -/
theorem issueAccess_ok {ea : W64} {size : Nat} {k : AKind} {sh : Shape} {fill : Bool} {own : Target → Res Unit} {s s1 : State}
    {v : Target} (h : issueAccess ea size k sh fill own s = .ok (v, s1)) :
    ∃ t u w, resolve ea size k sh fill s = .ok (t, u) ∧ t.stale = none ∧ own t = .ok () ∧ withDesc t ea s = .ok v ∧
      charge (accessCharge s t.home size) u = .ok w ∧
      s1 = (if isGlobal v.place.addr then descFlits s.cur v.place (touchHome t.home w)
        else addEvent 0x09 (flits s (.core s.cur) t.home size) (descFlits s.cur v.place (touchHome t.home w))) := by
  unfold issueAccess at h
  obtain ⟨⟨t, u⟩, hr, h⟩ := res_bind_eq_ok h
  dsimp only at h
  split at h
  · obtain ⟨w, -, h⟩ := res_bind_eq_ok h
    exact nomatch h
  · next hs =>
    obtain ⟨⟨⟩, ho, h⟩ := res_bind_eq_ok h
    obtain ⟨v', hd, h⟩ := res_bind_eq_ok h
    obtain ⟨w, hc, h⟩ := res_bind_eq_ok h
    rw [keepWalk_eq_ok] at ho hd hc
    have hv := withDesc_ok hd
    have hh : v'.home = t.home := by rw [hv]
    rw [hh] at hc h
    cases h
    exact ⟨t, u, w, hr, hs, ho, hd, hc, rfl⟩

/-! ### Reads that drop old copies (R224, R230) -/

@[simp] theorem dropSeen_mem (die : Nat) (own : Option Nat) (old : List WriteMsg) (s : State) : (dropSeen die own old s).mem = s.mem := rfl
@[simp] theorem dropSeen_ctx (die : Nat) (own : Option Nat) (old : List WriteMsg) (s : State) : (dropSeen die own old s).ctx = s.ctx := rfl
@[simp] theorem dropSeen_cur (die : Nat) (own : Option Nat) (old : List WriteMsg) (s : State) : (dropSeen die own old s).cur = s.cur := rfl

/-! ### Writes that take their place -/

theorem placeWrite_byte {s : State} (hm : s.mem.wf = true) (core : Nat) (o : Key) (k : Option Key) (ea : W64) (g : Bool) (a : Nat)
    (bs : List Byte) (x : Nat) :
    (placeWrite core o k ea g a bs s).mem.byte x = if a ≤ x ∧ x < a + bs.length then bs.getD (x - a) 0 else s.mem.byte x :=
  Memory.writeBy_byte hm _ _ g a bs x

theorem placeCopy_byte {s : State} (hm : s.mem.wf = true) (core : Nat) (o : Key) (ea : W64) (g : Bool) (a : Nat) (bs : List Byte)
    (x : Nat) :
    (placeCopy core o ea g a bs s).mem.byte x = if a ≤ x ∧ x < a + bs.length then bs.getD (x - a) 0 else s.mem.byte x :=
  Memory.writeBy_byte hm _ _ g a bs x

theorem placeStore_byte {s : State} (hm : s.mem.wf = true) (e : StoreEnt) (a : Nat) (bs : List Byte) (x : Nat) :
    (placeStore e a bs s).mem.byte x = if a ≤ x ∧ x < a + bs.length then bs.getD (x - a) 0 else s.mem.byte x :=
  Memory.writeBy_byte hm _ _ e.g a bs x

/-! ### Digests -/

theorem bytesOf_length : ∀ (n v : Nat), (bytesOf n v).length = n
  | 0, _ => rfl
  | n + 1, v => congrArg Nat.succ (bytesOf_length n (v / 256))

@[simp] theorem beBytes_length (n v : Nat) : (beBytes n v).length = n := by simp [beBytes, bytesOf_length]

@[simp] theorem digest_length (m : List Byte) : (digest m).length = 32 := by simp [digest]

end Sys2Proof.Machine
end

