-- ==== Sys2Proof/Laws/PerInstr.lean ====
section
/-!
SUPPORT. Per instruction: its encoding, where it has one, fits the length it claims, and bit 0 of its first parcel says that length
(R21).
-/

namespace Sys2Proof.Laws

open Sys2Proof

theorem reg_code_lt (r : Reg) : r.code < 64 := by
  cases r with
  | m i => show i.val < 64; omega
  | o i => show 32 + i.val < 64; omega
  | l i => show 40 + i.val < 64; omega
  | _ => decide

theorem scope_code_lt (c : Scope) : c.code ≤ 4 := by cases c <;> decide

theorem field_code_lt (f : CrdField) : f.code < 8 := by cases f <;> decide

theorem rel_code_lt (c : Option Scope) : relCode c < 8 := by
  cases c with
  | none => decide
  | some c => cases c <;> decide

theorem sysreg_code_lt (r : SysReg) : r.code < 256 := by
  cases r with
  | evsel i => have := i.isLt; simp only [SysReg.code]; omega
  | evc i => have := i.isLt; simp only [SysReg.code]; omega
  | _ => decide

end Sys2Proof.Laws

namespace Sys2Proof.Laws.Fits

open Sys2Proof Sys2Proof.Laws

/-- The word of an instruction has no bit at or above its length, and is 16 bits long exactly when bit 0 is clear. -/
def Statement (i : Instr) : Prop :=
  ∀ e, encode i = some e → e.bits < 2 ^ e.len ∧ (e.len = 16 ∧ e.bits % 2 = 0 ∨ e.len = 32 ∧ e.bits % 2 = 1)

theorem of_none {i : Instr} (h : encode i = none) : Statement i := fun e he => by rw [h] at he; cases he

theorem of_long {i : Instr} {b : Nat} (h : encode i = some ⟨32, b⟩) (hb : b < 4294967296) (ho : b % 2 = 1) : Statement i :=
  fun e he => by
    rw [h] at he
    cases he
    exact ⟨hb, .inr ⟨rfl, ho⟩⟩

theorem of_short {i : Instr} {b : Nat} (h : encode i = some ⟨16, b⟩) (hb : b < 65536) (ho : b % 2 = 0) : Statement i :=
  fun e he => by
    rw [h] at he
    cases he
    exact ⟨hb, .inl ⟨rfl, ho⟩⟩

theorem add (rd rs1 rs2 : Reg) : Statement (.add rd rs1 rs2) := by
  have := reg_code_lt rd
  have := reg_code_lt rs1
  have := reg_code_lt rs2
  exact of_long rfl (by omega) (by omega)

theorem sub (rd rs1 rs2 : Reg) : Statement (.sub rd rs1 rs2) := by
  have := reg_code_lt rd
  have := reg_code_lt rs1
  have := reg_code_lt rs2
  exact of_long rfl (by omega) (by omega)

theorem and (rd rs1 rs2 : Reg) : Statement (.and rd rs1 rs2) := by
  have := reg_code_lt rd
  have := reg_code_lt rs1
  have := reg_code_lt rs2
  exact of_long rfl (by omega) (by omega)

theorem or (rd rs1 rs2 : Reg) : Statement (.or rd rs1 rs2) := by
  have := reg_code_lt rd
  have := reg_code_lt rs1
  have := reg_code_lt rs2
  exact of_long rfl (by omega) (by omega)

theorem xor (rd rs1 rs2 : Reg) : Statement (.xor rd rs1 rs2) := by
  have := reg_code_lt rd
  have := reg_code_lt rs1
  have := reg_code_lt rs2
  exact of_long rfl (by omega) (by omega)

theorem andn (rd rs1 rs2 : Reg) : Statement (.andn rd rs1 rs2) := by
  have := reg_code_lt rd
  have := reg_code_lt rs1
  have := reg_code_lt rs2
  exact of_long rfl (by omega) (by omega)

theorem orn (rd rs1 rs2 : Reg) : Statement (.orn rd rs1 rs2) := by
  have := reg_code_lt rd
  have := reg_code_lt rs1
  have := reg_code_lt rs2
  exact of_long rfl (by omega) (by omega)

theorem xnor (rd rs1 rs2 : Reg) : Statement (.xnor rd rs1 rs2) := by
  have := reg_code_lt rd
  have := reg_code_lt rs1
  have := reg_code_lt rs2
  exact of_long rfl (by omega) (by omega)

theorem sll (rd rs1 rs2 : Reg) : Statement (.sll rd rs1 rs2) := by
  have := reg_code_lt rd
  have := reg_code_lt rs1
  have := reg_code_lt rs2
  exact of_long rfl (by omega) (by omega)

theorem srl (rd rs1 rs2 : Reg) : Statement (.srl rd rs1 rs2) := by
  have := reg_code_lt rd
  have := reg_code_lt rs1
  have := reg_code_lt rs2
  exact of_long rfl (by omega) (by omega)

theorem sra (rd rs1 rs2 : Reg) : Statement (.sra rd rs1 rs2) := by
  have := reg_code_lt rd
  have := reg_code_lt rs1
  have := reg_code_lt rs2
  exact of_long rfl (by omega) (by omega)

theorem rol (rd rs1 rs2 : Reg) : Statement (.rol rd rs1 rs2) := by
  have := reg_code_lt rd
  have := reg_code_lt rs1
  have := reg_code_lt rs2
  exact of_long rfl (by omega) (by omega)

theorem ror (rd rs1 rs2 : Reg) : Statement (.ror rd rs1 rs2) := by
  have := reg_code_lt rd
  have := reg_code_lt rs1
  have := reg_code_lt rs2
  exact of_long rfl (by omega) (by omega)

theorem slt (rd rs1 rs2 : Reg) : Statement (.slt rd rs1 rs2) := by
  have := reg_code_lt rd
  have := reg_code_lt rs1
  have := reg_code_lt rs2
  exact of_long rfl (by omega) (by omega)

theorem sltu (rd rs1 rs2 : Reg) : Statement (.sltu rd rs1 rs2) := by
  have := reg_code_lt rd
  have := reg_code_lt rs1
  have := reg_code_lt rs2
  exact of_long rfl (by omega) (by omega)

theorem min (rd rs1 rs2 : Reg) : Statement (.min rd rs1 rs2) := by
  have := reg_code_lt rd
  have := reg_code_lt rs1
  have := reg_code_lt rs2
  exact of_long rfl (by omega) (by omega)

theorem max (rd rs1 rs2 : Reg) : Statement (.max rd rs1 rs2) := by
  have := reg_code_lt rd
  have := reg_code_lt rs1
  have := reg_code_lt rs2
  exact of_long rfl (by omega) (by omega)

theorem minu (rd rs1 rs2 : Reg) : Statement (.minu rd rs1 rs2) := by
  have := reg_code_lt rd
  have := reg_code_lt rs1
  have := reg_code_lt rs2
  exact of_long rfl (by omega) (by omega)

theorem maxu (rd rs1 rs2 : Reg) : Statement (.maxu rd rs1 rs2) := by
  have := reg_code_lt rd
  have := reg_code_lt rs1
  have := reg_code_lt rs2
  exact of_long rfl (by omega) (by omega)

theorem mul (rd rs1 rs2 : Reg) : Statement (.mul rd rs1 rs2) := by
  have := reg_code_lt rd
  have := reg_code_lt rs1
  have := reg_code_lt rs2
  exact of_long rfl (by omega) (by omega)

theorem mulh (rd rs1 rs2 : Reg) : Statement (.mulh rd rs1 rs2) := by
  have := reg_code_lt rd
  have := reg_code_lt rs1
  have := reg_code_lt rs2
  exact of_long rfl (by omega) (by omega)

theorem mulhu (rd rs1 rs2 : Reg) : Statement (.mulhu rd rs1 rs2) := by
  have := reg_code_lt rd
  have := reg_code_lt rs1
  have := reg_code_lt rs2
  exact of_long rfl (by omega) (by omega)

theorem mulhsu (rd rs1 rs2 : Reg) : Statement (.mulhsu rd rs1 rs2) := by
  have := reg_code_lt rd
  have := reg_code_lt rs1
  have := reg_code_lt rs2
  exact of_long rfl (by omega) (by omega)

theorem sh1add (rd rs1 rs2 : Reg) : Statement (.sh1add rd rs1 rs2) := by
  have := reg_code_lt rd
  have := reg_code_lt rs1
  have := reg_code_lt rs2
  exact of_long rfl (by omega) (by omega)

theorem sh2add (rd rs1 rs2 : Reg) : Statement (.sh2add rd rs1 rs2) := by
  have := reg_code_lt rd
  have := reg_code_lt rs1
  have := reg_code_lt rs2
  exact of_long rfl (by omega) (by omega)

theorem sh3add (rd rs1 rs2 : Reg) : Statement (.sh3add rd rs1 rs2) := by
  have := reg_code_lt rd
  have := reg_code_lt rs1
  have := reg_code_lt rs2
  exact of_long rfl (by omega) (by omega)

theorem czero (rd rs1 rs2 : Reg) : Statement (.czero rd rs1 rs2) := by
  have := reg_code_lt rd
  have := reg_code_lt rs1
  have := reg_code_lt rs2
  exact of_long rfl (by omega) (by omega)

theorem addw (rd rs1 rs2 : Reg) : Statement (.addw rd rs1 rs2) := by
  have := reg_code_lt rd
  have := reg_code_lt rs1
  have := reg_code_lt rs2
  exact of_long rfl (by omega) (by omega)

theorem subw (rd rs1 rs2 : Reg) : Statement (.subw rd rs1 rs2) := by
  have := reg_code_lt rd
  have := reg_code_lt rs1
  have := reg_code_lt rs2
  exact of_long rfl (by omega) (by omega)

theorem sllw (rd rs1 rs2 : Reg) : Statement (.sllw rd rs1 rs2) := by
  have := reg_code_lt rd
  have := reg_code_lt rs1
  have := reg_code_lt rs2
  exact of_long rfl (by omega) (by omega)

theorem srlw (rd rs1 rs2 : Reg) : Statement (.srlw rd rs1 rs2) := by
  have := reg_code_lt rd
  have := reg_code_lt rs1
  have := reg_code_lt rs2
  exact of_long rfl (by omega) (by omega)

theorem sraw (rd rs1 rs2 : Reg) : Statement (.sraw rd rs1 rs2) := by
  have := reg_code_lt rd
  have := reg_code_lt rs1
  have := reg_code_lt rs2
  exact of_long rfl (by omega) (by omega)

theorem mulw (rd rs1 rs2 : Reg) : Statement (.mulw rd rs1 rs2) := by
  have := reg_code_lt rd
  have := reg_code_lt rs1
  have := reg_code_lt rs2
  exact of_long rfl (by omega) (by omega)

theorem clz (rd rs1 : Reg) : Statement (.clz rd rs1) := by
  have := reg_code_lt rd
  have := reg_code_lt rs1
  exact of_long rfl (by omega) (by omega)

theorem ctz (rd rs1 : Reg) : Statement (.ctz rd rs1) := by
  have := reg_code_lt rd
  have := reg_code_lt rs1
  exact of_long rfl (by omega) (by omega)

theorem popc (rd rs1 : Reg) : Statement (.popc rd rs1) := by
  have := reg_code_lt rd
  have := reg_code_lt rs1
  exact of_long rfl (by omega) (by omega)

theorem brev (rd rs1 : Reg) : Statement (.brev rd rs1) := by
  have := reg_code_lt rd
  have := reg_code_lt rs1
  exact of_long rfl (by omega) (by omega)

theorem bswap (rd rs1 : Reg) : Statement (.bswap rd rs1) := by
  have := reg_code_lt rd
  have := reg_code_lt rs1
  exact of_long rfl (by omega) (by omega)

theorem sextb (rd rs1 : Reg) : Statement (.sextb rd rs1) := by
  have := reg_code_lt rd
  have := reg_code_lt rs1
  exact of_long rfl (by omega) (by omega)

theorem sexth (rd rs1 : Reg) : Statement (.sexth rd rs1) := by
  have := reg_code_lt rd
  have := reg_code_lt rs1
  exact of_long rfl (by omega) (by omega)

theorem sextw (rd rs1 : Reg) : Statement (.sextw rd rs1) := by
  have := reg_code_lt rd
  have := reg_code_lt rs1
  exact of_long rfl (by omega) (by omega)

theorem zextb (rd rs1 : Reg) : Statement (.zextb rd rs1) := by
  have := reg_code_lt rd
  have := reg_code_lt rs1
  exact of_long rfl (by omega) (by omega)

theorem zexth (rd rs1 : Reg) : Statement (.zexth rd rs1) := by
  have := reg_code_lt rd
  have := reg_code_lt rs1
  exact of_long rfl (by omega) (by omega)

theorem zextw (rd rs1 : Reg) : Statement (.zextw rd rs1) := by
  have := reg_code_lt rd
  have := reg_code_lt rs1
  exact of_long rfl (by omega) (by omega)

theorem addi (rd rs1 : Reg) (imm : BitVec 13) : Statement (.addi rd rs1 imm) := by
  have := reg_code_lt rd
  have := reg_code_lt rs1
  have := imm.isLt
  exact of_long rfl (by omega) (by omega)

theorem andi (rd rs1 : Reg) (imm : BitVec 13) : Statement (.andi rd rs1 imm) := by
  have := reg_code_lt rd
  have := reg_code_lt rs1
  have := imm.isLt
  exact of_long rfl (by omega) (by omega)

theorem ori (rd rs1 : Reg) (imm : BitVec 13) : Statement (.ori rd rs1 imm) := by
  have := reg_code_lt rd
  have := reg_code_lt rs1
  have := imm.isLt
  exact of_long rfl (by omega) (by omega)

theorem xori (rd rs1 : Reg) (imm : BitVec 13) : Statement (.xori rd rs1 imm) := by
  have := reg_code_lt rd
  have := reg_code_lt rs1
  have := imm.isLt
  exact of_long rfl (by omega) (by omega)

theorem slti (rd rs1 : Reg) (imm : BitVec 13) : Statement (.slti rd rs1 imm) := by
  have := reg_code_lt rd
  have := reg_code_lt rs1
  have := imm.isLt
  exact of_long rfl (by omega) (by omega)

theorem sltiu (rd rs1 : Reg) (imm : BitVec 13) : Statement (.sltiu rd rs1 imm) := by
  have := reg_code_lt rd
  have := reg_code_lt rs1
  have := imm.isLt
  exact of_long rfl (by omega) (by omega)

theorem addiw (rd rs1 : Reg) (imm : BitVec 13) : Statement (.addiw rd rs1 imm) := by
  have := reg_code_lt rd
  have := reg_code_lt rs1
  have := imm.isLt
  exact of_long rfl (by omega) (by omega)

theorem slli (rd rs1 : Reg) (shamt : BitVec 6) : Statement (.slli rd rs1 shamt) := by
  have := reg_code_lt rd
  have := reg_code_lt rs1
  have := shamt.isLt
  exact of_long rfl (by omega) (by omega)

theorem srli (rd rs1 : Reg) (shamt : BitVec 6) : Statement (.srli rd rs1 shamt) := by
  have := reg_code_lt rd
  have := reg_code_lt rs1
  have := shamt.isLt
  exact of_long rfl (by omega) (by omega)

theorem srai (rd rs1 : Reg) (shamt : BitVec 6) : Statement (.srai rd rs1 shamt) := by
  have := reg_code_lt rd
  have := reg_code_lt rs1
  have := shamt.isLt
  exact of_long rfl (by omega) (by omega)

theorem rori (rd rs1 : Reg) (shamt : BitVec 6) : Statement (.rori rd rs1 shamt) := by
  have := reg_code_lt rd
  have := reg_code_lt rs1
  have := shamt.isLt
  exact of_long rfl (by omega) (by omega)

theorem slliw (rd rs1 : Reg) (shamt : BitVec 5) : Statement (.slliw rd rs1 shamt) := by
  have := reg_code_lt rd
  have := reg_code_lt rs1
  have := shamt.isLt
  exact of_long rfl (by omega) (by omega)

theorem srliw (rd rs1 : Reg) (shamt : BitVec 5) : Statement (.srliw rd rs1 shamt) := by
  have := reg_code_lt rd
  have := reg_code_lt rs1
  have := shamt.isLt
  exact of_long rfl (by omega) (by omega)

theorem sraiw (rd rs1 : Reg) (shamt : BitVec 5) : Statement (.sraiw rd rs1 shamt) := by
  have := reg_code_lt rd
  have := reg_code_lt rs1
  have := shamt.isLt
  exact of_long rfl (by omega) (by omega)

theorem lui (rd : Reg) (imm : BitVec 19) : Statement (.lui rd imm) := by
  have := reg_code_lt rd
  have := imm.isLt
  exact of_long rfl (by omega) (by omega)

theorem auipc (rd : Reg) (imm : BitVec 19) : Statement (.auipc rd imm) := by
  have := reg_code_lt rd
  have := imm.isLt
  exact of_long rfl (by omega) (by omega)

theorem crdself (rd : Reg) : Statement (.crdself rd) := by
  have := reg_code_lt rd
  exact of_long rfl (by omega) (by omega)

theorem crdmk (rd rs1 rs2 : Reg) : Statement (.crdmk rd rs1 rs2) := by
  have := reg_code_lt rd
  have := reg_code_lt rs1
  have := reg_code_lt rs2
  exact of_long rfl (by omega) (by omega)

theorem crdget (rd rs1 : Reg) (field : CrdField) : Statement (.crdget rd rs1 field) := by
  have := reg_code_lt rd
  have := reg_code_lt rs1
  have := field_code_lt field
  exact of_long rfl (by omega) (by omega)

theorem crdset (rd rs1 rs2 : Reg) (field : CrdField) : Statement (.crdset rd rs1 rs2 field) := by
  have := reg_code_lt rd
  have := reg_code_lt rs1
  have := reg_code_lt rs2
  have := field_code_lt field
  exact of_long rfl (by omega) (by omega)

theorem crdadd (rd rs1 rs2 : Reg) : Statement (.crdadd rd rs1 rs2) := by
  have := reg_code_lt rd
  have := reg_code_lt rs1
  have := reg_code_lt rs2
  exact of_long rfl (by omega) (by omega)

theorem div (la : BitVec 4) (rd rs1 rs2 : Reg) : Statement (.div la rd rs1 rs2) := by
  have := la.isLt
  have := reg_code_lt rd
  have := reg_code_lt rs1
  have := reg_code_lt rs2
  exact of_long rfl (by omega) (by omega)

theorem divu (la : BitVec 4) (rd rs1 rs2 : Reg) : Statement (.divu la rd rs1 rs2) := by
  have := la.isLt
  have := reg_code_lt rd
  have := reg_code_lt rs1
  have := reg_code_lt rs2
  exact of_long rfl (by omega) (by omega)

theorem rem (la : BitVec 4) (rd rs1 rs2 : Reg) : Statement (.rem la rd rs1 rs2) := by
  have := la.isLt
  have := reg_code_lt rd
  have := reg_code_lt rs1
  have := reg_code_lt rs2
  exact of_long rfl (by omega) (by omega)

theorem remu (la : BitVec 4) (rd rs1 rs2 : Reg) : Statement (.remu la rd rs1 rs2) := by
  have := la.isLt
  have := reg_code_lt rd
  have := reg_code_lt rs1
  have := reg_code_lt rs2
  exact of_long rfl (by omega) (by omega)

theorem divw (la : BitVec 4) (rd rs1 rs2 : Reg) : Statement (.divw la rd rs1 rs2) := by
  have := la.isLt
  have := reg_code_lt rd
  have := reg_code_lt rs1
  have := reg_code_lt rs2
  exact of_long rfl (by omega) (by omega)

theorem remw (la : BitVec 4) (rd rs1 rs2 : Reg) : Statement (.remw la rd rs1 rs2) := by
  have := la.isLt
  have := reg_code_lt rd
  have := reg_code_lt rs1
  have := reg_code_lt rs2
  exact of_long rfl (by omega) (by omega)

theorem fdiv (la : BitVec 4) (rd rs1 rs2 : Reg) : Statement (.fdiv la rd rs1 rs2) := by
  have := la.isLt
  have := reg_code_lt rd
  have := reg_code_lt rs1
  have := reg_code_lt rs2
  exact of_long rfl (by omega) (by omega)

theorem fsqrt (la : BitVec 4) (rd rs1 : Reg) : Statement (.fsqrt la rd rs1) := by
  have := la.isLt
  have := reg_code_lt rd
  have := reg_code_lt rs1
  exact of_long rfl (by omega) (by omega)

theorem beq (rs1 rs2 : Reg) (off : BitVec 10) : Statement (.beq rs1 rs2 off) := by
  have := reg_code_lt rs1
  have := reg_code_lt rs2
  have := off.isLt
  exact of_long rfl (by omega) (by omega)

theorem bne (rs1 rs2 : Reg) (off : BitVec 10) : Statement (.bne rs1 rs2 off) := by
  have := reg_code_lt rs1
  have := reg_code_lt rs2
  have := off.isLt
  exact of_long rfl (by omega) (by omega)

theorem blt (rs1 rs2 : Reg) (off : BitVec 10) : Statement (.blt rs1 rs2 off) := by
  have := reg_code_lt rs1
  have := reg_code_lt rs2
  have := off.isLt
  exact of_long rfl (by omega) (by omega)

theorem bge (rs1 rs2 : Reg) (off : BitVec 10) : Statement (.bge rs1 rs2 off) := by
  have := reg_code_lt rs1
  have := reg_code_lt rs2
  have := off.isLt
  exact of_long rfl (by omega) (by omega)

theorem bltu (rs1 rs2 : Reg) (off : BitVec 10) : Statement (.bltu rs1 rs2 off) := by
  have := reg_code_lt rs1
  have := reg_code_lt rs2
  have := off.isLt
  exact of_long rfl (by omega) (by omega)

theorem bgeu (rs1 rs2 : Reg) (off : BitVec 10) : Statement (.bgeu rs1 rs2 off) := by
  have := reg_code_lt rs1
  have := reg_code_lt rs2
  have := off.isLt
  exact of_long rfl (by omega) (by omega)

theorem beqz (rs1 : Reg) (off : BitVec 16) : Statement (.beqz rs1 off) := by
  have := reg_code_lt rs1
  have := off.isLt
  exact of_long rfl (by omega) (by omega)

theorem bnez (rs1 : Reg) (off : BitVec 16) : Statement (.bnez rs1 off) := by
  have := reg_code_lt rs1
  have := off.isLt
  exact of_long rfl (by omega) (by omega)

theorem bltz (rs1 : Reg) (off : BitVec 16) : Statement (.bltz rs1 off) := by
  have := reg_code_lt rs1
  have := off.isLt
  exact of_long rfl (by omega) (by omega)

theorem bgez (rs1 : Reg) (off : BitVec 16) : Statement (.bgez rs1 off) := by
  have := reg_code_lt rs1
  have := off.isLt
  exact of_long rfl (by omega) (by omega)

theorem bgtz (rs1 : Reg) (off : BitVec 16) : Statement (.bgtz rs1 off) := by
  have := reg_code_lt rs1
  have := off.isLt
  exact of_long rfl (by omega) (by omega)

theorem blez (rs1 : Reg) (off : BitVec 16) : Statement (.blez rs1 off) := by
  have := reg_code_lt rs1
  have := off.isLt
  exact of_long rfl (by omega) (by omega)

theorem jal (rd : Reg) (off : BitVec 19) : Statement (.jal rd off) := by
  have := reg_code_lt rd
  have := off.isLt
  exact of_long rfl (by omega) (by omega)

theorem jalr (rd rs1 : Reg) (imm : BitVec 13) : Statement (.jalr rd rs1 imm) := by
  have := reg_code_lt rd
  have := reg_code_lt rs1
  have := imm.isLt
  exact of_long rfl (by omega) (by omega)

theorem ldB (la : BitVec 4) (rd base : Reg) (off : BitVec 6) : Statement (.ldB la rd base off) := by
  have := la.isLt
  have := reg_code_lt rd
  have := reg_code_lt base
  have := off.isLt
  exact of_long rfl (by omega) (by omega)

theorem ldBu (la : BitVec 4) (rd base : Reg) (off : BitVec 6) : Statement (.ldBu la rd base off) := by
  have := la.isLt
  have := reg_code_lt rd
  have := reg_code_lt base
  have := off.isLt
  exact of_long rfl (by omega) (by omega)

theorem ldH (la : BitVec 4) (rd base : Reg) (off : BitVec 6) : Statement (.ldH la rd base off) := by
  have := la.isLt
  have := reg_code_lt rd
  have := reg_code_lt base
  have := off.isLt
  exact of_long rfl (by omega) (by omega)

theorem ldHu (la : BitVec 4) (rd base : Reg) (off : BitVec 6) : Statement (.ldHu la rd base off) := by
  have := la.isLt
  have := reg_code_lt rd
  have := reg_code_lt base
  have := off.isLt
  exact of_long rfl (by omega) (by omega)

theorem ldW (la : BitVec 4) (rd base : Reg) (off : BitVec 6) : Statement (.ldW la rd base off) := by
  have := la.isLt
  have := reg_code_lt rd
  have := reg_code_lt base
  have := off.isLt
  exact of_long rfl (by omega) (by omega)

theorem ldWu (la : BitVec 4) (rd base : Reg) (off : BitVec 6) : Statement (.ldWu la rd base off) := by
  have := la.isLt
  have := reg_code_lt rd
  have := reg_code_lt base
  have := off.isLt
  exact of_long rfl (by omega) (by omega)

theorem ldD (la : BitVec 4) (rd base : Reg) (off : BitVec 6) : Statement (.ldD la rd base off) := by
  have := la.isLt
  have := reg_code_lt rd
  have := reg_code_lt base
  have := off.isLt
  exact of_long rfl (by omega) (by omega)

theorem ldxB (la : BitVec 4) (rd base index : Reg) : Statement (.ldxB la rd base index) := by
  have := la.isLt
  have := reg_code_lt rd
  have := reg_code_lt base
  have := reg_code_lt index
  exact of_long rfl (by omega) (by omega)

theorem ldxBu (la : BitVec 4) (rd base index : Reg) : Statement (.ldxBu la rd base index) := by
  have := la.isLt
  have := reg_code_lt rd
  have := reg_code_lt base
  have := reg_code_lt index
  exact of_long rfl (by omega) (by omega)

theorem ldxH (la : BitVec 4) (rd base index : Reg) : Statement (.ldxH la rd base index) := by
  have := la.isLt
  have := reg_code_lt rd
  have := reg_code_lt base
  have := reg_code_lt index
  exact of_long rfl (by omega) (by omega)

theorem ldxHu (la : BitVec 4) (rd base index : Reg) : Statement (.ldxHu la rd base index) := by
  have := la.isLt
  have := reg_code_lt rd
  have := reg_code_lt base
  have := reg_code_lt index
  exact of_long rfl (by omega) (by omega)

theorem ldxW (la : BitVec 4) (rd base index : Reg) : Statement (.ldxW la rd base index) := by
  have := la.isLt
  have := reg_code_lt rd
  have := reg_code_lt base
  have := reg_code_lt index
  exact of_long rfl (by omega) (by omega)

theorem ldxWu (la : BitVec 4) (rd base index : Reg) : Statement (.ldxWu la rd base index) := by
  have := la.isLt
  have := reg_code_lt rd
  have := reg_code_lt base
  have := reg_code_lt index
  exact of_long rfl (by omega) (by omega)

theorem ldxD (la : BitVec 4) (rd base index : Reg) : Statement (.ldxD la rd base index) := by
  have := la.isLt
  have := reg_code_lt rd
  have := reg_code_lt base
  have := reg_code_lt index
  exact of_long rfl (by omega) (by omega)

theorem ldaqB (la : BitVec 4) (scope : Scope) (rd base : Reg) : Statement (.ldaqB la scope rd base) := by
  have := la.isLt
  have := scope_code_lt scope
  have := reg_code_lt rd
  have := reg_code_lt base
  exact of_long rfl (by omega) (by omega)

theorem ldaqBu (la : BitVec 4) (scope : Scope) (rd base : Reg) : Statement (.ldaqBu la scope rd base) := by
  have := la.isLt
  have := scope_code_lt scope
  have := reg_code_lt rd
  have := reg_code_lt base
  exact of_long rfl (by omega) (by omega)

theorem ldaqH (la : BitVec 4) (scope : Scope) (rd base : Reg) : Statement (.ldaqH la scope rd base) := by
  have := la.isLt
  have := scope_code_lt scope
  have := reg_code_lt rd
  have := reg_code_lt base
  exact of_long rfl (by omega) (by omega)

theorem ldaqHu (la : BitVec 4) (scope : Scope) (rd base : Reg) : Statement (.ldaqHu la scope rd base) := by
  have := la.isLt
  have := scope_code_lt scope
  have := reg_code_lt rd
  have := reg_code_lt base
  exact of_long rfl (by omega) (by omega)

theorem ldaqW (la : BitVec 4) (scope : Scope) (rd base : Reg) : Statement (.ldaqW la scope rd base) := by
  have := la.isLt
  have := scope_code_lt scope
  have := reg_code_lt rd
  have := reg_code_lt base
  exact of_long rfl (by omega) (by omega)

theorem ldaqWu (la : BitVec 4) (scope : Scope) (rd base : Reg) : Statement (.ldaqWu la scope rd base) := by
  have := la.isLt
  have := scope_code_lt scope
  have := reg_code_lt rd
  have := reg_code_lt base
  exact of_long rfl (by omega) (by omega)

theorem ldaqD (la : BitVec 4) (scope : Scope) (rd base : Reg) : Statement (.ldaqD la scope rd base) := by
  have := la.isLt
  have := scope_code_lt scope
  have := reg_code_lt rd
  have := reg_code_lt base
  exact of_long rfl (by omega) (by omega)

theorem stB (rs base : Reg) (off : BitVec 6) (g : Bool) (rel : Option Scope) : Statement (.stB rs base off g rel) := by
  have := reg_code_lt rs
  have := reg_code_lt base
  have := off.isLt
  have := Bool.toNat_lt g
  have := rel_code_lt rel
  exact of_long rfl (by omega) (by omega)

theorem stH (rs base : Reg) (off : BitVec 6) (g : Bool) (rel : Option Scope) : Statement (.stH rs base off g rel) := by
  have := reg_code_lt rs
  have := reg_code_lt base
  have := off.isLt
  have := Bool.toNat_lt g
  have := rel_code_lt rel
  exact of_long rfl (by omega) (by omega)

theorem stW (rs base : Reg) (off : BitVec 6) (g : Bool) (rel : Option Scope) : Statement (.stW rs base off g rel) := by
  have := reg_code_lt rs
  have := reg_code_lt base
  have := off.isLt
  have := Bool.toNat_lt g
  have := rel_code_lt rel
  exact of_long rfl (by omega) (by omega)

theorem stD (rs base : Reg) (off : BitVec 6) (g : Bool) (rel : Option Scope) : Statement (.stD rs base off g rel) := by
  have := reg_code_lt rs
  have := reg_code_lt base
  have := off.isLt
  have := Bool.toNat_lt g
  have := rel_code_lt rel
  exact of_long rfl (by omega) (by omega)

theorem logstB (rs base : Reg) (off : BitVec 6) (g : Bool) (rel : Option Scope) : Statement (.logstB rs base off g rel) := by
  have := reg_code_lt rs
  have := reg_code_lt base
  have := off.isLt
  have := Bool.toNat_lt g
  have := rel_code_lt rel
  exact of_long rfl (by omega) (by omega)

theorem logstH (rs base : Reg) (off : BitVec 6) (g : Bool) (rel : Option Scope) : Statement (.logstH rs base off g rel) := by
  have := reg_code_lt rs
  have := reg_code_lt base
  have := off.isLt
  have := Bool.toNat_lt g
  have := rel_code_lt rel
  exact of_long rfl (by omega) (by omega)

theorem amoadd (dword : Bool) (scope : Scope) (rd base rs2 : Reg) : Statement (.amoadd dword scope rd base rs2) := by
  have := Bool.toNat_lt dword
  have := scope_code_lt scope
  have := reg_code_lt rd
  have := reg_code_lt base
  have := reg_code_lt rs2
  exact of_long rfl (by omega) (by omega)

theorem amoand (dword : Bool) (scope : Scope) (rd base rs2 : Reg) : Statement (.amoand dword scope rd base rs2) := by
  have := Bool.toNat_lt dword
  have := scope_code_lt scope
  have := reg_code_lt rd
  have := reg_code_lt base
  have := reg_code_lt rs2
  exact of_long rfl (by omega) (by omega)

theorem amoor (dword : Bool) (scope : Scope) (rd base rs2 : Reg) : Statement (.amoor dword scope rd base rs2) := by
  have := Bool.toNat_lt dword
  have := scope_code_lt scope
  have := reg_code_lt rd
  have := reg_code_lt base
  have := reg_code_lt rs2
  exact of_long rfl (by omega) (by omega)

theorem amoxor (dword : Bool) (scope : Scope) (rd base rs2 : Reg) : Statement (.amoxor dword scope rd base rs2) := by
  have := Bool.toNat_lt dword
  have := scope_code_lt scope
  have := reg_code_lt rd
  have := reg_code_lt base
  have := reg_code_lt rs2
  exact of_long rfl (by omega) (by omega)

theorem amomin (dword : Bool) (scope : Scope) (rd base rs2 : Reg) : Statement (.amomin dword scope rd base rs2) := by
  have := Bool.toNat_lt dword
  have := scope_code_lt scope
  have := reg_code_lt rd
  have := reg_code_lt base
  have := reg_code_lt rs2
  exact of_long rfl (by omega) (by omega)

theorem amomax (dword : Bool) (scope : Scope) (rd base rs2 : Reg) : Statement (.amomax dword scope rd base rs2) := by
  have := Bool.toNat_lt dword
  have := scope_code_lt scope
  have := reg_code_lt rd
  have := reg_code_lt base
  have := reg_code_lt rs2
  exact of_long rfl (by omega) (by omega)

theorem amominu (dword : Bool) (scope : Scope) (rd base rs2 : Reg) : Statement (.amominu dword scope rd base rs2) := by
  have := Bool.toNat_lt dword
  have := scope_code_lt scope
  have := reg_code_lt rd
  have := reg_code_lt base
  have := reg_code_lt rs2
  exact of_long rfl (by omega) (by omega)

theorem amomaxu (dword : Bool) (scope : Scope) (rd base rs2 : Reg) : Statement (.amomaxu dword scope rd base rs2) := by
  have := Bool.toNat_lt dword
  have := scope_code_lt scope
  have := reg_code_lt rd
  have := reg_code_lt base
  have := reg_code_lt rs2
  exact of_long rfl (by omega) (by omega)

theorem amoswap (dword : Bool) (scope : Scope) (rd base rs2 : Reg) : Statement (.amoswap dword scope rd base rs2) := by
  have := Bool.toNat_lt dword
  have := scope_code_lt scope
  have := reg_code_lt rd
  have := reg_code_lt base
  have := reg_code_lt rs2
  exact of_long rfl (by omega) (by omega)

theorem amocas (dword : Bool) (scope : Scope) (rd base rs2 : Reg) : Statement (.amocas dword scope rd base rs2) := by
  have := Bool.toNat_lt dword
  have := scope_code_lt scope
  have := reg_code_lt rd
  have := reg_code_lt base
  have := reg_code_lt rs2
  exact of_long rfl (by omega) (by omega)

theorem fence (scope : Scope) (rr rw wr ww : Bool) : Statement (.fence scope rr rw wr ww) := by
  have := scope_code_lt scope
  have := Bool.toNat_lt rr
  have := Bool.toNat_lt rw
  have := Bool.toNat_lt wr
  have := Bool.toNat_lt ww
  exact of_long rfl (by omega) (by omega)

theorem fenceE (scope : Scope) : Statement (.fenceE scope) := by
  have := scope_code_lt scope
  exact of_long rfl (by omega) (by omega)

theorem tdclr : Statement .tdclr := of_long rfl (by decide) (by decide)

theorem cbnd (kd ks : Cap) (rs2 : Reg) : Statement (.cbnd kd ks rs2) := by
  have := kd.isLt
  have := ks.isLt
  have := reg_code_lt rs2
  exact of_long rfl (by omega) (by omega)

theorem cperm (kd ks : Cap) (rs2 : Reg) : Statement (.cperm kd ks rs2) := by
  have := kd.isLt
  have := ks.isLt
  have := reg_code_lt rs2
  exact of_long rfl (by omega) (by omega)

theorem cgetb (rd : Reg) (ks : Cap) : Statement (.cgetb rd ks) := by
  have := reg_code_lt rd
  have := ks.isLt
  exact of_long rfl (by omega) (by omega)

theorem cgetl (rd : Reg) (ks : Cap) : Statement (.cgetl rd ks) := by
  have := reg_code_lt rd
  have := ks.isLt
  exact of_long rfl (by omega) (by omega)

theorem cgetp (rd : Reg) (ks : Cap) : Statement (.cgetp rd ks) := by
  have := reg_code_lt rd
  have := ks.isLt
  exact of_long rfl (by omega) (by omega)

theorem cgett (rd : Reg) (ks : Cap) : Statement (.cgett rd ks) := by
  have := reg_code_lt rd
  have := ks.isLt
  exact of_long rfl (by omega) (by omega)

theorem cmov (kd ks : Cap) : Statement (.cmov kd ks) := by
  have := kd.isLt
  have := ks.isLt
  exact of_long rfl (by omega) (by omega)

theorem cclr (kd : Cap) : Statement (.cclr kd) := by
  have := kd.isLt
  exact of_long rfl (by omega) (by omega)

theorem lcap (la : BitVec 4) (kd : Cap) (base : Reg) (off : BitVec 6) : Statement (.lcap la kd base off) := by
  have := la.isLt
  have := kd.isLt
  have := reg_code_lt base
  have := off.isLt
  exact of_long rfl (by omega) (by omega)

theorem scap (ks : Cap) (base : Reg) (off : BitVec 6) : Statement (.scap ks base off) := by
  have := ks.isLt
  have := reg_code_lt base
  have := off.isLt
  exact of_long rfl (by omega) (by omega)

theorem fadd (rd rs1 rs2 : Reg) : Statement (.fadd rd rs1 rs2) := by
  have := reg_code_lt rd
  have := reg_code_lt rs1
  have := reg_code_lt rs2
  exact of_long rfl (by omega) (by omega)

theorem fsub (rd rs1 rs2 : Reg) : Statement (.fsub rd rs1 rs2) := by
  have := reg_code_lt rd
  have := reg_code_lt rs1
  have := reg_code_lt rs2
  exact of_long rfl (by omega) (by omega)

theorem fmul (rd rs1 rs2 : Reg) : Statement (.fmul rd rs1 rs2) := by
  have := reg_code_lt rd
  have := reg_code_lt rs1
  have := reg_code_lt rs2
  exact of_long rfl (by omega) (by omega)

theorem fmin (rd rs1 rs2 : Reg) : Statement (.fmin rd rs1 rs2) := by
  have := reg_code_lt rd
  have := reg_code_lt rs1
  have := reg_code_lt rs2
  exact of_long rfl (by omega) (by omega)

theorem fmax (rd rs1 rs2 : Reg) : Statement (.fmax rd rs1 rs2) := by
  have := reg_code_lt rd
  have := reg_code_lt rs1
  have := reg_code_lt rs2
  exact of_long rfl (by omega) (by omega)

theorem feq (rd rs1 rs2 : Reg) : Statement (.feq rd rs1 rs2) := by
  have := reg_code_lt rd
  have := reg_code_lt rs1
  have := reg_code_lt rs2
  exact of_long rfl (by omega) (by omega)

theorem flt (rd rs1 rs2 : Reg) : Statement (.flt rd rs1 rs2) := by
  have := reg_code_lt rd
  have := reg_code_lt rs1
  have := reg_code_lt rs2
  exact of_long rfl (by omega) (by omega)

theorem fle (rd rs1 rs2 : Reg) : Statement (.fle rd rs1 rs2) := by
  have := reg_code_lt rd
  have := reg_code_lt rs1
  have := reg_code_lt rs2
  exact of_long rfl (by omega) (by omega)

theorem fsgnj (rd rs1 rs2 : Reg) : Statement (.fsgnj rd rs1 rs2) := by
  have := reg_code_lt rd
  have := reg_code_lt rs1
  have := reg_code_lt rs2
  exact of_long rfl (by omega) (by omega)

theorem fsgnjn (rd rs1 rs2 : Reg) : Statement (.fsgnjn rd rs1 rs2) := by
  have := reg_code_lt rd
  have := reg_code_lt rs1
  have := reg_code_lt rs2
  exact of_long rfl (by omega) (by omega)

theorem fsgnjx (rd rs1 rs2 : Reg) : Statement (.fsgnjx rd rs1 rs2) := by
  have := reg_code_lt rd
  have := reg_code_lt rs1
  have := reg_code_lt rs2
  exact of_long rfl (by omega) (by omega)

theorem fclass (rd rs1 : Reg) : Statement (.fclass rd rs1) := by
  have := reg_code_lt rd
  have := reg_code_lt rs1
  exact of_long rfl (by omega) (by omega)

theorem fcvtWS (rd rs1 : Reg) : Statement (.fcvtWS rd rs1) := by
  have := reg_code_lt rd
  have := reg_code_lt rs1
  exact of_long rfl (by omega) (by omega)

theorem fcvtWuS (rd rs1 : Reg) : Statement (.fcvtWuS rd rs1) := by
  have := reg_code_lt rd
  have := reg_code_lt rs1
  exact of_long rfl (by omega) (by omega)

theorem fcvtSW (rd rs1 : Reg) : Statement (.fcvtSW rd rs1) := by
  have := reg_code_lt rd
  have := reg_code_lt rs1
  exact of_long rfl (by omega) (by omega)

theorem fcvtSWu (rd rs1 : Reg) : Statement (.fcvtSWu rd rs1) := by
  have := reg_code_lt rd
  have := reg_code_lt rs1
  exact of_long rfl (by omega) (by omega)

theorem fcvtSH (rd rs1 : Reg) : Statement (.fcvtSH rd rs1) := by
  have := reg_code_lt rd
  have := reg_code_lt rs1
  exact of_long rfl (by omega) (by omega)

theorem fcvtHS (rd rs1 : Reg) : Statement (.fcvtHS rd rs1) := by
  have := reg_code_lt rd
  have := reg_code_lt rs1
  exact of_long rfl (by omega) (by omega)

theorem fcvtSBf (rd rs1 : Reg) : Statement (.fcvtSBf rd rs1) := by
  have := reg_code_lt rd
  have := reg_code_lt rs1
  exact of_long rfl (by omega) (by omega)

theorem fcvtBfS (rd rs1 : Reg) : Statement (.fcvtBfS rd rs1) := by
  have := reg_code_lt rd
  have := reg_code_lt rs1
  exact of_long rfl (by omega) (by omega)

theorem fcvtLS (rd rs1 : Reg) : Statement (.fcvtLS rd rs1) := by
  have := reg_code_lt rd
  have := reg_code_lt rs1
  exact of_long rfl (by omega) (by omega)

theorem fcvtSL (rd rs1 : Reg) : Statement (.fcvtSL rd rs1) := by
  have := reg_code_lt rd
  have := reg_code_lt rs1
  exact of_long rfl (by omega) (by omega)

theorem fmadd (rd rs1 rs2 rs3 : Reg) : Statement (.fmadd rd rs1 rs2 rs3) := by
  have := reg_code_lt rd
  have := reg_code_lt rs1
  have := reg_code_lt rs2
  have := reg_code_lt rs3
  exact of_long rfl (by omega) (by omega)

theorem fnmadd (rd rs1 rs2 rs3 : Reg) : Statement (.fnmadd rd rs1 rs2 rs3) := by
  have := reg_code_lt rd
  have := reg_code_lt rs1
  have := reg_code_lt rs2
  have := reg_code_lt rs3
  exact of_long rfl (by omega) (by omega)

theorem lnscvtB (rd rs1 : Reg) : Statement (.lnscvtB rd rs1) := by
  have := reg_code_lt rd
  have := reg_code_lt rs1
  exact of_long rfl (by omega) (by omega)

theorem lnscvtH (rd rs1 : Reg) : Statement (.lnscvtH rd rs1) := by
  have := reg_code_lt rd
  have := reg_code_lt rs1
  exact of_long rfl (by omega) (by omega)

theorem lincvtB (rd rs1 : Reg) : Statement (.lincvtB rd rs1) := by
  have := reg_code_lt rd
  have := reg_code_lt rs1
  exact of_long rfl (by omega) (by omega)

theorem lincvtH (rd rs1 : Reg) : Statement (.lincvtH rd rs1) := by
  have := reg_code_lt rd
  have := reg_code_lt rs1
  exact of_long rfl (by omega) (by omega)

theorem lmulB (rd rs1 rs2 : Reg) : Statement (.lmulB rd rs1 rs2) := by
  have := reg_code_lt rd
  have := reg_code_lt rs1
  have := reg_code_lt rs2
  exact of_long rfl (by omega) (by omega)

theorem lmulH (rd rs1 rs2 : Reg) : Statement (.lmulH rd rs1 rs2) := by
  have := reg_code_lt rd
  have := reg_code_lt rs1
  have := reg_code_lt rs2
  exact of_long rfl (by omega) (by omega)

theorem vaddW (vd vs1 vs2 : VReg) (vm : VMask) : Statement (.vaddW vd vs1 vs2 vm) := by
  have := vd.isLt
  have := vs1.isLt
  have := vs2.isLt
  have := vm.isLt
  exact of_long rfl (by omega) (by omega)

theorem vsubW (vd vs1 vs2 : VReg) (vm : VMask) : Statement (.vsubW vd vs1 vs2 vm) := by
  have := vd.isLt
  have := vs1.isLt
  have := vs2.isLt
  have := vm.isLt
  exact of_long rfl (by omega) (by omega)

theorem vmulW (vd vs1 vs2 : VReg) (vm : VMask) : Statement (.vmulW vd vs1 vs2 vm) := by
  have := vd.isLt
  have := vs1.isLt
  have := vs2.isLt
  have := vm.isLt
  exact of_long rfl (by omega) (by omega)

theorem vmulhW (vd vs1 vs2 : VReg) (vm : VMask) : Statement (.vmulhW vd vs1 vs2 vm) := by
  have := vd.isLt
  have := vs1.isLt
  have := vs2.isLt
  have := vm.isLt
  exact of_long rfl (by omega) (by omega)

theorem vminW (vd vs1 vs2 : VReg) (vm : VMask) : Statement (.vminW vd vs1 vs2 vm) := by
  have := vd.isLt
  have := vs1.isLt
  have := vs2.isLt
  have := vm.isLt
  exact of_long rfl (by omega) (by omega)

theorem vmaxW (vd vs1 vs2 : VReg) (vm : VMask) : Statement (.vmaxW vd vs1 vs2 vm) := by
  have := vd.isLt
  have := vs1.isLt
  have := vs2.isLt
  have := vm.isLt
  exact of_long rfl (by omega) (by omega)

theorem vminuW (vd vs1 vs2 : VReg) (vm : VMask) : Statement (.vminuW vd vs1 vs2 vm) := by
  have := vd.isLt
  have := vs1.isLt
  have := vs2.isLt
  have := vm.isLt
  exact of_long rfl (by omega) (by omega)

theorem vmaxuW (vd vs1 vs2 : VReg) (vm : VMask) : Statement (.vmaxuW vd vs1 vs2 vm) := by
  have := vd.isLt
  have := vs1.isLt
  have := vs2.isLt
  have := vm.isLt
  exact of_long rfl (by omega) (by omega)

theorem vand (vd vs1 vs2 : VReg) (vm : VMask) : Statement (.vand vd vs1 vs2 vm) := by
  have := vd.isLt
  have := vs1.isLt
  have := vs2.isLt
  have := vm.isLt
  exact of_long rfl (by omega) (by omega)

theorem vor (vd vs1 vs2 : VReg) (vm : VMask) : Statement (.vor vd vs1 vs2 vm) := by
  have := vd.isLt
  have := vs1.isLt
  have := vs2.isLt
  have := vm.isLt
  exact of_long rfl (by omega) (by omega)

theorem vxor (vd vs1 vs2 : VReg) (vm : VMask) : Statement (.vxor vd vs1 vs2 vm) := by
  have := vd.isLt
  have := vs1.isLt
  have := vs2.isLt
  have := vm.isLt
  exact of_long rfl (by omega) (by omega)

theorem vsll (vd vs1 vs2 : VReg) (vm : VMask) : Statement (.vsll vd vs1 vs2 vm) := by
  have := vd.isLt
  have := vs1.isLt
  have := vs2.isLt
  have := vm.isLt
  exact of_long rfl (by omega) (by omega)

theorem vsrl (vd vs1 vs2 : VReg) (vm : VMask) : Statement (.vsrl vd vs1 vs2 vm) := by
  have := vd.isLt
  have := vs1.isLt
  have := vs2.isLt
  have := vm.isLt
  exact of_long rfl (by omega) (by omega)

theorem vsra (vd vs1 vs2 : VReg) (vm : VMask) : Statement (.vsra vd vs1 vs2 vm) := by
  have := vd.isLt
  have := vs1.isLt
  have := vs2.isLt
  have := vm.isLt
  exact of_long rfl (by omega) (by omega)

theorem vdot4 (vd vs1 vs2 : VReg) (vm : VMask) : Statement (.vdot4 vd vs1 vs2 vm) := by
  have := vd.isLt
  have := vs1.isLt
  have := vs2.isLt
  have := vm.isLt
  exact of_long rfl (by omega) (by omega)

theorem vdot4u (vd vs1 vs2 : VReg) (vm : VMask) : Statement (.vdot4u vd vs1 vs2 vm) := by
  have := vd.isLt
  have := vs1.isLt
  have := vs2.isLt
  have := vm.isLt
  exact of_long rfl (by omega) (by omega)

theorem vfadd (vd vs1 vs2 : VReg) (vm : VMask) : Statement (.vfadd vd vs1 vs2 vm) := by
  have := vd.isLt
  have := vs1.isLt
  have := vs2.isLt
  have := vm.isLt
  exact of_long rfl (by omega) (by omega)

theorem vfsub (vd vs1 vs2 : VReg) (vm : VMask) : Statement (.vfsub vd vs1 vs2 vm) := by
  have := vd.isLt
  have := vs1.isLt
  have := vs2.isLt
  have := vm.isLt
  exact of_long rfl (by omega) (by omega)

theorem vfmul (vd vs1 vs2 : VReg) (vm : VMask) : Statement (.vfmul vd vs1 vs2 vm) := by
  have := vd.isLt
  have := vs1.isLt
  have := vs2.isLt
  have := vm.isLt
  exact of_long rfl (by omega) (by omega)

theorem vfma (vd vs1 vs2 : VReg) (vm : VMask) : Statement (.vfma vd vs1 vs2 vm) := by
  have := vd.isLt
  have := vs1.isLt
  have := vs2.isLt
  have := vm.isLt
  exact of_long rfl (by omega) (by omega)

theorem vfmin (vd vs1 vs2 : VReg) (vm : VMask) : Statement (.vfmin vd vs1 vs2 vm) := by
  have := vd.isLt
  have := vs1.isLt
  have := vs2.isLt
  have := vm.isLt
  exact of_long rfl (by omega) (by omega)

theorem vfmax (vd vs1 vs2 : VReg) (vm : VMask) : Statement (.vfmax vd vs1 vs2 vm) := by
  have := vd.isLt
  have := vs1.isLt
  have := vs2.isLt
  have := vm.isLt
  exact of_long rfl (by omega) (by omega)

theorem vfrcp (vd vs1 : VReg) (vm : VMask) : Statement (.vfrcp vd vs1 vm) := by
  have := vd.isLt
  have := vs1.isLt
  have := vm.isLt
  exact of_long rfl (by omega) (by omega)

theorem vfrsq (vd vs1 : VReg) (vm : VMask) : Statement (.vfrsq vd vs1 vm) := by
  have := vd.isLt
  have := vs1.isLt
  have := vm.isLt
  exact of_long rfl (by omega) (by omega)

theorem vexp2 (vd vs1 : VReg) (vm : VMask) : Statement (.vexp2 vd vs1 vm) := by
  have := vd.isLt
  have := vs1.isLt
  have := vm.isLt
  exact of_long rfl (by omega) (by omega)

theorem vlog2 (vd vs1 : VReg) (vm : VMask) : Statement (.vlog2 vd vs1 vm) := by
  have := vd.isLt
  have := vs1.isLt
  have := vm.isLt
  exact of_long rfl (by omega) (by omega)

theorem vfabs (vd vs1 : VReg) (vm : VMask) : Statement (.vfabs vd vs1 vm) := by
  have := vd.isLt
  have := vs1.isLt
  have := vm.isLt
  exact of_long rfl (by omega) (by omega)

theorem vfneg (vd vs1 : VReg) (vm : VMask) : Statement (.vfneg vd vs1 vm) := by
  have := vd.isLt
  have := vs1.isLt
  have := vm.isLt
  exact of_long rfl (by omega) (by omega)

theorem vceqW (vmd : VMask) (vs1 vs2 : VReg) (vm : VMask) : Statement (.vceqW vmd vs1 vs2 vm) := by
  have := vmd.isLt
  have := vs1.isLt
  have := vs2.isLt
  have := vm.isLt
  exact of_long rfl (by omega) (by omega)

theorem vcltW (vmd : VMask) (vs1 vs2 : VReg) (vm : VMask) : Statement (.vcltW vmd vs1 vs2 vm) := by
  have := vmd.isLt
  have := vs1.isLt
  have := vs2.isLt
  have := vm.isLt
  exact of_long rfl (by omega) (by omega)

theorem vcltuW (vmd : VMask) (vs1 vs2 : VReg) (vm : VMask) : Statement (.vcltuW vmd vs1 vs2 vm) := by
  have := vmd.isLt
  have := vs1.isLt
  have := vs2.isLt
  have := vm.isLt
  exact of_long rfl (by omega) (by omega)

theorem vfceq (vmd : VMask) (vs1 vs2 : VReg) (vm : VMask) : Statement (.vfceq vmd vs1 vs2 vm) := by
  have := vmd.isLt
  have := vs1.isLt
  have := vs2.isLt
  have := vm.isLt
  exact of_long rfl (by omega) (by omega)

theorem vfclt (vmd : VMask) (vs1 vs2 : VReg) (vm : VMask) : Statement (.vfclt vmd vs1 vs2 vm) := by
  have := vmd.isLt
  have := vs1.isLt
  have := vs2.isLt
  have := vm.isLt
  exact of_long rfl (by omega) (by omega)

theorem vfcle (vmd : VMask) (vs1 vs2 : VReg) (vm : VMask) : Statement (.vfcle vmd vs1 vs2 vm) := by
  have := vmd.isLt
  have := vs1.isLt
  have := vs2.isLt
  have := vm.isLt
  exact of_long rfl (by omega) (by omega)

theorem vsel (vd vs1 vs2 : VReg) (sel : VMask) : Statement (.vsel vd vs1 vs2 sel) := by
  have := vd.isLt
  have := vs1.isLt
  have := vs2.isLt
  have := sel.isLt
  exact of_long rfl (by omega) (by omega)

theorem vmov (vd vs1 : VReg) (vm : VMask) : Statement (.vmov vd vs1 vm) := by
  have := vd.isLt
  have := vs1.isLt
  have := vm.isLt
  exact of_long rfl (by omega) (by omega)

theorem vperm (vd vs1 vs2 : VReg) (vm : VMask) : Statement (.vperm vd vs1 vs2 vm) := by
  have := vd.isLt
  have := vs1.isLt
  have := vs2.isLt
  have := vm.isLt
  exact of_long rfl (by omega) (by omega)

theorem vcvtSW (vd vs1 : VReg) (vm : VMask) : Statement (.vcvtSW vd vs1 vm) := by
  have := vd.isLt
  have := vs1.isLt
  have := vm.isLt
  exact of_long rfl (by omega) (by omega)

theorem vcvtWS (vd vs1 : VReg) (vm : VMask) : Statement (.vcvtWS vd vs1 vm) := by
  have := vd.isLt
  have := vs1.isLt
  have := vm.isLt
  exact of_long rfl (by omega) (by omega)

theorem vcvtSH (vd vs1 : VReg) (vm : VMask) : Statement (.vcvtSH vd vs1 vm) := by
  have := vd.isLt
  have := vs1.isLt
  have := vm.isLt
  exact of_long rfl (by omega) (by omega)

theorem vcvtHS (vd vs1 : VReg) (vm : VMask) : Statement (.vcvtHS vd vs1 vm) := by
  have := vd.isLt
  have := vs1.isLt
  have := vm.isLt
  exact of_long rfl (by omega) (by omega)

theorem vcvtSBf (vd vs1 : VReg) (vm : VMask) : Statement (.vcvtSBf vd vs1 vm) := by
  have := vd.isLt
  have := vs1.isLt
  have := vm.isLt
  exact of_long rfl (by omega) (by omega)

theorem vcvtBfS (vd vs1 : VReg) (vm : VMask) : Statement (.vcvtBfS vd vs1 vm) := by
  have := vd.isLt
  have := vs1.isLt
  have := vm.isLt
  exact of_long rfl (by omega) (by omega)

theorem vlmulH (vd vs1 vs2 : VReg) (vm : VMask) : Statement (.vlmulH vd vs1 vs2 vm) := by
  have := vd.isLt
  have := vs1.isLt
  have := vs2.isLt
  have := vm.isLt
  exact of_long rfl (by omega) (by omega)

theorem vlinH (vd vs1 : VReg) (vm : VMask) : Statement (.vlinH vd vs1 vm) := by
  have := vd.isLt
  have := vs1.isLt
  have := vm.isLt
  exact of_long rfl (by omega) (by omega)

theorem vlogH (vd vs1 : VReg) (vm : VMask) : Statement (.vlogH vd vs1 vm) := by
  have := vd.isLt
  have := vs1.isLt
  have := vm.isLt
  exact of_long rfl (by omega) (by omega)

theorem vlinB (vd vs1 : VReg) (vm : VMask) : Statement (.vlinB vd vs1 vm) := by
  have := vd.isLt
  have := vs1.isLt
  have := vm.isLt
  exact of_long rfl (by omega) (by omega)

theorem vlogB (vd vs1 : VReg) (vm : VMask) : Statement (.vlogB vd vs1 vm) := by
  have := vd.isLt
  have := vs1.isLt
  have := vm.isLt
  exact of_long rfl (by omega) (by omega)

theorem vredsumW (vs1 : VReg) (vm : VMask) : Statement (.vredsumW vs1 vm) := by
  have := vs1.isLt
  have := vm.isLt
  exact of_long rfl (by omega) (by omega)

theorem vredsumS (vs1 : VReg) (vm : VMask) : Statement (.vredsumS vs1 vm) := by
  have := vs1.isLt
  have := vm.isLt
  exact of_long rfl (by omega) (by omega)

theorem vredmaxS (vs1 : VReg) (vm : VMask) : Statement (.vredmaxS vs1 vm) := by
  have := vs1.isLt
  have := vm.isLt
  exact of_long rfl (by omega) (by omega)

theorem vredminS (vs1 : VReg) (vm : VMask) : Statement (.vredminS vs1 vm) := by
  have := vs1.isLt
  have := vm.isLt
  exact of_long rfl (by omega) (by omega)

theorem vredmaxW (vs1 : VReg) (vm : VMask) : Statement (.vredmaxW vs1 vm) := by
  have := vs1.isLt
  have := vm.isLt
  exact of_long rfl (by omega) (by omega)

theorem vaddWShort (vd vs : VReg) : Statement (.vaddWShort vd vs) := by
  have := vd.isLt
  have := vs.isLt
  exact of_short rfl (by omega) (by omega)

theorem vsubWShort (vd vs : VReg) : Statement (.vsubWShort vd vs) := by
  have := vd.isLt
  have := vs.isLt
  exact of_short rfl (by omega) (by omega)

theorem vmulWShort (vd vs : VReg) : Statement (.vmulWShort vd vs) := by
  have := vd.isLt
  have := vs.isLt
  exact of_short rfl (by omega) (by omega)

theorem vandShort (vd vs : VReg) : Statement (.vandShort vd vs) := by
  have := vd.isLt
  have := vs.isLt
  exact of_short rfl (by omega) (by omega)

theorem vorShort (vd vs : VReg) : Statement (.vorShort vd vs) := by
  have := vd.isLt
  have := vs.isLt
  exact of_short rfl (by omega) (by omega)

theorem vxorShort (vd vs : VReg) : Statement (.vxorShort vd vs) := by
  have := vd.isLt
  have := vs.isLt
  exact of_short rfl (by omega) (by omega)

theorem vminWShort (vd vs : VReg) : Statement (.vminWShort vd vs) := by
  have := vd.isLt
  have := vs.isLt
  exact of_short rfl (by omega) (by omega)

theorem vmaxWShort (vd vs : VReg) : Statement (.vmaxWShort vd vs) := by
  have := vd.isLt
  have := vs.isLt
  exact of_short rfl (by omega) (by omega)

theorem vfaddShort (vd vs : VReg) : Statement (.vfaddShort vd vs) := by
  have := vd.isLt
  have := vs.isLt
  exact of_short rfl (by omega) (by omega)

theorem vfsubShort (vd vs : VReg) : Statement (.vfsubShort vd vs) := by
  have := vd.isLt
  have := vs.isLt
  exact of_short rfl (by omega) (by omega)

theorem vfmulShort (vd vs : VReg) : Statement (.vfmulShort vd vs) := by
  have := vd.isLt
  have := vs.isLt
  exact of_short rfl (by omega) (by omega)

theorem vfminShort (vd vs : VReg) : Statement (.vfminShort vd vs) := by
  have := vd.isLt
  have := vs.isLt
  exact of_short rfl (by omega) (by omega)

theorem vfmaxShort (vd vs : VReg) : Statement (.vfmaxShort vd vs) := by
  have := vd.isLt
  have := vs.isLt
  exact of_short rfl (by omega) (by omega)

theorem vmovShort (vd vs : VReg) : Statement (.vmovShort vd vs) := by
  have := vd.isLt
  have := vs.isLt
  exact of_short rfl (by omega) (by omega)

theorem vlmulHShort (vd vs : VReg) : Statement (.vlmulHShort vd vs) := by
  have := vd.isLt
  have := vs.isLt
  exact of_short rfl (by omega) (by omega)

theorem vsllShort (vd vs : VReg) : Statement (.vsllShort vd vs) := by
  have := vd.isLt
  have := vs.isLt
  exact of_short rfl (by omega) (by omega)

theorem vaddWBcast (vd : VReg) (o : Fin 8) : Statement (.vaddWBcast vd o) := by
  have := vd.isLt
  have := o.isLt
  exact of_short rfl (by omega) (by omega)

theorem vsubWBcast (vd : VReg) (o : Fin 8) : Statement (.vsubWBcast vd o) := by
  have := vd.isLt
  have := o.isLt
  exact of_short rfl (by omega) (by omega)

theorem vmulWBcast (vd : VReg) (o : Fin 8) : Statement (.vmulWBcast vd o) := by
  have := vd.isLt
  have := o.isLt
  exact of_short rfl (by omega) (by omega)

theorem vandBcast (vd : VReg) (o : Fin 8) : Statement (.vandBcast vd o) := by
  have := vd.isLt
  have := o.isLt
  exact of_short rfl (by omega) (by omega)

theorem vorBcast (vd : VReg) (o : Fin 8) : Statement (.vorBcast vd o) := by
  have := vd.isLt
  have := o.isLt
  exact of_short rfl (by omega) (by omega)

theorem vxorBcast (vd : VReg) (o : Fin 8) : Statement (.vxorBcast vd o) := by
  have := vd.isLt
  have := o.isLt
  exact of_short rfl (by omega) (by omega)

theorem vminWBcast (vd : VReg) (o : Fin 8) : Statement (.vminWBcast vd o) := by
  have := vd.isLt
  have := o.isLt
  exact of_short rfl (by omega) (by omega)

theorem vmaxWBcast (vd : VReg) (o : Fin 8) : Statement (.vmaxWBcast vd o) := by
  have := vd.isLt
  have := o.isLt
  exact of_short rfl (by omega) (by omega)

theorem vfaddBcast (vd : VReg) (o : Fin 8) : Statement (.vfaddBcast vd o) := by
  have := vd.isLt
  have := o.isLt
  exact of_short rfl (by omega) (by omega)

theorem vfsubBcast (vd : VReg) (o : Fin 8) : Statement (.vfsubBcast vd o) := by
  have := vd.isLt
  have := o.isLt
  exact of_short rfl (by omega) (by omega)

theorem vfmulBcast (vd : VReg) (o : Fin 8) : Statement (.vfmulBcast vd o) := by
  have := vd.isLt
  have := o.isLt
  exact of_short rfl (by omega) (by omega)

theorem vfminBcast (vd : VReg) (o : Fin 8) : Statement (.vfminBcast vd o) := by
  have := vd.isLt
  have := o.isLt
  exact of_short rfl (by omega) (by omega)

theorem vfmaxBcast (vd : VReg) (o : Fin 8) : Statement (.vfmaxBcast vd o) := by
  have := vd.isLt
  have := o.isLt
  exact of_short rfl (by omega) (by omega)

theorem vmovBcast (vd : VReg) (o : Fin 8) : Statement (.vmovBcast vd o) := by
  have := vd.isLt
  have := o.isLt
  exact of_short rfl (by omega) (by omega)

theorem vlmulHBcast (vd : VReg) (o : Fin 8) : Statement (.vlmulHBcast vd o) := by
  have := vd.isLt
  have := o.isLt
  exact of_short rfl (by omega) (by omega)

theorem vsllBcast (vd : VReg) (o : Fin 8) : Statement (.vsllBcast vd o) := by
  have := vd.isLt
  have := o.isLt
  exact of_short rfl (by omega) (by omega)

theorem vld (vd : VReg) (k : Cap) (rs2 : Reg) (vm : VMask) : Statement (.vld vd k rs2 vm) := by
  have := vd.isLt
  have := k.isLt
  have := reg_code_lt rs2
  have := vm.isLt
  exact of_long rfl (by omega) (by omega)

theorem vst (vd : VReg) (k : Cap) (rs2 : Reg) (vm : VMask) : Statement (.vst vd k rs2 vm) := by
  have := vd.isLt
  have := k.isLt
  have := reg_code_lt rs2
  have := vm.isLt
  exact of_long rfl (by omega) (by omega)

theorem vlds (vd : VReg) (k : Cap) (rs2 : Reg) (vm : VMask) : Statement (.vlds vd k rs2 vm) := by
  have := vd.isLt
  have := k.isLt
  have := reg_code_lt rs2
  have := vm.isLt
  exact of_long rfl (by omega) (by omega)

theorem vsts (vd : VReg) (k : Cap) (rs2 : Reg) (vm : VMask) : Statement (.vsts vd k rs2 vm) := by
  have := vd.isLt
  have := k.isLt
  have := reg_code_lt rs2
  have := vm.isLt
  exact of_long rfl (by omega) (by omega)

theorem vldg (vd : VReg) (k : Cap) (vm : VMask) : Statement (.vldg vd k vm) := by
  have := vd.isLt
  have := k.isLt
  have := vm.isLt
  exact of_long rfl (by omega) (by omega)

theorem vstg (vd : VReg) (k : Cap) (vn : VReg) (vm : VMask) : Statement (.vstg vd k vn vm) := by
  have := vd.isLt
  have := k.isLt
  have := vn.isLt
  have := vm.isLt
  exact of_long rfl (by omega) (by omega)

theorem vbcast (vd : VReg) (rs1 : Reg) (vm : VMask) : Statement (.vbcast vd rs1 vm) := by
  have := vd.isLt
  have := reg_code_lt rs1
  have := vm.isLt
  exact of_long rfl (by omega) (by omega)

theorem vmovs (vd : VReg) (rs2 : Reg) : Statement (.vmovs vd rs2) := by
  have := vd.isLt
  have := reg_code_lt rs2
  exact of_long rfl (by omega) (by omega)

theorem vins (vd : VReg) (rs1 rs2 : Reg) : Statement (.vins vd rs1 rs2) := by
  have := vd.isLt
  have := reg_code_lt rs1
  have := reg_code_lt rs2
  exact of_long rfl (by omega) (by omega)

theorem viota (vd : VReg) (vm : VMask) : Statement (.viota vd vm) := by
  have := vd.isLt
  have := vm.isLt
  exact of_long rfl (by omega) (by omega)

theorem vrand (vd : VReg) (vm : VMask) : Statement (.vrand vd vm) := by
  have := vd.isLt
  have := vm.isLt
  exact of_long rfl (by omega) (by omega)

theorem gang (rs1 : Reg) : Statement (.gang rs1) := by
  have := reg_code_lt rs1
  exact of_long rfl (by omega) (by omega)

theorem ungang : Statement .ungang := of_long rfl (by decide) (by decide)

theorem vfence : Statement .vfence := of_long rfl (by decide) (by decide)

theorem vsetw (rs1 : Reg) : Statement (.vsetw rs1) := by
  have := reg_code_lt rs1
  exact of_long rfl (by omega) (by omega)

theorem vmand (vmd vms1 vms2 : VMask) : Statement (.vmand vmd vms1 vms2) := by
  have := vmd.isLt
  have := vms1.isLt
  have := vms2.isLt
  exact of_long rfl (by omega) (by omega)

theorem vmor (vmd vms1 vms2 : VMask) : Statement (.vmor vmd vms1 vms2) := by
  have := vmd.isLt
  have := vms1.isLt
  have := vms2.isLt
  exact of_long rfl (by omega) (by omega)

theorem vmnot (vmd vms1 : VMask) : Statement (.vmnot vmd vms1) := by
  have := vmd.isLt
  have := vms1.isLt
  exact of_long rfl (by omega) (by omega)

theorem vmpopc (rd : Reg) (vms1 : VMask) : Statement (.vmpopc rd vms1) := by
  have := reg_code_lt rd
  have := vms1.isLt
  exact of_long rfl (by omega) (by omega)

theorem mclaim (rd : Reg) : Statement (.mclaim rd) := by
  have := reg_code_lt rd
  exact of_long rfl (by omega) (by omega)

theorem mfree : Statement .mfree := of_long rfl (by decide) (by decide)

theorem mldw (rs1 : Reg) : Statement (.mldw rs1) := by
  have := reg_code_lt rs1
  exact of_long rfl (by omega) (by omega)

theorem mswap : Statement .mswap := of_long rfl (by decide) (by decide)

theorem mstream (rs1 rs2 : Reg) : Statement (.mstream rs1 rs2) := by
  have := reg_code_lt rs1
  have := reg_code_lt rs2
  exact of_long rfl (by omega) (by omega)

theorem mzero (rs1 rs2 : Reg) : Statement (.mzero rs1 rs2) := by
  have := reg_code_lt rs1
  have := reg_code_lt rs2
  exact of_long rfl (by omega) (by omega)

theorem mstore (rs1 rs2 : Reg) : Statement (.mstore rs1 rs2) := by
  have := reg_code_lt rs1
  have := reg_code_lt rs2
  exact of_long rfl (by omega) (by omega)

theorem mwait : Statement .mwait := of_long rfl (by decide) (by decide)

theorem mmode (rs1 : Reg) : Statement (.mmode rs1) := by
  have := reg_code_lt rs1
  exact of_long rfl (by omega) (by omega)

theorem mscale (rs1 rs2 : Reg) : Statement (.mscale rs1 rs2) := by
  have := reg_code_lt rs1
  have := reg_code_lt rs2
  exact of_long rfl (by omega) (by omega)

theorem mstat (rd : Reg) : Statement (.mstat rd) := by
  have := reg_code_lt rd
  exact of_long rfl (by omega) (by omega)

theorem cpq (q : Fin 8) : Statement (.cpq q) := by
  have := q.isLt
  exact of_long rfl (by omega) (by omega)

theorem cpqt (rd : Reg) (q : Fin 8) : Statement (.cpqt rd q) := by
  have := reg_code_lt rd
  have := q.isLt
  exact of_long rfl (by omega) (by omega)

theorem rinit (rs1 : Reg) : Statement (.rinit rs1) := by
  have := reg_code_lt rs1
  exact of_long rfl (by omega) (by omega)

theorem rawait (rd rs1 : Reg) : Statement (.rawait rd rs1) := by
  have := reg_code_lt rd
  have := reg_code_lt rs1
  exact of_long rfl (by omega) (by omega)

theorem rrel (rs1 : Reg) : Statement (.rrel rs1) := by
  have := reg_code_lt rs1
  exact of_long rfl (by omega) (by omega)

theorem rpeek (rd rs1 : Reg) : Statement (.rpeek rd rs1) := by
  have := reg_code_lt rd
  have := reg_code_lt rs1
  exact of_long rfl (by omega) (by omega)

theorem binit (rs1 rs2 : Reg) : Statement (.binit rs1 rs2) := by
  have := reg_code_lt rs1
  have := reg_code_lt rs2
  exact of_long rfl (by omega) (by omega)

theorem barv (rd rs1 : Reg) : Statement (.barv rd rs1) := by
  have := reg_code_lt rd
  have := reg_code_lt rs1
  exact of_long rfl (by omega) (by omega)

theorem bexp (rs1 rs2 : Reg) : Statement (.bexp rs1 rs2) := by
  have := reg_code_lt rs1
  have := reg_code_lt rs2
  exact of_long rfl (by omega) (by omega)

theorem bwait (rd rs1 rs2 : Reg) : Statement (.bwait rd rs1 rs2) := by
  have := reg_code_lt rd
  have := reg_code_lt rs1
  have := reg_code_lt rs2
  exact of_long rfl (by omega) (by omega)

theorem btest (rd rs1 rs2 : Reg) : Statement (.btest rd rs1 rs2) := by
  have := reg_code_lt rd
  have := reg_code_lt rs1
  have := reg_code_lt rs2
  exact of_long rfl (by omega) (by omega)

theorem grank (rd rs1 : Reg) : Statement (.grank rd rs1) := by
  have := reg_code_lt rd
  have := reg_code_lt rs1
  exact of_long rfl (by omega) (by omega)

theorem gsize (rd rs1 : Reg) : Statement (.gsize rd rs1) := by
  have := reg_code_lt rd
  have := reg_code_lt rs1
  exact of_long rfl (by omega) (by omega)

theorem garv (rd rs1 : Reg) : Statement (.garv rd rs1) := by
  have := reg_code_lt rd
  have := reg_code_lt rs1
  exact of_long rfl (by omega) (by omega)

theorem gwait (rs1 rs2 : Reg) : Statement (.gwait rs1 rs2) := by
  have := reg_code_lt rs1
  have := reg_code_lt rs2
  exact of_long rfl (by omega) (by omega)

theorem evsig (rs1 rs2 : Reg) : Statement (.evsig rs1 rs2) := by
  have := reg_code_lt rs1
  have := reg_code_lt rs2
  exact of_long rfl (by omega) (by omega)

theorem evwait (rs1 : Reg) : Statement (.evwait rs1) := by
  have := reg_code_lt rs1
  exact of_long rfl (by omega) (by omega)

theorem evtry (rd rs1 : Reg) : Statement (.evtry rd rs1) := by
  have := reg_code_lt rd
  have := reg_code_lt rs1
  exact of_long rfl (by omega) (by omega)

theorem evset (rs1 : Reg) : Statement (.evset rs1) := by
  have := reg_code_lt rs1
  exact of_long rfl (by omega) (by omega)

theorem evclr (rs1 : Reg) : Statement (.evclr rs1) := by
  have := reg_code_lt rs1
  exact of_long rfl (by omega) (by omega)

theorem spawn (rd rs1 : Reg) : Statement (.spawn rd rs1) := by
  have := reg_code_lt rd
  have := reg_code_lt rs1
  exact of_long rfl (by omega) (by omega)

theorem suspend : Statement .suspend := of_long rfl (by decide) (by decide)

theorem yield : Statement .yield := of_long rfl (by decide) (by decide)

theorem exit : Statement .exit := of_long rfl (by decide) (by decide)

theorem resume (rs1 : Reg) : Statement (.resume rs1) := by
  have := reg_code_lt rs1
  exact of_long rfl (by omega) (by omega)

theorem dist (rd rs1 : Reg) (size : BitVec 13) : Statement (.dist rd rs1 size) := by
  have := reg_code_lt rd
  have := reg_code_lt rs1
  have := size.isLt
  exact of_long rfl (by omega) (by omega)

theorem srd (rd : Reg) (sr : SysReg) : Statement (.srd rd sr) := by
  have := reg_code_lt rd
  have := sysreg_code_lt sr
  exact of_long rfl (by omega) (by omega)

theorem swr (rd : Reg) (sr : SysReg) (rs1 : Reg) : Statement (.swr rd sr rs1) := by
  have := reg_code_lt rd
  have := sysreg_code_lt sr
  have := reg_code_lt rs1
  exact of_long rfl (by omega) (by omega)

theorem sset (rd : Reg) (sr : SysReg) (rs1 : Reg) : Statement (.sset rd sr rs1) := by
  have := reg_code_lt rd
  have := sysreg_code_lt sr
  have := reg_code_lt rs1
  exact of_long rfl (by omega) (by omega)

theorem sclr (rd : Reg) (sr : SysReg) (rs1 : Reg) : Statement (.sclr rd sr rs1) := by
  have := reg_code_lt rd
  have := sysreg_code_lt sr
  have := reg_code_lt rs1
  exact of_long rfl (by omega) (by omega)

theorem trap (code : BitVec 6) : Statement (.trap code) := by
  have := code.isLt
  exact of_long rfl (by omega) (by omega)

theorem uret : Statement .uret := of_long rfl (by decide) (by decide)

theorem uiret : Statement .uiret := of_long rfl (by decide) (by decide)

theorem sret : Statement .sret := of_long rfl (by decide) (by decide)

theorem brk : Statement .brk := of_long rfl (by decide) (by decide)

theorem wfi : Statement .wfi := of_long rfl (by decide) (by decide)

theorem uien (rs1 : Reg) : Statement (.uien rs1) := by
  have := reg_code_lt rs1
  exact of_long rfl (by omega) (by omega)

theorem pref (rs1 : Reg) : Statement (.pref rs1) := by
  have := reg_code_lt rs1
  exact of_long rfl (by omega) (by omega)

theorem invl (rs1 : Reg) : Statement (.invl rs1) := by
  have := reg_code_lt rs1
  exact of_long rfl (by omega) (by omega)

theorem hmbump (rs1 : Reg) : Statement (.hmbump rs1) := by
  have := reg_code_lt rs1
  exact of_long rfl (by omega) (by omega)

theorem relack (rs1 : Reg) : Statement (.relack rs1) := by
  have := reg_code_lt rs1
  exact of_long rfl (by omega) (by omega)

theorem flushl (rs1 : Reg) : Statement (.flushl rs1) := by
  have := reg_code_lt rs1
  exact of_long rfl (by omega) (by omega)

theorem vfcall (rd rs1 : Reg) : Statement (.vfcall rd rs1) := by
  have := reg_code_lt rd
  have := reg_code_lt rs1
  exact of_long rfl (by omega) (by omega)

theorem qrnPop : Statement (.qrnPop) := of_none rfl

theorem qcsPop : Statement (.qcsPop) := of_none rfl

theorem qntPop : Statement (.qntPop) := of_none rfl

theorem qvsPop : Statement (.qvsPop) := of_none rfl

theorem qmoPop : Statement (.qmoPop) := of_none rfl

theorem qmiPush (v : W64) : Statement (.qmiPush v) := of_none rfl

theorem qsaPush (v : W64) : Statement (.qsaPush v) := of_none rfl

theorem qsoPop : Statement (.qsoPop) := of_none rfl

theorem lookaheadResult (i : Nat) : Statement (.lookaheadResult i) := of_none rfl

theorem storeOrdered (i : Nat) : Statement (.storeOrdered i) := of_none rfl

theorem acknowledgement (i : Nat) : Statement (.acknowledgement i) := of_none rfl

theorem amoResult : Statement (.amoResult) := of_none rfl

theorem allowanceEnd (i : Nat) : Statement (.allowanceEnd i) := of_none rfl

theorem userInterrupt : Statement (.userInterrupt) := of_none rfl

theorem asynchronousTrap : Statement (.asynchronousTrap) := of_none rfl

theorem vectorGrant (cell : Nat) : Statement (.vectorGrant cell) := of_none rfl

theorem vectorComplete : Statement (.vectorComplete) := of_none rfl

theorem copyChunkStart (engine : Nat) : Statement (.copyChunkStart engine) := of_none rfl

theorem copyChunkDone (id : Nat) : Statement (.copyChunkDone id) := of_none rfl

theorem copyCompletion (id : Nat) : Statement (.copyCompletion id) := of_none rfl

theorem periodRefill (vf : Nat) : Statement (.periodRefill vf) := of_none rfl

theorem planeLoad (cell : Nat) : Statement (.planeLoad cell) := of_none rfl

theorem rowInjection (cell : Nat) : Statement (.rowInjection cell) := of_none rfl

theorem rowComplete (cell : Nat) : Statement (.rowComplete cell) := of_none rfl

theorem pageRelocation : Statement (.pageRelocation) := of_none rfl

theorem cellRetirement (cell : Nat) : Statement (.cellRetirement cell) := of_none rfl

theorem scrub (cell corrected : Nat) : Statement (.scrub cell corrected) := of_none rfl

theorem softErrorHalving : Statement (.softErrorHalving) := of_none rfl

theorem stage2Load (vf : Nat) : Statement (.stage2Load vf) := of_none rfl

theorem pageWalk (die : Nat) : Statement (.pageWalk die) := of_none rfl

theorem hostWrite (t : HostTarget) (data : List Byte) : Statement (.hostWrite t data) := of_none rfl

theorem hostRead (t : HostTarget) (n : Nat) : Statement (.hostRead t n) := of_none rfl

theorem launchCommit (vf slot : Nat) : Statement (.launchCommit vf slot) := of_none rfl

theorem launchCompletion (id : Nat) : Statement (.launchCompletion id) := of_none rfl

theorem dispatch : Statement (.dispatch) := of_none rfl

theorem sliceEnding (node : Nat) : Statement (.sliceEnding node) := of_none rfl

theorem sliceEnd (node : Nat) : Statement (.sliceEnd node) := of_none rfl

theorem coreHalt : Statement (.coreHalt) := of_none rfl

theorem flushComplete (node : Nat) : Statement (.flushComplete node) := of_none rfl

theorem sliceStart (node : Nat) : Statement (.sliceStart node) := of_none rfl

theorem actionRecord : Statement (.actionRecord) := of_none rfl

theorem setmin : Statement (.setmin) := of_none rfl

theorem setwd : Statement (.setwd) := of_none rfl

theorem setimg : Statement (.setimg) := of_none rfl

theorem actionDelivery (ac : Nat) : Statement (.actionDelivery ac) := of_none rfl

theorem post (ac : Nat) : Statement (.post ac) := of_none rfl

theorem wait (ac : Nat) : Statement (.wait ac) := of_none rfl

theorem controlBlockWrite (ac off : Nat) (v : W64) : Statement (.controlBlockWrite ac off v) := of_none rfl

theorem episodeZeroed (n : Nat) : Statement (.episodeZeroed n) := of_none rfl

theorem watchdogExpiry (n : Nat) : Statement (.watchdogExpiry n) := of_none rfl

theorem cappingDecision (coll : Nat) (need : CapNeed) : Statement (.cappingDecision coll need) := of_none rfl

theorem cadenceApply (coll : Nat) : Statement (.cadenceApply coll) := of_none rfl

theorem tokenGrant (mj : Nat) : Statement (.tokenGrant mj) := of_none rfl

theorem tokenTrade (inward : Bool) (mj : Nat) : Statement (.tokenTrade inward mj) := of_none rfl

theorem fallbackGrant : Statement (.fallbackGrant) := of_none rfl

theorem estimatorRefit (shunt : Option Nat) (rms : Nat) (counts : List Nat) : Statement (.estimatorRefit shunt rms counts) := of_none rfl

theorem telemetryRead (mw : Nat) : Statement (.telemetryRead mw) := of_none rfl

theorem energyRefresh (vf : Nat) (use : EnergyUse) : Statement (.energyRefresh vf use) := of_none rfl

theorem stallrUpdate (cluster : Nat) (v : BitVec 16) : Statement (.stallrUpdate cluster v) := of_none rfl

theorem setv (die mv : Nat) : Statement (.setv die mv) := of_none rfl

theorem setfb (cluster freq : Nat) (bias : Int) : Statement (.setfb cluster freq bias) := of_none rfl

theorem voltageStepSettled (die : Nat) : Statement (.voltageStepSettled die) := of_none rfl

theorem biasSettled (cluster : Nat) : Statement (.biasSettled cluster) := of_none rfl

theorem thermalSample (sensor : Nat) (degC : Nat) : Statement (.thermalSample sensor degC) := of_none rfl

theorem coolantFlowLow (decilitres : Nat) : Statement (.coolantFlowLow decilitres) := of_none rfl

theorem ackTimeout (i : Nat) : Statement (.ackTimeout i) := of_none rfl

theorem hivePortFailure (die : Nat) : Statement (.hivePortFailure die) := of_none rfl

theorem peerChunkArrival (link ring vf cmd len chunk : Nat) (data : List (Byte × Bool)) : Statement (.peerChunkArrival link ring vf cmd len chunk data) := of_none rfl

theorem chipLinkFailure (link : Nat) : Statement (.chipLinkFailure link) := of_none rfl

theorem powerOnReset : Statement (.powerOnReset) := of_none rfl

theorem enterReduced : Statement (.enterReduced) := of_none rfl

theorem enterFull : Statement (.enterFull) := of_none rfl

theorem assignvf (vf node share : Nat) (compat : Bool) : Statement (.assignvf vf node share compat) := of_none rfl

theorem sets2 (vf i : Nat) (e : BitVec 128) : Statement (.sets2 vf i e) := of_none rfl

theorem setslice (node i vf units : Nat) (valid : Bool) : Statement (.setslice node i vf units valid) := of_none rfl

theorem setcoll (node coll : Nat) : Statement (.setcoll node coll) := of_none rfl

theorem setway (vf cell : Nat) (mask : BitVec 16) : Statement (.setway vf cell mask) := of_none rfl

theorem setscope (vf : Nat) (scope : Scope) : Statement (.setscope vf scope) := of_none rfl

theorem setmbox (n : Nat) (owner : Option Nat) : Statement (.setmbox n owner) := of_none rfl

theorem setbudget (vf units period weight : Nat) : Statement (.setbudget vf units period weight) := of_none rfl

theorem resetdie (die : Nat) : Statement (.resetdie die) := of_none rfl

theorem saveregion (base size : Nat) : Statement (.saveregion base size) := of_none rfl

theorem attest (nonce : List Byte) : Statement (.attest nonce) := of_none rfl

theorem s2reply (vf status result : Nat) : Statement (.s2reply vf status result) := of_none rfl

theorem setroot (vf : Nat) : Statement (.setroot vf) := of_none rfl

theorem reserve (vf : Nat) : Statement (.reserve vf) := of_none rfl

theorem relocate (vf : Nat) : Statement (.relocate vf) := of_none rfl

theorem setq (vf : Nat) : Statement (.setq vf) := of_none rfl

theorem s2req (vf : Nat) : Statement (.s2req vf) := of_none rfl

theorem publish (vf : Nat) : Statement (.publish vf) := of_none rfl

theorem unpublish (vf : Nat) : Statement (.unpublish vf) := of_none rfl

theorem pwrread (vf : Nat) : Statement (.pwrread vf) := of_none rfl

theorem reservedEncoding (w : BitVec 32) : Statement (.reservedEncoding w) := of_none rfl

theorem fetchFault : Statement (.fetchFault) := of_none rfl

theorem environmentCoreInstruction (ac : Nat) : Statement (.environmentCoreInstruction ac) := of_none rfl

theorem hiveDieFault : Statement (.hiveDieFault) := of_none rfl

theorem matrixInstructionComplete (cell : Nat) : Statement (.matrixInstructionComplete cell) := of_none rfl

end Sys2Proof.Laws.Fits
end

