-- ==== Sys2Proof/Laws/Services.lean ====
section
/-!
SUPPORT. One lemma per field per update of the units beside the cores, and what a cluster's clock and a die's supply read after they
are set (R380, R381).
-/

namespace Sys2Proof.Machine

/-! ### setSch -/

@[simp] theorem setSch_cur (f : Sched → Sched) (s : State) : (setSch f s).cur = s.cur := rfl
@[simp] theorem setSch_live (f : Sched → Sched) (s : State) : (setSch f s).live = s.live := rfl
@[simp] theorem setSch_ctx (f : Sched → Sched) (s : State) : (setSch f s).ctx = s.ctx := rfl
@[simp] theorem setSch_parked (f : Sched → Sched) (s : State) : (setSch f s).parked = s.parked := rfl
@[simp] theorem setSch_mem (f : Sched → Sched) (s : State) : (setSch f s).mem = s.mem := rfl
@[simp] theorem setSch_fab (f : Sched → Sched) (s : State) : (setSch f s).fab = s.fab := rfl
@[simp] theorem setSch_trans (f : Sched → Sched) (s : State) : (setSch f s).trans = s.trans := rfl
@[simp] theorem setSch_cp (f : Sched → Sched) (s : State) : (setSch f s).cp = s.cp := rfl
@[simp] theorem setSch_engines (f : Sched → Sched) (s : State) : (setSch f s).engines = s.engines := rfl
@[simp] theorem setSch_claims (f : Sched → Sched) (s : State) : (setSch f s).claims = s.claims := rfl
@[simp] theorem setSch_api (f : Sched → Sched) (s : State) : (setSch f s).api = s.api := rfl
@[simp] theorem setSch_sch (f : Sched → Sched) (s : State) : (setSch f s).sch = f s.sch := rfl
@[simp] theorem setSch_pow (f : Sched → Sched) (s : State) : (setSch f s).pow = s.pow := rfl
@[simp] theorem setSch_pf (f : Sched → Sched) (s : State) : (setSch f s).pf = s.pf := rfl
@[simp] theorem setSch_gcycle (f : Sched → Sched) (s : State) : (setSch f s).gcycle = s.gcycle := rfl
@[simp] theorem setSch_insn (f : Sched → Sched) (s : State) : (setSch f s).insn = s.insn := rfl
@[simp] theorem setSch_latch (f : Sched → Sched) (s : State) : (setSch f s).latch = s.latch := rfl
@[simp] theorem setSch_hostLatch (f : Sched → Sched) (s : State) : (setSch f s).hostLatch = s.hostLatch := rfl
@[simp] theorem setSch_schedule (f : Sched → Sched) (s : State) : (setSch f s).schedule = s.schedule := rfl
@[simp] theorem setSch_turnNo (f : Sched → Sched) (s : State) : (setSch f s).turnNo = s.turnNo := rfl
@[simp] theorem setSch_freeNo (f : Sched → Sched) (s : State) : (setSch f s).freeNo = s.freeNo := rfl

/-! ### setPow -/

@[simp] theorem setPow_cur (f : Power → Power) (s : State) : (setPow f s).cur = s.cur := rfl
@[simp] theorem setPow_live (f : Power → Power) (s : State) : (setPow f s).live = s.live := rfl
@[simp] theorem setPow_ctx (f : Power → Power) (s : State) : (setPow f s).ctx = s.ctx := rfl
@[simp] theorem setPow_parked (f : Power → Power) (s : State) : (setPow f s).parked = s.parked := rfl
@[simp] theorem setPow_mem (f : Power → Power) (s : State) : (setPow f s).mem = s.mem := rfl
@[simp] theorem setPow_fab (f : Power → Power) (s : State) : (setPow f s).fab = s.fab := rfl
@[simp] theorem setPow_trans (f : Power → Power) (s : State) : (setPow f s).trans = s.trans := rfl
@[simp] theorem setPow_cp (f : Power → Power) (s : State) : (setPow f s).cp = s.cp := rfl
@[simp] theorem setPow_engines (f : Power → Power) (s : State) : (setPow f s).engines = s.engines := rfl
@[simp] theorem setPow_claims (f : Power → Power) (s : State) : (setPow f s).claims = s.claims := rfl
@[simp] theorem setPow_api (f : Power → Power) (s : State) : (setPow f s).api = s.api := rfl
@[simp] theorem setPow_sch (f : Power → Power) (s : State) : (setPow f s).sch = s.sch := rfl
@[simp] theorem setPow_pow (f : Power → Power) (s : State) : (setPow f s).pow = f s.pow := rfl
@[simp] theorem setPow_pf (f : Power → Power) (s : State) : (setPow f s).pf = s.pf := rfl
@[simp] theorem setPow_gcycle (f : Power → Power) (s : State) : (setPow f s).gcycle = s.gcycle := rfl
@[simp] theorem setPow_insn (f : Power → Power) (s : State) : (setPow f s).insn = s.insn := rfl
@[simp] theorem setPow_latch (f : Power → Power) (s : State) : (setPow f s).latch = s.latch := rfl
@[simp] theorem setPow_hostLatch (f : Power → Power) (s : State) : (setPow f s).hostLatch = s.hostLatch := rfl
@[simp] theorem setPow_schedule (f : Power → Power) (s : State) : (setPow f s).schedule = s.schedule := rfl
@[simp] theorem setPow_turnNo (f : Power → Power) (s : State) : (setPow f s).turnNo = s.turnNo := rfl
@[simp] theorem setPow_freeNo (f : Power → Power) (s : State) : (setPow f s).freeNo = s.freeNo := rfl

/-! ### setPf -/

@[simp] theorem setPf_cur (f : PfState → PfState) (s : State) : (setPf f s).cur = s.cur := rfl
@[simp] theorem setPf_live (f : PfState → PfState) (s : State) : (setPf f s).live = s.live := rfl
@[simp] theorem setPf_ctx (f : PfState → PfState) (s : State) : (setPf f s).ctx = s.ctx := rfl
@[simp] theorem setPf_parked (f : PfState → PfState) (s : State) : (setPf f s).parked = s.parked := rfl
@[simp] theorem setPf_mem (f : PfState → PfState) (s : State) : (setPf f s).mem = s.mem := rfl
@[simp] theorem setPf_fab (f : PfState → PfState) (s : State) : (setPf f s).fab = s.fab := rfl
@[simp] theorem setPf_trans (f : PfState → PfState) (s : State) : (setPf f s).trans = s.trans := rfl
@[simp] theorem setPf_cp (f : PfState → PfState) (s : State) : (setPf f s).cp = s.cp := rfl
@[simp] theorem setPf_engines (f : PfState → PfState) (s : State) : (setPf f s).engines = s.engines := rfl
@[simp] theorem setPf_claims (f : PfState → PfState) (s : State) : (setPf f s).claims = s.claims := rfl
@[simp] theorem setPf_api (f : PfState → PfState) (s : State) : (setPf f s).api = s.api := rfl
@[simp] theorem setPf_sch (f : PfState → PfState) (s : State) : (setPf f s).sch = s.sch := rfl
@[simp] theorem setPf_pow (f : PfState → PfState) (s : State) : (setPf f s).pow = s.pow := rfl
@[simp] theorem setPf_pf (f : PfState → PfState) (s : State) : (setPf f s).pf = f s.pf := rfl
@[simp] theorem setPf_gcycle (f : PfState → PfState) (s : State) : (setPf f s).gcycle = s.gcycle := rfl
@[simp] theorem setPf_insn (f : PfState → PfState) (s : State) : (setPf f s).insn = s.insn := rfl
@[simp] theorem setPf_latch (f : PfState → PfState) (s : State) : (setPf f s).latch = s.latch := rfl
@[simp] theorem setPf_hostLatch (f : PfState → PfState) (s : State) : (setPf f s).hostLatch = s.hostLatch := rfl
@[simp] theorem setPf_schedule (f : PfState → PfState) (s : State) : (setPf f s).schedule = s.schedule := rfl
@[simp] theorem setPf_turnNo (f : PfState → PfState) (s : State) : (setPf f s).turnNo = s.turnNo := rfl
@[simp] theorem setPf_freeNo (f : PfState → PfState) (s : State) : (setPf f s).freeNo = s.freeNo := rfl

/-! ### setApi -/

@[simp] theorem setApi_cur (f : Apiary → Apiary) (s : State) : (setApi f s).cur = s.cur := rfl
@[simp] theorem setApi_live (f : Apiary → Apiary) (s : State) : (setApi f s).live = s.live := rfl
@[simp] theorem setApi_ctx (f : Apiary → Apiary) (s : State) : (setApi f s).ctx = s.ctx := rfl
@[simp] theorem setApi_parked (f : Apiary → Apiary) (s : State) : (setApi f s).parked = s.parked := rfl
@[simp] theorem setApi_mem (f : Apiary → Apiary) (s : State) : (setApi f s).mem = s.mem := rfl
@[simp] theorem setApi_fab (f : Apiary → Apiary) (s : State) : (setApi f s).fab = s.fab := rfl
@[simp] theorem setApi_trans (f : Apiary → Apiary) (s : State) : (setApi f s).trans = s.trans := rfl
@[simp] theorem setApi_cp (f : Apiary → Apiary) (s : State) : (setApi f s).cp = s.cp := rfl
@[simp] theorem setApi_engines (f : Apiary → Apiary) (s : State) : (setApi f s).engines = s.engines := rfl
@[simp] theorem setApi_claims (f : Apiary → Apiary) (s : State) : (setApi f s).claims = s.claims := rfl
@[simp] theorem setApi_api (f : Apiary → Apiary) (s : State) : (setApi f s).api = f s.api := rfl
@[simp] theorem setApi_sch (f : Apiary → Apiary) (s : State) : (setApi f s).sch = s.sch := rfl
@[simp] theorem setApi_pow (f : Apiary → Apiary) (s : State) : (setApi f s).pow = s.pow := rfl
@[simp] theorem setApi_pf (f : Apiary → Apiary) (s : State) : (setApi f s).pf = s.pf := rfl
@[simp] theorem setApi_gcycle (f : Apiary → Apiary) (s : State) : (setApi f s).gcycle = s.gcycle := rfl
@[simp] theorem setApi_insn (f : Apiary → Apiary) (s : State) : (setApi f s).insn = s.insn := rfl
@[simp] theorem setApi_latch (f : Apiary → Apiary) (s : State) : (setApi f s).latch = s.latch := rfl
@[simp] theorem setApi_hostLatch (f : Apiary → Apiary) (s : State) : (setApi f s).hostLatch = s.hostLatch := rfl
@[simp] theorem setApi_schedule (f : Apiary → Apiary) (s : State) : (setApi f s).schedule = s.schedule := rfl
@[simp] theorem setApi_turnNo (f : Apiary → Apiary) (s : State) : (setApi f s).turnNo = s.turnNo := rfl
@[simp] theorem setApi_freeNo (f : Apiary → Apiary) (s : State) : (setApi f s).freeNo = s.freeNo := rfl

/-! ### Clusters and supplies -/

theorem find_replaced {α : Type} (l : List α) (f : α → Nat) (c : α) (k : Nat) :
    ((l.filter fun x => f x != f c) ++ [c]).find? (fun x => f x == k) =
      if f c = k then some c else l.find? fun x => f x == k := by
  induction l with
  | nil => by_cases h : f c = k <;> simp [h]
  | cons a l ih =>
    by_cases ha : f a = f c
    · simp only [ha, List.filter_cons, bne_self_eq_false, Bool.false_eq_true, if_false, ih]
      by_cases h : f c = k
      · simp [h]
      · simp [ha, h]
    · by_cases h : f a = k
      · have hc : f c ≠ k := fun e => ha (h.trans e.symm)
        simp [h, hc, Ne.symm hc]
      · simp [ha, h, ih]

/-- The cluster that was set stands as it was set; every other one as before. -/
theorem clusterAt_setCluster (c : Cluster) (k : Nat) (s : State) :
    clusterAt k (setCluster c s) = if c.id = k then c else clusterAt k s := by
  simp only [clusterAt, setCluster, setPow_pow, find_replaced s.pow.clusters Cluster.id c k]
  split <;> rfl

/-- The same for a die's supply. -/
theorem supplyAt_setSupply (x : Supply) (d : Nat) (s : State) :
    supplyAt d (setSupply x s) = if x.die = d then x else supplyAt d s := by
  simp only [supplyAt, setSupply, setPow_pow, find_replaced s.pow.supplies Supply.die x d]
  split <;> rfl

end Sys2Proof.Machine
end

