-- ==== Sys2Proof/Tests/Slice0.lean ====
section
/-!
SUPPORT. Tests: terms the well-formedness checks refuse, words of the spec's examples, and for every statement with hypotheses states
and operands that meet them.
-/

namespace Sys2Proof.Tests

open Sys2Proof.Machine
open Sys2Proof.Stmt

set_option Elab.async false

/-! ### WellFormed: a term that each check refuses -/

theorem test_wf_destination_not_writable : (Instr.add (.l 0) (.m 1) (.m 2)).wf = false := by decide
theorem test_wf_source_not_readable : (Instr.add (.m 0) .qsa (.m 2)).wf = false := by decide
theorem test_wf_two_queue_sources : (Instr.add (.m 0) .qrn .qcs).wf = false := by decide
theorem test_wf_three_sources : (Instr.fmadd (.m 0) .qrn (.m 1) .qcs).wf = false := by decide
theorem test_wf_base_is_queue : (Instr.ldD 0 (.m 0) .qcs 0).wf = false := by decide
theorem test_wf_index_is_queue : (Instr.ldxD 0 (.m 0) (.m 1) .qcs).wf = false := by decide
theorem test_wf_release_at_pkg_needs_g : (Instr.stD (.m 0) (.m 1) 0 false (some .pkg)).wf = false := by decide
theorem test_wf_amo_sources : (Instr.amocas true .cell .qsa (.m 1) (.m 2)).wf = false := by decide
theorem test_wf_empty_fence : (Instr.fence .pkg false false false false).wf = false := by decide
theorem test_wf_mask_zero_written : (Instr.vmand 0 1 2).wf = false := by decide
theorem test_wf_short_zero_parcel : (Instr.vaddWShort 0 0).wf = false := by decide
theorem test_wf_dist_size : (Instr.dist (.m 0) (.m 1) 4097).wf = false := by decide
theorem test_wf_stream_address : (Instr.mstream .qcs (.m 1)).wf = false := by decide
theorem test_wf_vector_offset : (Instr.vld 0 1 .qcs 0).wf = false := by decide
theorem test_wf_admits : (Instr.add .qmi .qrn (.o 3)).wf = true ∧ (Instr.stD (.m 0) (.m 1) 0 true (some .pkg)).wf = true := by decide

/-! ### Decoding: words of the spec's own examples -/

theorem test_decode_alu :
    [0x0038C283, 0x1C616503, 0x5000C283].map (decodeTableWord 32) =
    [some (.add (.m 5) (.m 6) (.m 7)),
      some (.sltu (.m 10) (.m 11) (.m 12)),
      some (.clz (.m 5) (.m 6))] := by decide +kernel

theorem test_decode_immediates :
    [0xFFC08205, 0x0000BB05, 0x04190393, 0x0000A315, 0x00002197].map (decodeTableWord 32) =
    [some (.addi (.m 4) (.m 4) (-8)),
      some (.addi .qsa (.m 5) 0),
      some (.srai (.m 7) (.m 8) 3),
      some (.lui (.m 6) 5),
      some (.auipc (.m 3) 1)] := by decide +kernel

theorem test_decode_coord :
    [0x02594499, 0x24012219].map (decodeTableWord 32) =
    [some (.crdmk (.m 9) (.m 10) (.m 11)),
      some (.crdget (.m 4) (.m 9) .x)] := by decide +kernel

theorem test_decode_divrem :
    [0x3040E31B, 0x0E00C29B].map (decodeTableWord 32) =
    [some (.div 3 (.m 6) (.m 7) (.m 8)),
      some (.fsqrt 0 (.m 5) (.m 6))] := by decide +kernel

theorem test_decode_branches :
    [0x000A021F, 0x00003623].map (decodeTableWord 32) =
    [some (.beqz (.m 4) 10),
      some (.jalr .z (.m 1) 0)] := by decide +kernel

theorem test_decode_loads :
    [0x005302A5, 0x20E304A5, 0x01490225, 0x0C512327, 0x00E062A9].map (decodeTableWord 32) =
    [some (.ldH 0 (.m 5) (.m 24) 1),
      some (.ldW 2 (.m 9) (.m 24) 3),
      some (.ldBu 0 (.m 4) (.m 8) 5),
      some (.ldxD 0 (.m 6) (.m 9) (.m 10)),
      some (.ldaqW 0 .pkg (.m 5) (.m 3))] := by decide +kernel

theorem test_decode_stores :
    [0x40A063AB, 0x703144AB, 0x11C0A22B, 0x00D083AD].map (decodeTableWord 32) =
    [some (.stW (.m 7) (.m 3) 2 false (some .die)),
      some (.stD (.m 9) (.m 10) 0 true (some .pkg)),
      some (.stB (.m 4) (.m 5) 7 true none),
      some (.logstH (.m 7) (.m 4) 3 false none)] := by decide +kernel

theorem test_decode_amo :
    [0xC049162F, 0x3249032F].map (decodeTableWord 32) =
    [some (.amoadd true .pkg .z (.m 8) (.m 9)),
      some (.amocas false .die (.m 6) (.m 8) (.m 9))] := by decide +kernel

theorem test_decode_fence :
    [0x00480031, 0x01580031, 0x04100031, 0x0BE00031].map (decodeTableWord 32) =
    [some (.fence .cell false false false true),
      some (.fence .pkg false true false true),
      some (.fenceE .die),
      some .tdclr] := by decide +kernel

theorem test_decode_capabilities :
    [0x00490233, 0x10814235].map (decodeTableWord 32) =
    [some (.cbnd 2 4 (.m 9)),
      some (.lcap 1 2 (.m 10) 2)] := by decide +kernel

theorem test_decode_float_lns :
    [0x1800C2B7, 0x0E30A239, 0x0000C2BB].map (decodeTableWord 32) =
    [some (.fcvtWS (.m 5) (.m 6)),
      some (.fmadd (.m 4) (.m 5) (.m 6) (.m 7)),
      some (.lnscvtB (.m 5) (.m 6))] := by decide +kernel

theorem test_decode_lanes :
    [0x264620BD, 0x1C0C523D, 0x4010713D, 0x6400903D].map (decodeTableWord 32) =
    [some (.vfma 1 2 3 1),
      some (.vdot4 4 5 6 0),
      some (.vfclt 2 7 8 0),
      some (.vredsumS 9 0)] := by decide +kernel

theorem test_decode_vector_memory :
    [0x0024613F, 0x291C41BF, 0x300080BF, 0x381802BF].map (decodeTableWord 32) =
    [some (.vld 2 3 (.m 9) 0),
      some (.vstg 3 2 7 1),
      some (.vbcast 1 (.m 8) 0),
      some (.vmovs 5 (.m 6))] := by decide +kernel

theorem test_decode_vector_control :
    [0x0000A041, 0x0600E041, 0x081840C1, 0x0E006241].map (decodeTableWord 32) =
    [some (.gang (.m 5)),
      some (.vsetw (.m 7)),
      some (.vmand 1 2 3),
      some (.vmpopc (.m 4) 3)] := by decide +kernel

theorem test_decode_matrix :
    [0x000002C3, 0x40512043, 0x40558043, 0x9030A043].map (decodeTableWord 32) =
    [some (.mclaim (.m 5)),
      some (.mstream (.m 9) (.m 10)),
      some (.mstream .z (.m 10)),
      some (.mscale (.m 5) (.m 6))] := by decide +kernel

theorem test_decode_cpq :
    [0x00030045, 0x020302C5].map (decodeTableWord 32) =
    [some (.cpq 6),
      some (.cpqt (.m 5) 6)] := by decide +kernel

theorem test_decode_ring :
    [0x020122C7].map (decodeTableWord 32) =
    [some (.rawait (.m 5) (.m 9))] := by decide +kernel

theorem test_decode_barrier :
    [0x063143C9].map (decodeTableWord 32) =
    [some (.bwait (.m 7) (.m 10) (.m 6))] := by decide +kernel

theorem test_decode_group :
    [0x0401234B].map (decodeTableWord 32) =
    [some (.garv (.m 6) (.m 9))] := by decide +kernel

theorem test_decode_event :
    [0x0030A04D].map (decodeTableWord 32) =
    [some (.evsig (.m 5) (.m 6))] := by decide +kernel

theorem test_decode_task :
    [0x000102CF, 0x0600004F].map (decodeTableWord 32) =
    [some (.spawn (.m 5) (.m 8)),
      some .exit] := by decide +kernel

theorem test_decode_system :
    [0x028002D3, 0x4108E353, 0xC0DB1653].map (decodeTableWord 32) =
    [some (.srd (.m 5) .cadence),
      some (.swr (.m 6) .mlimit (.m 7)),
      some (.sclr .z .lflags (.m 24))] := by decide +kernel

theorem test_decode_dist :
    [0x00130351].map (decodeTableWord 32) =
    [some (.dist (.m 6) (.m 24) 2)] := by decide +kernel

theorem test_decode_trap :
    [0x00280055, 0x50000055].map (decodeTableWord 32) =
    [some (.trap 5),
      some .wfi] := by decide +kernel

theorem test_decode_memop :
    [0x0600C057].map (decodeTableWord 32) =
    [some (.relack (.m 6))] := by decide +kernel

theorem test_decode_vfcall :
    [0x000122D9].map (decodeTableWord 32) =
    [some (.vfcall (.m 5) (.m 9))] := by decide +kernel

/-- Short forms: VADD.W v5, v6 in 16 bits; a zero parcel and an unassigned major are refused. -/
theorem test_decode_short_and_refused :
    (encode (.vaddWShort 5 6)).bind (fun e => decodeTableWord e.len e.bits) = some (.vaddWShort 5 6) ∧
    decodeTableWord 16 0 = none ∧ decodeTableWord 32 0x7F = none ∧
    decodeTableWord 32 0x0038C283 ≠ decodeTableWord 32 0x0238C283 := by decide +kernel

/-! ### Small states -/

/-- A result that is not a stop. -/
def isOk {α : Type} : Res α → Bool
  | .ok _ => true
  | .error _ => false

/-- A result that is this value. -/
def okIs {α : Type} [DecidableEq α] (r : Res α) (v : α) : Bool :=
  match r with
  | .ok x => decide (x = v)
  | .error _ => false

/-- A demand that makes its instruction wait. -/
def waits {α : Type} : Res α → Bool
  | .error (.wait _) => true
  | _ => false

/-- The state after a step that goes on. -/
def after (o : Host.Outcome State Fault Refusal) : State :=
  match o with
  | .next t => t
  | _ => State.reset

def goes (o : Host.Outcome State Fault Refusal) : Bool :=
  match o with
  | .next _ => true
  | _ => false

/-- The key of the acting continuation in the small states: a record of VF 0. -/
def key0 : Key := ⟨0, 0x20000⟩

/-- VF 0 on the whole chip in compatibility mode, one range of memory that it may read, write and execute. -/
def vf0 : Vf := { Vf.fresh 0 0 1 true with
  ranges := [⟨0, 0xFFF, 0, true, true, true⟩]
  s2 := (Vector.replicate 48 0).set 0 (BitVec.ofNat 128 (1 + 0xFFF * 2 ^ 48 + 7 * 2 ^ 112)) }

/-- Node 0 runs the slice of VF 0. -/
def node0 : Node := ⟨0, List.replicate 16 (0, 1, true), 0, .slice 0 12500, false⟩

/-- A part that serves; core 0 runs a continuation of VF 0 with m1 = 4, m2 = 5, and so on. -/
def run0 : State := { State.reset with
  live := true
  ctx := { Ctx.blank with
    g := { Ctx.blank.g with m := Vector.ofFn fun i => w64 (i.val + 3) }
    pc := 0x1000
    info := { Ctx.blank.info with key := some key0 } }
  trans := { State.reset.trans with vfs := [vf0], acct := [{ VfAcct.fresh 0 0 with budget := 100, alloc := 100, granted := 100, period := 1000 }] }
  sch := { State.reset.sch with nodes := [node0] }
  pf := { State.reset.pf with phase := 4 } }

/-- With one register set. -/
def setR (i : Fin 32) (v : W64) (s : State) : State := { s with ctx := { s.ctx with g := s.ctx.g.setM i v } }

/-- At supervisor privilege. -/
def asSup (s : State) : State := { s with ctx := { s.ctx with st := { s.ctx.st with mode := true } } }

/-! ### Scalar statements: their hypotheses are met -/

theorem test_met_alu_two : okIs (readReg (.m 4) run0) 7 ∧ okIs (readReg (.m 5) run0) 8 ∧ isOk (writeReg (.m 6) 15 run0) ∧
    (after (exec (.add (.m 6) (.m 4) (.m 5)) run0)).ctx.g.m[6] = 15 ∧
    (after (exec (.sub .z (.m 4) (.m 5)) run0)).ctx.g.cur.l[0] = -1 := by decide +kernel

theorem test_met_alu_one_and_immediate : okIs (readReg (.m 4) run0) 7 ∧ isOk (writeReg (.o 2) 1 run0) ∧
    (after (exec (.clz (.o 2) (.m 4)) run0)).ctx.g.cur.o[2] = 61 ∧
    (after (exec (.addi (.m 4) (.m 4) (-8)) run0)).ctx.g.m[4] = -1 ∧
    (after (exec (.srai (.m 7) (.m 4) 1) run0)).ctx.g.m[7] = 3 ∧
    (after (exec (.sraiw (.m 7) (.m 4) 2) run0)).ctx.g.m[7] = 1 := by decide +kernel

theorem test_met_results_without_sources : isOk (writeReg (.m 6) 0xA000 run0) ∧
    (after (exec (.lui (.m 6) 5) run0)).ctx.g.m[6] = 0xA000 ∧ (after (exec (.auipc (.m 3) 1) run0)).ctx.g.m[3] = 0x3000 ∧
    (after (exec (.cgetb (.m 6) 2) run0)).ctx.g.m[6] = 7 := by decide +kernel

theorem test_met_coordinates : okIs (readReg (.m 4) run0) 7 ∧ okIs (readReg (.m 5) run0) 8 ∧
    isOk (writeReg (.m 9) (w64 (2 ^ 63 + 7 * 2 ^ 24 + 8)) run0) ∧
    (after (exec (.crdmk (.m 9) (.m 4) (.m 5)) run0)).ctx.g.m[9] = w64 (2 ^ 63 + 7 * 2 ^ 24 + 8) ∧
    (after (exec (.crdget (.m 9) (.m 4) .offset) run0)).ctx.g.m[9] = 7 ∧
    (after (exec (.crdset (.m 9) (.m 4) (.m 5) .rank) run0)).ctx.g.m[9] = w64 (2 ^ 63 + 2 ^ 62 + 7) := by decide +kernel

theorem test_met_float : okIs (readReg (.m 4) (setR 4 0x3F800000 run0)) 0x3F800000 ∧ isOk (writeReg (.m 9) 0x40000000 run0) ∧
    (after (exec (.fadd (.m 9) (.m 4) (.m 4)) (setR 4 0x3F800000 run0))).ctx.g.m[9] = 0x40000000 ∧
    (after (exec (.fmadd (.m 9) (.m 4) (.m 4) (.m 4)) (setR 4 0x3F800000 run0))).ctx.g.m[9] = 0x40000000 ∧
    (after (exec (.fcvtWS (.m 9) (.m 4)) (setR 4 0x3F800000 run0))).ctx.g.m[9] = 1 := by decide +kernel

theorem test_met_nans : (0x7F800000 < (0x7FC00001 : W32).toNat % 2 ^ 31) ∧ ¬ (0x7F800000 < (0x7F800000 : W32).toNat % 2 ^ 31) ∧
    run0.ctx.la = [] ∧ (run0.ctx.g.m[4]).setWidth 32 = (7 : W32) ∧
    (after (exec (.fmin (.m 9) (.m 4) (.m 5)) (setR 4 0x7FC00001 run0))).ctx.g.m[9] = 8 := by decide +kernel

theorem test_met_fclass : okIs (readReg (.m 4) (setR 4 0x80000001 run0)) 0x80000001 ∧ isOk (writeReg (.m 9) 4 run0) ∧
    (after (exec (.fclass (.m 9) (.m 4)) (setR 4 0x80000001 run0))).ctx.g.m[9] = 4 ∧
    (after (exec (.fclass (.m 9) (.m 4)) (setR 4 0xFF800000 run0))).ctx.g.m[9] = 1 ∧
    (after (exec (.fclass (.m 9) (.m 4)) (setR 4 0x7F800001 run0))).ctx.g.m[9] = 256 := by decide +kernel

theorem test_met_lns : okIs (readReg (.m 4) run0) 7 ∧ okIs (readReg (.m 5) run0) 8 ∧ isOk (writeReg (.m 9) 0 run0) ∧
    goes (exec (.lnscvtB (.m 9) (.m 4)) run0) ∧
    goes (exec (.lmulB (.m 9) (.m 4) (.m 5)) run0) := by decide +kernel

theorem test_met_divisions : okIs (readReg (.m 4) run0) 7 ∧ isOk (writeReg .qmi 1 run0) = false ∧
    (after (exec (.div 0 (.m 9) (.m 5) (.m 4)) run0)).ctx.g.m[9] = 1 ∧
    (after (exec (.div 0 (.m 9) (.m 5) .z) run0)).ctx.g.m[9] = -1 ∧
    (after (exec (.div 3 (.m 9) (.m 5) (.m 4)) run0)).ctx.la.length = 1 ∧
    (after (exec (.remw 0 (.m 9) (.m 5) (.m 4)) run0)).ctx.g.m[9] = 1 := by decide +kernel

/-- A window of one result, one instruction or two before its end. -/
def withWindow (n : Nat) : State := { run0 with ctx := { run0.ctx with la := [⟨0x1000, [(.m 9, 77)], none, 1, 0, n, false, none⟩] } }

theorem test_met_windows : (withWindow 2).ctx.la.length = 1 ∧ (retire 4 (withWindow 2)).ctx.la.length = 1 ∧
    (retire 4 (withWindow 1)).ctx.la = [] ∧ (retire 4 (withWindow 1)).ctx.g.m[9] = 77 ∧
    (retire 4 (withWindow 1)).ctx.sys.fstat = 1 := by decide +kernel

theorem test_met_branches : okIs (readReg (.m 4) run0) 7 ∧ okIs (readReg (.m 5) run0) 8 ∧
    (after (exec (.blt (.m 4) (.m 5) (-8)) run0)).ctx.pc = 0xFF0 ∧ (after (exec (.beq (.m 4) (.m 5) 8) run0)).ctx.pc = 0x1004 ∧
    (after (exec (.bnez (.m 4) 10) run0)).ctx.pc = 0x1014 ∧ (after (exec (.bltz (.m 4) 10) run0)).ctx.pc = 0x1004 := by decide +kernel

theorem test_met_jumps : okIs (readReg (.m 4) run0) 7 ∧ isOk (writeReg (.m 1) (link run0) run0) ∧
    (after (exec (.jal (.m 1) (-4)) run0)).ctx.pc = 0xFF8 ∧ (after (exec (.jal (.m 1) (-4)) run0)).ctx.g.m[1] = 0x1004 ∧
    (after (exec (.jalr (.m 4) (.m 4) 2) run0)).ctx.pc = 8 ∧ (after (exec (.jalr (.m 4) (.m 4) 2) run0)).ctx.g.m[4] = 0x1004 := by decide +kernel

/-! ### Memory statements: their hypotheses are met -/

/-- m8 points at byte 0x100 of the own scratchpad, which holds 1, 2, 3, ... from there; no METER limit. -/
def pad0 : State :=
  let s := setR 8 (w64 (2 ^ 63 + 0x100)) run0
  { s with
    ctx := { s.ctx with sys := { s.ctx.sys with mlimit := BitVec.allOnes 64 } }
    mem := s.mem.writeAll (scratchAddr 0 0x100) ((List.range 16).map fun i => BitVec.ofNat 8 (0x80 + i)) }

/-- The address of a load or store of `n` bytes at units `off` from m8. -/
def ea8 (off n : Nat) : W64 := w64 (2 ^ 63 + 0x100 + off * n)

/-- The demands of a store on its way into the queue, one after another. -/
def storeChain (rs : Reg) (ea : W64) (n : Nat) (rel : Option Scope) (s : State) : Res Bool := do
  let x ← readReg rs s
  let (_, s0) ← releaseAt rel s
  let (t, s1) ← issueAccess ea n .write .scalar true (fun _ => .ok ()) s0
  accessWaits (t.place.span n) s
  let _ ← storeData t.place n x 0 s
  .ok (decide ((ownStores s1).length < 16) && !t.lost)

/-- A fence that waits for a queued store holds the later accesses that its sets name. -/
theorem test_met_fence_gates : okIs (fenceGate true false pad0) pad0 ∧ okIs (fenceGate false true (fixReads pad0)) pad0 ∧
    (let s := after (exec (.fence .cell false false true true) (after (exec (.stW (.m 4) (.m 8) 1 false none) pad0)))
     s.ctx.fences.all (fun f => f.holdR && f.holdW && !f.done s) = true ∧ s.ctx.fences.length = 1 ∧ waits (fenceGate true false s) = true) := by
  decide +kernel

theorem test_met_loads : okIs (readReg (.m 8) pad0) (ea8 0 1) ∧ okIs (formEa (ea8 0 1) 8) (ea8 2 4) ∧
    okIs ((readScalar (ea8 2 4) 4 pad0).map fun r => r.1) 0x8B8A8988 ∧ isOk (readReg (.m 4) pad0) ∧
    okIs (formEa (ea8 0 1) (signedLow 64 (2 * 4))) (ea8 2 4) ∧
    (after (exec (.ldW 0 (.m 9) (.m 8) 2) pad0)).ctx.g.m[9] = 0xFFFFFFFF8B8A8988 ∧
    (after (exec (.ldxWu 0 (.m 9) (.m 8) (.m 10)) (setR 10 2 pad0))).ctx.g.m[9] = 0x8B8A8988 ∧
    (after (exec (.ldaqB 0 .pkg (.m 9) (.m 8)) pad0)).ctx.g.m[9] = 0xFFFFFFFFFFFFFF80 ∧
    (after (exec (.ldW 2 (.m 9) (.m 8) 2) pad0)).ctx.la.length = 1 := by decide +kernel

theorem test_met_scratchpad_bytes : CalmMemory pad0 ∧ pad0.ctx.la = [] ∧ pad0.ctx.sys.mlimit = BitVec.allOnes 64 ∧
    RawPointer (ea8 2 4) 0 0x108 pad0 ∧ 0x108 % 4 = 0 ∧ plainSrc (.m 8) = true := by
  unfold CalmMemory RawPointer
  decide +kernel

theorem test_met_no_counters_away : NoCountersAway pad0 := by
  unfold NoCountersAway
  decide +kernel

theorem test_met_stores : okIs (storeChain (.m 4) (ea8 1 4) 4 none pad0) true ∧
    okIs (storeChain (.m 4) (ea8 1 4) 4 (some .die) pad0) true ∧
    (after (exec (.stW (.m 4) (.m 8) 1 false none) pad0)).mem.stores.length = 1 ∧
    (after (exec (.stW (.m 4) (.m 8) 1 true (some .pkg)) pad0)).ctx.acks.length = 1 ∧
    goes (exec (.logstB (.m 4) (.m 8) 1 false none) pad0) ∧
    (after (exec (.stW (.m 4) (.m 8) 1 false none) pad0)).mem.byte (scratchAddr 0 0x104) = 0x84 := by decide +kernel

/-- m8 names a byte of the next cell, and METER has 3 units left; bytes 0x108 to 0x10F of the own scratchpad are poisoned. -/
def far0 : State :=
  let s := setR 8 (w64 (2 ^ 63 + 2 ^ 26 + 0x100)) pad0
  { s with ctx := { s.ctx with sys := { s.ctx.sys with mlimit := 3 } } }

def poisoned0 : State := { pad0 with mem := { pad0.mem with poison := [scratchAddr 0 0x108] } }

/-- The trap taken, its TVAL, and METER. -/
def trapped (s : State) : W64 × W64 × W64 := (s.ctx.tr.scause, s.ctx.tr.stval, s.ctx.sys.meter)

theorem test_met_charges : isOk (resolve (w64 (2 ^ 63 + 2 ^ 26 + 0x108)) 4 .read .scalar true far0) ∧ far0.ctx.sys.meter = 0 ∧
    isOk ((resolve (w64 (2 ^ 63 + 2 ^ 26 + 0x108)) 4 .read .scalar true far0).bind fun t => withDesc t.1 (w64 (2 ^ 63 + 2 ^ 26 + 0x108)) far0) ∧
    accessCharge far0 (.core 4) 4 = 192 ∧ trapped (after (exec (.ldW 0 (.m 9) (.m 8) 2) far0)) = (0x1000007, 192, 0) ∧
    trapped (after (exec (.stB (.m 4) (.m 8) 2 false none) far0)) = (0x1000007, 48, 0) ∧ trapped (after (exec (.lcap 0 2 (.m 8) 0) far0)) = (0x1000007, 768, 0) ∧
    trapped (after (exec (.amoadd true .cell (.m 9) (.m 8) (.m 4)) far0)) = (0x1000007, 384, 0) ∧
    trapped (after (exec (.scap 2 (.m 8) 0) far0)) = (0x1000007, 768, 0) ∧ trapped (after (exec (.ldaqB 0 .die (.m 9) (.m 8)) far0)) = (0x1000007, 48, 0) ∧
    (let s := { far0 with ctx := { far0.ctx with sys := { far0.ctx.sys with mlimit := 192 } } }
     (after (exec (.ldW 0 (.m 9) (.m 8) 2) s)).ctx.sys.meter = 192 ∧ (after (exec (.ldW 0 (.m 9) (.m 8) 2) s)).ctx.pc = 0x1004) := by
  decide +kernel

theorem test_met_poison : ownForward ⟨scratchAddr 0 0x108, 4, true, false⟩ poisoned0 = .none ∧
    poisoned0.mem.anyPoison (scratchAddr 0 0x10F) 1 = true ∧ poisoned0.mem.anyPoison (scratchAddr 0 0x110) 1 = false ∧
    trapped (after (exec (.ldW 0 (.m 9) (.m 8) 2) poisoned0)) = (0x10D, ea8 2 4, 0) ∧
    trapped (after (exec (.ldaqB 0 .pkg (.m 9) (.m 8)) (setR 8 (ea8 2 4) poisoned0))) = (0x10D, ea8 2 4, 0) ∧
    trapped (after (exec (.lcap 0 2 (.m 8) 0) poisoned0)) = (0x10D, ea8 0 1, 0) ∧
    trapped (after (exec (.amoadd true .cell (.m 9) (.m 8) (.m 4)) (setR 8 (ea8 2 4) poisoned0))) = (0x10D, ea8 2 4, 0) ∧
    (after (exec (.ldW 0 (.m 9) (.m 8) 1) poisoned0)).ctx.g.m[9] = 0xFFFFFFFF87868584 ∧
    (let s := after (exec (.stW (.m 4) (.m 8) 2 false none) poisoned0)
     ownForward ⟨scratchAddr 0 0x108, 4, true, false⟩ s = .bytes [7, 0, 0, 0] ∧ queuedPoison (scratchAddr 0 0x108) 4 s = true ∧
       trapped (after (exec (.ldW 0 (.m 9) (.m 8) 2) s)) = (0x10D, ea8 2 4, 0)) ∧
    (let s := after (exec (.stD (.m 4) (.m 8) 1 false none) poisoned0)
     queuedPoison (scratchAddr 0 0x108) 4 s = false ∧ (after (exec (.ldW 0 (.m 9) (.m 8) 2) s)).ctx.g.m[9] = 7) := by decide +kernel

/-- One store of two bytes queued. -/
def stored0 : State := after (exec (.stH (.m 4) (.m 8) 1 false none) pad0)

theorem test_met_store_ordered : stored0.mem.wf = true ∧ (ownStores stored0)[0]?.any (fun e => e.kind == .plain &&
      !addrLost (forward stored0 e.addr) stored0 && !dieLost stored0 (homeOf (forward stored0 e.addr)).die) ∧
    (after (exec (.storeOrdered 0) stored0)).mem.byte (scratchAddr 0 0x102) = 7 ∧
    (after (exec (.storeOrdered 0) stored0)).mem.stores = [] := by decide +kernel

/-- The demands of an AMO of 8 bytes at m8. -/
def amoChain (scope : Scope) (s : State) : Res Bool := do
  let s0 ← releaseReady (demote scope s).1 s
  let (t, _) ← issueAccess (ea8 0 1) 8 .amo .scalar (decide ((demote scope s0).1.code ≤ 2))
    (fun t => must (decide (t.place.win = 0 ∨ t.place.win = 15)) cCOORD (ea8 0 1)) (demote scope s0).2
  accessWaits (t.place.span 8) s
  .ok (!s.mem.anyPoison t.place.addr 8)

theorem test_met_amos : okIs (amoChain .cell pad0) true ∧ okIs (amoChain .sys pad0) true ∧
    (after (exec (.amoadd true .cell (.m 9) (.m 8) (.m 4)) pad0)).ctx.g.m[9] = 0x8786858483828180 ∧
    (after (exec (.amoadd true .cell (.m 9) (.m 8) (.m 4)) pad0)).mem.byte (scratchAddr 0 0x100) = 0x87 ∧
    (after (exec (.amoswap false .pkg .z (.m 8) (.m 4)) pad0)).ctx.amo.isSome ∧
    (after (exec .amoResult (after (exec (.amoswap false .cell .z (.m 8) (.m 4)) pad0)))).mem.byte (scratchAddr 0 0x100) = 7 ∧
    (after (exec (.amocas true .cell (.m 9) (.m 8) (.m 4)) (setR 9 1 pad0))).mem.byte (scratchAddr 0 0x100) = 0x80 := by
  decide +kernel

/-- The demands of LCAP and SCAP at m8. -/
def capChain (k : AKind) (s : State) : Res Bool := do
  let (t, s1) ← issueAccess (ea8 0 1) 16 k (.big true) true (fun _ => .ok ()) s
  accessWaits ⟨t.place.addr, 16, true, true⟩ s
  .ok (!(ownStores s).any (fun e => (Span.mk t.place.addr 16 true true).meets (e.span s)) && !s.mem.anyPoison t.place.addr 16 &&
    !t.lost && decide ((ownStores s1).length < 16))

theorem test_met_capabilities : okIs (capChain .read pad0) true ∧ okIs (capChain .write pad0) true ∧
    (after (exec (.lcap 0 2 (.m 8) 0) pad0)).ctx.g.m[5] = 0x8F8E8D8C8B8A8988 ∧
    (after (exec (.scap 2 (.m 8) 0) pad0)).mem.stores.length = 1 := by decide +kernel

/-- k2 is a capability of length 1,000,000. -/
def cap0 : State :=
  let s := setR 5 (w64 (250000 * 2 ^ 10 + 2 * 2 ^ 28 + 31 * 2 ^ 34)) run0
  { s with ctx := { s.ctx with g := { s.ctx.g with tags := s.ctx.g.tags.set 2 true } } }

theorem test_met_capability_changes : cap0.ctx.la = [] ∧ cap0.ctx.g.tags[2] = true ∧ cap0.ctx.g.tags[3] = false ∧
    lengthOf (cap0.ctx.g.m[5]) = 1000000 ∧
    (after (exec (.cbnd 1 2 (.m 9)) (setR 9 300001 cap0))).ctx.g.m[3] = w64 (0x19_27C000 + 31 * 2 ^ 34) ∧
    (after (exec (.cbnd 1 2 (.m 9)) (setR 9 1000000 cap0))).ctx.g.tags[1] = true ∧
    (after (exec (.cbnd 1 2 (.m 9)) (setR 9 2000000 cap0))).ctx.tr.stval = 2000000 ∧
    (after (exec (.cperm 1 2 (.m 9)) (setR 9 2 cap0))).ctx.g.m[3] = w64 (250000 * 2 ^ 10 + 2 * 2 ^ 28 + 2 * 2 ^ 34) ∧
    (after (exec (.cmov 1 2) cap0)).ctx.g.tags[1] = true ∧ (after (exec (.cclr 2) cap0)).ctx.g.m[5] = 0 := by decide +kernel

theorem test_met_fences : pad0.ctx.amo = none ∧ pad0.ctx.tr.pendAck = none ∧ pad0.ctx.acks = [] ∧
    writesDone (demote .pkg pad0).1 pad0 = true ∧ writesDone (demote .sys pad0).1 pad0 = true ∧ enginesDone pad0 = true ∧
    goes (exec (.fence .pkg true true true true) pad0) ∧ (after (exec .tdclr stored0)).ctx.pc = stored0.ctx.pc ∧
    (after (exec .tdclr pad0)).ctx.pc = 0x1004 := by decide +kernel

/-- An acknowledgement is owed; a copy of the thread's has written a byte that not every die sees yet. -/
def acked0 : State := { pad0 with ctx := { pad0.ctx with acks := [⟨0x100, 5, 1, false, false, 9⟩] } }

def copied0 : State :=
  { pad0 with mem := { pad0.mem with
      msgs := [⟨3, 0, 0, [⟨0x100, 1, []⟩], [], none, [], some key0, 0x100, true⟩]
      nextMsg := 5 } }

theorem test_met_fences_wait : (after (exec (.fence .pkg false false false true) acked0)).ctx.pc = 0x1000 ∧
    (after (exec (.fence .pkg true true false false) acked0)).ctx.pc = 0x1004 ∧ enginesDone copied0 = true ∧
    (∀ w ∈ copied0.mem.msgs, w.owner = some copied0.ctx.ownerKey ∧ w.performedAt = none ∧ w.id < copied0.mem.nextMsg) ∧
    (after (exec (.fenceE .pkg) copied0)).ctx.fences.length = 1 ∧ (after (exec (.fenceE .die) copied0)).ctx.fences = [] ∧
    (after (exec .tdclr copied0)).ctx.pc = 0x1000 := by decide +kernel

/-! ### Vector statements: their hypotheses are met -/

/-- Lane `i` of v1 is i + 1, of v2 is 10 i; vm1 holds the even lanes. -/
def vec0 : State :=
  let v := run0.ctx.vec
  let v1 : Vector W32 128 := Vector.ofFn fun i => BitVec.ofNat 32 (i.val + 1)
  let v2 : Vector W32 128 := Vector.ofFn fun i => BitVec.ofNat 32 (10 * i.val)
  { run0 with ctx := { run0.ctx with vec := { v with v := (v.v.set 1 v1).set 2 v2, vm := v.vm.set 1 0x5555 } } }

/-- The unit has started the one instruction that a step queues. -/
def start (i : Instr) (s : State) : State :=
  let t := after (exec i s)
  { t with ctx := { t.ctx with vec := { t.ctx.vec with q := startFirst t.ctx.vec.q } } }

/-- ... and completed it. -/
def complete (i : Instr) (s : State) : State := after (exec .vectorComplete (start i s))

theorem test_met_lanes_queue : vec0.ctx.vec.q.length < 16 ∧ okIs (readReg (.m 4) vec0) 7 ∧ qvsOwed vec0.ctx.vec < 16 ∧
    (after (exec (.vaddW 3 1 2 1) vec0)).ctx.vec.q.length = 1 ∧ (after (exec (.vaddWBcast 3 2) vec0)).ctx.pc = 0x1002 ∧
    (after (exec (.vbcast 3 (.m 4) 0) vec0)).ctx.vec.q.map (·.x) = [7] ∧
    ((start (.vredsumW 1 0) vec0).ctx.vec.q.map (·.started)) = [true] := by decide +kernel

theorem test_met_vrand : vec0.ctx.vec.q.length < 16 ∧ vec0.ctx.vec.q.all (fun t => !t.writesMask 1) = true ∧
    (after (exec (.vrand 3 1) vec0)).ctx.vec.q.map (fun t => t.rnd.length) = [4] ∧
    (let s := { vec0 with ctx := { vec0.ctx with vec := { vec0.ctx.vec with width := 3 } } }
     let g := s.ctx.rng
     (after (exec (.vrand 3 0) s)).ctx.vec.q.map (·.rnd) = [[(rngPop g).1, (rngPop (rngPop g).2).1]] ∧
       (after (exec (.vrand 3 0) s)).ctx.rng = rngAfter 2 g) := by decide +kernel

theorem test_met_lane_results :
    (start (.vaddW 3 1 2 1) vec0).ctx.vec.q.all (fun t => t.started && t.op == .bin .addW 3 1 (.reg 2) 1) = true ∧
    ((complete (.vaddW 3 1 2 1) vec0).ctx.vec.v[3])[2] = 23 ∧ ((complete (.vaddW 3 1 2 1) vec0).ctx.vec.v[3])[3] = 0 ∧
    ((complete (.vsubWBcast 1 2) vec0).ctx.vec.v[1])[15] = 16 ∧ ((complete (.vsubWBcast 1 2) vec0).ctx.vec.v[1])[16] = 17 := by
  decide +kernel

theorem test_met_other_lane_results : ((complete (.vfneg 3 1 0) vec0).ctx.vec.v[3])[0] = 0x80000001 ∧
    (complete (.vcltW 2 2 1 0) vec0).ctx.vec.vm[2] = 1 ∧ ((complete (.vsel 3 1 2 1) vec0).ctx.vec.v[3])[1] = 10 ∧
    ((complete (.vperm 3 1 2 0) vec0).ctx.vec.v[3])[1] = 11 ∧ ((complete (.vins 1 (.m 4) (.m 4)) vec0).ctx.vec.v[1])[7] = 7 ∧
    ((complete (.viota 3 0) vec0).ctx.vec.v[3])[15] = 15 ∧ (complete (.vmand 3 1 0) vec0).ctx.vec.vm[3] = 0x5555 ∧
    (complete (.vmnot 3 1) vec0).ctx.vec.vm[3] = 0xAAAA ∧ (complete (.vmor 3 1 0) vec0).ctx.vec.vm[3] = 0xFFFF ∧
    (complete (.vmnot 0 1) vec0).ctx.vec.vm[0] = vec0.ctx.vec.vm[0] ∧
    (let w := (rngPop vec0.ctx.rng).1
     let v := (complete (.vrand 3 1) vec0).ctx.vec.v[3]
     (v[0], v[1], v[2]) = (w.setWidth 32, (vec0.ctx.vec.v[3])[1], (w >>> 32).setWidth 32)) ∧
    (complete (.vsetw (.m 4)) vec0).ctx.vec.q = [] ∧ ((complete (.vbcast 3 (.m 4) 0) vec0).ctx.vec.v[3])[15] = 7 := by
  decide +kernel

theorem test_met_reductions : vec0.ctx.vec.gang ∈ [1, 2, 4, 8] ∧ (complete (.vredsumW 1 1) vec0).ctx.vec.qvs = [64] ∧
    (complete (.vredmaxW 1 0) vec0).ctx.vec.qvs = [16] ∧ (complete (.vmovs 2 (.m 4)) vec0).ctx.vec.qvs = [70] := by decide +kernel

/-- R93's own example: 16,777,216, 1, 1 and 1 in lanes 0 to 3. -/
def sum0 : State :=
  let v1 : Vector W32 128 := Vector.ofFn fun i => if i.val = 0 then 0x4B800000 else if i.val < 4 then 0x3F800000 else 0
  { vec0 with ctx := { vec0.ctx with vec := { vec0.ctx.vec with v := vec0.ctx.vec.v.set 1 v1 } } }

theorem test_met_float_reductions : 2 ^ 4 = 16 * sum0.ctx.vec.gang ∧ (complete (.vredsumS 1 0) sum0).ctx.vec.qvs = [0x4B800001] ∧
    (complete (.vredmaxS 1 0) sum0).ctx.vec.qvs = [0x4B800000] ∧ (complete (.vredminS 1 0) sum0).ctx.vec.qvs = [0] ∧
    (complete (.vredminS 2 1) { sum0 with ctx := { sum0.ctx with vec := { sum0.ctx.vec with width := 0 } } }).ctx.vec.qvs = [0x7F800000] := by
  decide +kernel

/-- k2 covers 64 bytes of the own scratchpad, readable and writable, from byte 0x100 on. -/
def vmem0 : State :=
  let s := { vec0 with
    mem := pad0.mem
    ctx := { vec0.ctx with sys := { vec0.ctx.sys with mlimit := BitVec.allOnes 64 } } }
  let t := setR 5 (w64 (2 ^ 9 + 48 * 2 ^ 10 + 31 * 2 ^ 34)) (setR 4 (w64 (2 ^ 63 + 0x100)) (setR 9 0 s))
  { t with ctx := { t.ctx with g := { t.ctx.g with tags := t.ctx.g.tags.set 2 true } } }

theorem test_met_vector_memory_issues : okIs (readReg (.m 9) vmem0) 0 ∧
    ((after (exec (.vld 3 2 (.m 9) 0) vmem0)).ctx.vec.q.map fun t => (t.elems.length, t.y)) = [(12, 4)] ∧
    ((after (exec (.vsts 1 2 (.m 9) 1) vmem0)).ctx.vec.q.map fun t => t.elems.length) = [8] ∧
    ((after (exec (.vldg 2 2 0) vmem0)).ctx.vec.q.map fun t => t.elems.length) = [2] ∧
    ((after (exec (.vstg 1 2 2 0) vmem0)).ctx.vec.q.map fun t => t.elems.length) = [2] := by decide +kernel

theorem test_met_vector_memory_moves :
    (start (.vld 3 2 (.m 9) 0) vmem0).ctx.vec.q.all (fun t => t.started && decide ((t.elems.map Prod.fst).Nodup) &&
      t.elems.all fun e => e.2.win == 0 && !isGlobal e.2.addr) = true ∧
    vmem0.mem.poison = [] ∧ vmem0.mem.checks = [] ∧ vmem0.mem.msgs = [] ∧ vmem0.fab.tombs = [] ∧ vmem0.fab.lost = 0 ∧
    vmem0.mem.wf = true ∧ vmem0.fab.lostPages = [] ∧
    ((complete (.vld 3 2 (.m 9) 0) vmem0).ctx.vec.v[3])[1] = 0x87868584 ∧
    ((complete (.vld 3 2 (.m 9) 0) vmem0).ctx.vec.v[3])[12] = vmem0.ctx.sys.fillv ∧
    (complete (.vst 1 2 (.m 9) 1) vmem0).mem.byte (scratchAddr 0 0x108) = 3 := by decide +kernel

theorem test_met_vector_store : (start (.vst 1 2 (.m 9) 1) vmem0).ctx.vec.q.all (fun t => t.started && t.op == .store 1 &&
      t.elems.map Prod.fst == [0, 2, 4, 6, 8, 10] && (t.elems.all fun e => e.2.win == 0 && !isGlobal e.2.addr &&
        (shownStores (dieOf vmem0.cur) e.2.addr 4 (start (.vst 1 2 (.m 9) 1) vmem0)).isEmpty) &&
      decide (t.elems.Pairwise fun d e => d.2.addr + 4 ≤ e.2.addr ∨ e.2.addr + 4 ≤ d.2.addr)) = true ∧
    (complete (.vst 1 2 (.m 9) 0) vmem0).mem.bytes (scratchAddr 0 0x100) 8 = bytesOf 4 1 ++ bytesOf 4 2 := by decide +kernel

/-- k2 covers stored bytes from 0x100 on through a window; WDESC5 names the table at byte 0x400,
whose descriptor 5, that of the 16 elements from window offset 0x400 on, is z = 128, s = 0.5. -/
def vmemW (w : Nat) : State :=
  let s := setR 4 (w64 (2 ^ 63 + w * 2 ^ 20 + (if w = 8 then 0x800 else 0x400))) vmem0
  { s with
    ctx := { s.ctx with
      g := { s.ctx.g with tags := s.ctx.g.tags.set 2 true }
      sys := { s.ctx.sys with wdesc5 := 0x400 } }
    mem := s.mem.writeAll (scratchAddr 0 0x414) [0x00, 0x38, 0x80, 0x00] }

theorem test_met_vector_decodes :
    ([1, 5, 7].all fun w => (start (.vld 3 2 (.m 9) 0) (vmemW w)).ctx.vec.q.all fun t => t.started && decide ((t.elems.map Prod.fst).Nodup) &&
      t.elems.all fun e => e.2.win == w && !isGlobal e.2.addr) = true ∧
    (vmemW 5).mem.poison = [] ∧ (vmemW 5).mem.checks = [] ∧ (vmemW 5).mem.msgs = [] ∧ (vmemW 5).fab.tombs = [] ∧
    ((complete (.vld 3 2 (.m 9) 0) (vmemW 7)).ctx.vec.v[3])[1] = 0xFFFFFF81 ∧
    ((complete (.vld 3 2 (.m 9) 0) (vmemW 1)).ctx.vec.v[3])[0] = 0xBF800000 ∧
    ((complete (.vld 3 2 (.m 9) 0) (vmemW 5)).ctx.vec.v[3])[2] = 0x3F800000 := by decide +kernel

/-- With every lane of v1 of one value. -/
def setV1 (x : W32) (s : State) : State :=
  { s with ctx := { s.ctx with vec := { s.ctx.vec with v := s.ctx.vec.v.set 1 (Vector.replicate 128 x) } } }

theorem test_met_vector_encodes :
    ([5, 7].all fun w => (start (.vst 1 2 (.m 9) 1) (vmemW w)).ctx.vec.q.all fun t => t.started && t.op == .store 1 &&
      (t.elems.all fun e => e.2.win == w && !isGlobal e.2.addr && (vmemW w).mem.stores.isEmpty &&
        decide (e.2.addr + 1 ≤ scratchAddr 0 0x414)) &&
      decide (t.elems.Pairwise fun d e => d.2.addr + 1 ≤ e.2.addr ∨ e.2.addr + 1 ≤ d.2.addr)) = true ∧
    (complete (.vst 1 2 (.m 9) 1) (vmemW 7)).mem.bytes (scratchAddr 0 0x100) 4 = [1, 0x81, 3, 0x83] ∧
    (complete (.vst 1 2 (.m 9) 0) (setV1 0x3F800000 (vmemW 5))).mem.bytes (scratchAddr 0 0x100) 2 = [130, 130] ∧
    (complete (.vst 1 2 (.m 9) 1) (vmemW 8)).mem.bytes (scratchAddr 0 0x100) 2 = [0x81, 0x83] := by decide +kernel
theorem test_met_vector_control : (after (exec (.vsetw (.m 4)) vec0)).ctx.vec.width = 7 ∧
    (after (exec (.vsetw (.m 31)) vec0)).ctx.vec.width = 16 ∧ goes (exec .vfence vec0) ∧
    vec0.ctx.vec.popc = none ∧ (after (exec (.vmpopc (.m 9) 1) vec0)).ctx.vec.q.map (·.op) = [.popc 1] ∧
    ((after (exec (.vsetw (.m 4)) vec0)).ctx.vec.q.map (·.op)) = [.setw] ∧
    (after (exec (.vsetw (.m 4)) { vec0 with ctx := { vec0.ctx with vec := { vec0.ctx.vec with
      q := List.replicate 16 ⟨.setw, 16, 0, 0, [], 0, [], Vector.replicate 16 0, 0, false⟩ } } })).ctx.pc = 0x1000 ∧
    (complete (.vmpopc (.m 9) 1) vec0).ctx.vec.popc = some (some 8) ∧
    (after (exec (.vmpopc (.m 9) 1) (complete (.vmpopc (.m 9) 1) vec0))).ctx.g.m[9] = 8 := by decide +kernel

theorem test_met_gangs : (∀ i, i < 7 → gangBusy (1 + i) (setR 4 8 vec0) = false ∧ runsOn (1 + i) (setR 4 8 vec0) = false) ∧
    (selfCoords vec0).2.2 % 2 = 0 ∧
    (vfFrame vec0 0).holds (selfCoords vec0).1 (selfCoords vec0).2.1 ((selfCoords vec0).2.2 + 1) = true ∧ rankOf vec0.cur = 0 ∧
    (after (exec (.gang (.m 4)) (setR 4 8 vec0))).ctx.vec.width = 128 ∧
    ((after (exec (.gang (.m 4)) (setR 4 2 vec0))).ctx.vec.v[1])[16] = 0 ∧
    (after (exec .ungang (after (exec (.gang (.m 4)) (setR 4 4 vec0))))).ctx.vec.gang = 1 ∧
    vec0.ctx.vec.gang = 1 ∧ (after (exec .ungang vec0)).ctx.vec.q.map (·.op) = [.ungang] ∧
    (complete .ungang vec0).ctx.vec.q = [] ∧
    (after (exec .ungang { vec0 with ctx := { vec0.ctx with vec := { vec0.ctx.vec with
      q := List.replicate 16 ⟨.setw, 16, 0, 0, [], 0, [], Vector.replicate 16 0, 0, false⟩ } } })).ctx.pc = 0x1000 := by decide +kernel

/-- Core 0 has won the grant of its cell, whose lane groups core 1 holds. -/
def won0 : State :=
  let s := after (exec (.vaddW 3 1 2 1) vec0)
  let c := { s.ctx with vec := { s.ctx.vec with gang := 4, q := s.ctx.vec.q.map fun t => { t with started := true } } }
  { s with parked := [(1, c)], fab := { s.fab with winners := [(0, 0)] } }

theorem test_met_waiting_winner : waitingWinner 0 won0 = some 0 ∧ groupsFree 0 won0 = false ∧
    waitingWinner 0 (after (exec (.vaddW 3 1 2 1) vec0)) = none ∧
    (let s := after (exec (.vld 3 2 (.m 9) 0) (after (exec (.stW (.m 10) (.m 4) 1 false none) vmem0)))
     let t := { s with fab := { s.fab with winners := [(0, 0)] } }
     waitingWinner 0 t = some 0 ∧ rankReady 0 t = false) := by decide +kernel

theorem test_met_grant : rankReady 0 (after (exec (.vaddW 3 1 2 1) vec0)) = true ∧
    (∀ c, c < 4 → c ≠ 0 → rankReady c (after (exec (.vaddW 3 1 2 1) vec0)) = false) ∧ groupsHeld 0 vec0 + 1 ≤ 4 ∧
    ((after (exec (.vectorGrant 0) (after (exec (.vaddW 3 1 2 1) vec0)))).ctx.vec.q.map (·.started)) = [true] := by decide +kernel

/-! ### Matrix statements: their hypotheses are met -/

/-- The engine of cell 0, claimed; m8 names window 1 of core 0 from stored byte 0x100 on. -/
noncomputable def mx0 : State := setR 8 (w64 (2 ^ 63 + 2 ^ 20 + 0x400)) (after (exec (.mclaim .z) pad0))

/-- With its engine changed. -/
def onMx (f : MxState → MxState) (s : State) : State := { s with engines := s.engines.map fun e => { e with mx := f e.mx } }

/-- The engine's contents. -/
def mxOf (s : State) : MxState := ((s.engines.map (·.mx)).head?).getD MxState.claimed

theorem test_met_mclaim : cellEngine pad0 = none ∧ plainDst (.m 9) = true ∧ pad0.ctx.la = [] ∧ isOk (writeReg (.m 9) 0 pad0) ∧
    (ownEngine mx0).isSome = true ∧ (after (exec (.mclaim (.m 9)) mx0)).ctx.g.m[9] = 0 ∧
    (after (exec (.mclaim (.m 9)) { mx0 with engines := mx0.engines.map fun e => { e with owner := ⟨1, 0x1000⟩ } })).ctx.g.m[9] = 1 ∧
    mx0.ctx.st.mclaimed = true ∧ (mxOf mx0).plane0.length = 3072 := by decide +kernel

theorem test_met_matrix_without_operands : (ownEngine mx0).isSome = true ∧ (mxOf mx0).queue = [] ∧ (mxOf mx0).rows = [] ∧
    (mxOf mx0).qmo.length ≤ 64 ∧ (after (exec .mfree mx0)).engines.length = 0 ∧ goes (exec .mwait mx0) ∧
    (after (exec (.mstat (.m 9)) mx0)).ctx.g.m[9] = 0 ∧ (mxOf (after (exec .mswap mx0))).queue = [.mswap] ∧
    (mxOf (after (exec (.mmode (.m 9)) (setR 9 1 mx0)))).queue = [.mmode true] ∧
    mx0.ctx.fences = [] ∧ mx0.ctx.acks = [] ∧ mx0.ctx.tr.pendAck = none ∧ mx0.ctx.amo = none ∧
    (mxOf (after (exec (.mzero (.m 9) (.m 10)) (setR 9 60 (setR 10 4 mx0))))).queue = [.mzero 60 4] ∧
    (after (exec (.mzero (.m 9) .z) (setR 9 64 mx0))).ctx.pc = 0x1008 := by decide +kernel

/-- Rows of plane 0 are LNS8; m9 is a stream of two rows into rows 3 and 4, m10 a store of row 3, m11 and m12 the tables of MSCALE. -/
noncomputable def mxOps : State :=
  onMx (fun x => { x with fmt0 := .lns8 }) (setR 9 0x30002 (setR 10 0x103 (setR 11 0x100 (setR 12 0x200 mx0))))

theorem test_met_matrix_operands :
    okIs ((mxOperand (mxOps.ctx.g.m[8]) 64 12288 [(0x100, 3072)] 3072 mxOps).map Prod.fst) 0 ∧
    okIs ((mxOperand (mxOps.ctx.g.m[8]) 64 384 [(0x100, 48), (0x130, 48)] 96 mxOps).map Prod.fst) 0 ∧
    okIs ((mxOperand (mxOps.ctx.g.m[8]) 4 256 [(0x100, 64)] 64 mxOps).map Prod.fst) 0 ∧
    okIs (streamGroups mxOps (mxOf mxOps).pred .lns8 3 2 false) () ∧ isOk (tableBases 0x100 0x200 mxOps) ∧
    mxOps.ctx.amo = none ∧ mxOps.ctx.fences = [] ∧ mxOps.ctx.acks = [] ∧ mxOps.ctx.tr.pendAck = none ∧
    isOk (mstoreDesc (mxOps.ctx.g.m[8]) 256 mxOps) ∧ (∀ g ∈ (mxOf mxOps).pred.grp, g.1 = 0) ∧
    (mxOf (after (exec (.mldw (.m 8)) mxOps))).queue = [.mldw 0 0x100 .lns8 false] ∧
    (mxOf (after (exec (.mstream (.m 8) (.m 9)) mxOps))).queue = [.mstream (some 0) 0x100 1 2 3 false false 0 mxOps.ctx.sys.evsel] ∧
    (mxOf (after (exec (.mstream .z (.m 9)) mxOps))).queue = [.mstream none 0 1 2 3 false false 0 mxOps.ctx.sys.evsel] ∧
    (after (exec (.mstream .z (.m 9)) (setR 9 0x400000 mxOps))).ctx.pc = 0x1008 ∧
    (mxOf (after (exec (.mstore (.m 8) (.m 10)) mxOps))).queue = [.mstore 0 0x400 1 3 1 0 []] ∧
    (after (exec (.mstore (.m 8) (.m 10)) (setR 10 0x40 mxOps))).ctx.pc = 0x1008 ∧
    (mxOf (after (exec (.mscale (.m 11) (.m 12)) mxOps))).queue = [.mscale 0x100 0x200 0] := by decide +kernel

/-- The MLDW at the head; the stream at the head; six words in qmi. -/
noncomputable def mxLoad : State := after (exec (.mldw (.m 8)) mxOps)
noncomputable def mxStream : State := after (exec (.mstream (.m 8) (.m 9)) mxOps)
noncomputable def mxWords : State := after (exec (.mstream .z (.m 9)) (onMx (fun x => { x with qmi := (List.range 6).map w64 }) mxOps))

theorem test_met_plane_load : mxLoad.fab.tombs = [] ∧ mxLoad.fab.lostPages = [] ∧ mxLoad.fab.lost = 0 ∧ mxLoad.mem.poison = [] ∧
    mxLoad.mem.checks = [] ∧ mxLoad.mem.msgs = [] ∧ (∀ r ∈ (mxOf mxLoad).rows, r.plane = (mxOf mxLoad).active) ∧
    ((mxOf (after (exec (.planeLoad 0) mxLoad))).plane1.take 3) = [0x80, 0x81, 0x82] ∧
    (mxOf (after (exec (.planeLoad 0) mxLoad))).fmt1 = .lns8 ∧
    (mxOf (after (exec (.matrixInstructionComplete 0) (after (exec (.planeLoad 0) mxLoad))))).queue = [] := by decide +kernel

theorem test_met_row_injection : (mxOf mxStream).lastInj = none ∧ (mxOf mxWords).qmi.length = 6 ∧
    ((mxOf (after (exec (.rowInjection 0) mxStream))).rows.map fun r => (r.acc, r.fmt, r.bytes.take 2)) =
      [(3, .lns8, [0x80, 0x81])] ∧
    (mxOf (after (exec (.rowInjection 0) mxStream))).queue = [.mstream (some 0) 0x100 1 2 3 false false 1 mxOps.ctx.sys.evsel] ∧
    ((mxOf (after (exec (.rowInjection 0) mxWords))).rows.map fun r => r.bytes.drop 40) = [[5, 0, 0, 0, 0, 0, 0, 0]] ∧
    (mxOf (after (exec (.rowInjection 0) mxWords))).qmi = [] := by decide +kernel

/-- A row of ones in flight over a plane of ones, long enough ago. -/
noncomputable def mxFlight (deliver : Bool) : State :=
  let one := List.replicate 48 (0x40 : Byte)
  { onMx (fun x => { x with
      plane0 := List.replicate 3072 0x40
      fmt0 := .lns8
      rows := [⟨3, false, .lns8, one, List.replicate 48 false, deliver, false, 0⟩] }) mx0 with gcycle := 64 }

theorem test_met_row_complete : cyclesPast 0 0 32 (mxFlight true) = true ∧
    (∀ r ∈ (mxOf (mxFlight true)).rows, r.bytes.length = 48 ∧ ∀ p ∈ r.poison, p = false) ∧
    (∀ p ∈ (mxOf (mxFlight true)).poison0 ++ (mxOf (mxFlight true)).poison1, p = false) ∧
    (mxOf (mxFlight true)).qmo.length + 32 ≤ 64 ∧ (mxOf (after (exec (.rowComplete 0) (mxFlight true)))).qmo.length = 32 ∧
    (mxOf (after (exec (.rowComplete 0) (mxFlight false)))).rows = [] := by decide +kernel

/-- The spec's worked group: INT8G, G = 48, all activation codes 130, weight columns 0 and 1 of codes 12 and 4, z = 128 and 8, s = 0.5
and 0.25; the row goes to accumulator row 0. -/
noncomputable def mxGroup (deliver : Bool) : State :=
  let s := { onMx (fun x => { x with
      plane0 := List.replicate 48 12 ++ List.replicate 48 4 ++ List.replicate (62 * 48) 0
      fmt0 := .int8g
      tables := some (0x400, 0x800, 0)
      rows := [⟨0, false, .int8g, List.replicate 48 130, List.replicate 48 false, deliver, false, 0⟩] }) mx0 with gcycle := 64 }
  { s with mem := (s.mem.writeAll (scratchAddr 0 0x400) [0, 0x34, 8, 0, 0, 0x34, 8, 0]).writeAll (scratchAddr 0 0x800) [0, 0x38, 0x80, 0] }

theorem test_met_group_closes : cyclesPast 0 0 32 (mxGroup true) = true ∧ (mxOf (mxGroup true)).rows.length = 1 ∧
    (mxOf (mxGroup true)).plane0.length = 3072 ∧ (mxOf (mxGroup true)).plane1.length = 3072 ∧
    (mxOf (mxGroup true)).groups[0] = ⟨0, 0, 0, List.replicate 64 0, List.replicate 64 0, List.replicate 64 false⟩ ∧
    (∀ p ∈ (mxOf (mxGroup true)).poison0 ++ (mxOf (mxGroup true)).poison1, p = false) ∧ (mxOf (mxGroup true)).qmo = [] ∧
    ((mxOf (after (exec (.rowComplete 0) (mxGroup false)))).acc[0])[0] = 0x42400000 ∧
    ((mxOf (after (exec (.rowComplete 0) (mxGroup false)))).acc[0])[1] = 0xC2400000 ∧
    ((mxOf (after (exec (.rowComplete 0) (mxGroup false)))).groups[0].gp, (mxOf (after (exec (.rowComplete 0) (mxGroup false)))).groups[0].gi) = (0, 1) ∧
    (mxOf (after (exec (.rowComplete 0) (mxGroup true)))).qmo.head? = some 0xC240000042400000 := by decide +kernel

theorem test_met_raw_storage : RawStorage (mxGroup true) := by
  unfold RawStorage
  decide +kernel

/-- The engine idle but for one queued instruction. -/
noncomputable def mxQueue (t : MxTask) : State := onMx (fun x => { x with queue := [t], acc := x.acc.set 3 (Vector.replicate 64 0x3F800000) }) mx0

theorem test_met_matrix_finish : (mxQueue .mswap).mem.wf = true ∧
    (mxOf (after (exec (.matrixInstructionComplete 0) (mxQueue .mswap)))).active = true ∧
    (((mxOf (after (exec (.matrixInstructionComplete 0) (mxQueue (.mzero 3 1))))).acc[3])[63]) = 0 ∧
    (((mxOf (after (exec (.matrixInstructionComplete 0) (mxQueue (.mzero 4 1))))).acc[3])[63]) = 0x3F800000 ∧
    (mxOf (after (exec (.matrixInstructionComplete 0) (mxQueue (.mmode true))))).q = true ∧
    (mxOf (after (exec (.matrixInstructionComplete 0) (mxQueue (.mscale 1 2 0))))).tables = some (1, 2, 0) ∧
    (after (exec (.matrixInstructionComplete 0) (mxQueue (.mstore 0 0x200 0 3 1 0 [])))).mem.bytes (scratchAddr 0 0x2FC) 8 =
      [0, 0, 0x80, 0x3F, 0, 0, 0, 0] := by decide +kernel

/-- ... its accumulators 48.0 and -48.0, as in the spec's worked group. -/
noncomputable def mxCodes (t : MxTask) : State :=
  onMx (fun x => { x with acc := x.acc.set 3 (((Vector.replicate 64 0).set 0 0x42400000).set 1 0xC2400000) }) (mxQueue t)

theorem test_met_mstore_encodes : (mxCodes .mswap).mem.wf = true ∧
    (after (exec (.matrixInstructionComplete 0) (mxCodes (.mstore 0 0x800 5 3 1 0 [(128, 0x3800, false), (128, 0x3800, false)])))).mem.bytes
      (scratchAddr 0 0x200) 3 = [0xE0, 0x20, 128] ∧
    (after (exec (.matrixInstructionComplete 0) (mxCodes (.mstore 0 0x800 8 3 1 0 [])))).mem.bytes (scratchAddr 0 0x100) 2 = [0x87, 0] ∧
    (after (exec (.matrixInstructionComplete 0) (mxCodes (.mstore 0 0x800 1 3 1 0 [])))).mem.byte (scratchAddr 0 0x201) = 0xAD := by
  decide +kernel

/-! ### Copy statements: their hypotheses are met -/

/-- m0 to m3 hold a copy of `len` bytes of one KIND from byte 0x100 to byte 0x400 of the own scratchpad. -/
def cp0 (kind len : Nat) (w3 : W64) : State :=
  setR 0 (w64 (2 ^ 63 + 0x100)) (setR 1 (if kind = 2 then 0 else w64 (2 ^ 63 + 0x400)) (setR 2 (w64 (kind * 2 ^ 48 + len)) (setR 3 w3 pad0)))

/-- A push decides to accept; it finds its FIFO full. -/
def accepts (r : Res (Option State)) : Bool :=
  match r with
  | .ok (some _) => true
  | _ => false

def fifoFull (r : Res (Option State)) : Bool :=
  match r with
  | .ok none => true
  | _ => false

/-- The command pushed. -/
noncomputable def cp1 (kind len : Nat) (w3 : W64) : State := after (exec (.cpq 0) (cp0 kind len w3))

/-- Its one command. -/
def theCmd (s : State) : Option CopyCmd := s.cp.cmds.head?

/-- Eight commands in the FIFO. -/
noncomputable def cpFull : State :=
  let s := cp1 3 6 0x77
  { s with cp := { s.cp with cmds := ((List.range 8).flatMap fun i => s.cp.cmds.map fun c => { c with id := i }) } }

theorem test_met_copy_push : accepts (copyPush 0 (cp0 3 6 0x77)) ∧ (theCmd (cp1 3 6 0x77)).isSome ∧
    (after (exec (.cpqt (.m 9) 0) (setR 9 5 (cp0 3 6 0x77)))).ctx.g.m[9] = 0 ∧ (cp1 3 6 0x77).ctx.qs.outstanding = 1 ∧
    fifoFull (copyPush 0 cpFull) ∧ (after (exec (.cpqt (.m 9) 0) cpFull)).ctx.g.m[9] = 1 := by decide +kernel

/-- A barrier at byte 0x800 that expects 6 bytes; a ring of 4 slots of 64 bytes from byte 0x1000 on, its header there. -/
def bar0 (s : State) : State := { s with mem := s.mem.writeAll (scratchAddr 0 0x800) (bytesOf 4 9 ++ bytesOf 4 0 ++ bytesOf 4 2 ++ bytesOf 4 6) }

def ring0 (filled taken : Nat) (s : State) : State :=
  let h := bytesOf 4 filled ++ bytesOf 4 filled ++ bytesOf 4 0 ++ bytesOf 4 taken ++ bytesOf 4 64 ++ bytesOf 4 4
  { s with mem := s.mem.writeAll (scratchAddr 0 0x800) (h ++ bytesOf 8 (2 ^ 63 + 0x1000)) }

/-- The command with its chunk read; with its chunk written. -/
noncomputable def cpRead (kind : Nat) (w3 : W64) : State := after (exec (.copyChunkStart 0) (bar0 (cp1 kind 6 w3)))
noncomputable def cpDone (kind : Nat) (w3 : W64) : State := after (exec (.copyChunkDone 0) (cpRead kind w3))

theorem test_met_copy_chunks : (nextChunk 0 (cp1 3 6 0x77)).isSome ∧
    (theCmd (cp1 3 6 0x77)).any (fun c => c.peer == none && c.slot == none && c.src.coord && c.src.win == 0 && c.src.core == 0 &&
      c.src.base == 0x100 && c.src.lo == 0 && c.src.hi == 6 && c.dst.base == 0x400 && c.dst.hi == 6 && c.moving == none &&
      !c.svc) ∧
    (cp1 3 6 0x77).fab.tombs = [] ∧ (cp1 3 6 0x77).mem.wf = true ∧
    ((theCmd (cpRead 3 0x77)).bind fun c => c.moving.map fun l => l.map MoveByte.b) = some [0x80, 0x81, 0x82, 0x83, 0x84, 0x85] ∧
    (theCmd (cpRead 3 0x77)).any (fun c => (c.moving.map fun l => l.map fun b => (b.bad, b.gran)) == some (List.replicate 6 (false, none)) &&
      (cpRead 3 0x77).ctx.info.key == some c.owner && c.area == none && (cpRead 3 0x77).live) ∧
    (cpDone 3 0x77).mem.bytes (scratchAddr 0 0x400) 7 = [0x80, 0x81, 0x82, 0x83, 0x84, 0x85, 0] ∧
    (theCmd (cpDone 3 0x77)).map (fun c => (c.chunk, c.moving)) = some (1, none) := by decide +kernel

theorem test_met_copy_credits : (theCmd (cpRead 1 (w64 (2 ^ 63 + 0x800)))).any (fun c => cmdKind c.w2 == 1 && c.id == 0) ∧
    (cpDone 1 (w64 (2 ^ 63 + 0x800))).mem.bytes (scratchAddr 0 0x800) 16 = bytesOf 4 10 ++ bytesOf 4 2 ++ bytesOf 4 2 ++ bytesOf 4 0 := by
  decide +kernel

/-- An earlier command of the pusher, still in its FIFO, credits the same barrier. -/
noncomputable def cpLate : State :=
  let s := cpRead 1 (w64 (2 ^ 63 + 0x800))
  { s with cp := { s.cp with cmds := s.cp.cmds.flatMap fun c => [{ c with
      place := .fifo
      moving := none }, { c with id := 1 }] } }

theorem test_met_late_credits : (cmdOf 1 cpLate).isSome = true ∧ ((cmdOf 1 cpLate).any fun c => cpLate.cp.cmds.any fun d => decide (d.id < c.id) && d.owner == c.owner && d.svc == c.svc &&
      cmdKind d.w2 == 1 && forward cpLate d.target == forward cpLate c.target && d.place != .done) = true ∧
    (cmdOf 1 (after (exec (.copyChunkDone 1) cpLate))).map (fun c => (c.credit, c.chunk)) = some ([6], 1) ∧
    (after (exec (.copyChunkDone 1) cpLate)).mem.bytes (scratchAddr 0 0x800) 16 = cpLate.mem.bytes (scratchAddr 0 0x800) 16 := by
  decide +kernel

/-- A ring command, all its bytes moved. -/
noncomputable def cpSlot : State :=
  after (exec (.copyChunkDone 0) (after (exec (.copyChunkStart 0) (ring0 0 0 (cp1 2 6 (w64 (2 ^ 63 + 0x800)))))))

theorem test_met_copy_completion : (theCmd (cpDone 3 0x77)).any (fun c => c.place == .running false && c.moving == none &&
      c.slot == none && decide (cmdLen c.w2 ≤ 4096 * c.chunk)) ∧
    (after (exec (.copyCompletion 0) (cpDone 3 0x77))).ctx.qs.qcs = [0x77] ∧
    (after (exec (.copyCompletion 0) (cpDone 3 0x77))).ctx.qs.outstanding = 0 ∧
    (after (exec (.copyCompletion 0) (cpDone 3 0x77))).cp.cmds = [] ∧
    (theCmd cpSlot).any (fun c => c.place == .running false && c.slot == some 0 && c.target == scratchAddr 0 0x800 && cmdKind c.w2 == 2) ∧
    cpSlot.fab.tombs = [] ∧ cpSlot.mem.wf = true ∧ objGet (scratchAddr 0 0x800) 0 cpSlot = 0 ∧
    objGet (scratchAddr 0 0x800) 0 (after (exec (.copyCompletion 0) cpSlot)) = 1 := by decide +kernel

/-- m8 names the object at byte 0x800. -/
def obj0 (s : State) : State := setR 8 (w64 (2 ^ 63 + 0x800)) s

theorem test_met_rings : okIs ((objAccess (w64 (2 ^ 63 + 0x800)) 32 (obj0 (ring0 2 1 pad0))).map Prod.fst) (scratchAddr 0 0x800) ∧
    ringOk (scratchAddr 0 0x800) (obj0 (ring0 2 1 pad0)) = true ∧ isOk (releasePkg (obj0 (ring0 2 1 pad0))) ∧
    (ring0 2 1 pad0).mem.wf = true ∧
    (after (exec (.rinit (.m 8)) (obj0 (ring0 2 1 pad0)))).mem.bytes (scratchAddr 0 0x800) 20 =
      List.replicate 16 0 ++ bytesOf 4 64 ∧
    (after (exec (.rawait (.m 9) (.m 8)) (obj0 (ring0 2 1 pad0)))).ctx.g.m[9] = w64 (2 ^ 63 + 0x1040) ∧
    (after (exec (.rpeek (.m 9) (.m 8)) (obj0 (ring0 2 1 pad0)))).ctx.g.m[9] = w64 (2 ^ 63 + 0x1040) ∧
    (after (exec (.rpeek (.m 9) (.m 8)) (obj0 (ring0 2 2 pad0)))).ctx.g.m[9] = BitVec.allOnes 64 ∧
    objGet (scratchAddr 0 0x800) 8 (after (exec (.rrel (.m 8)) (obj0 (ring0 2 1 pad0)))) = 1 ∧
    objGet (scratchAddr 0 0x800) 8 (after (exec (.rrel (.m 8)) (obj0 (ring0 2 0 pad0)))) = 0 := by decide +kernel

/-- A launch whose group 0 holds threads 0 and 2 and has its barrier at byte 0x800; the acting thread is 2. -/
def grp0 : State :=
  let s := obj0 (bar0 pad0)
  { s with
    ctx := { s.ctx with
      sys := { s.ctx.sys with
        gthread := 2
        grpmap := 0x1010100 }
      info := { s.ctx.info with launch := 7 } }
    sch := { s.sch with launches := [⟨7, 0, 0, List.replicate 64 4, [⟨5, 2, w64 (2 ^ 63 + 0x800)⟩], 3⟩] } }

theorem test_met_barriers : okIs ((objAccess (w64 (2 ^ 63 + 0x800)) 16 grp0).map Prod.fst) (scratchAddr 0 0x800) ∧
    okIs (memberBarrier 0 grp0) (w64 (2 ^ 63 + 0x800)) ∧ isMember 0 grp0 = true ∧ isMember 3 grp0 = false ∧
    (groupOf 3 grp0).isNone ∧ isOk (releasePkg grp0) ∧ grp0.mem.wf = true ∧
    (after (exec (.binit (.m 8) (.m 9)) (setR 9 3 grp0))).mem.bytes (scratchAddr 0 0x800) 16 =
      bytesOf 4 0 ++ bytesOf 4 3 ++ bytesOf 4 3 ++ bytesOf 4 0 ∧
    (after (exec (.bexp (.m 8) (.m 9)) (setR 9 10 grp0))).mem.bytes (scratchAddr 0 0x80C) 4 = bytesOf 4 16 ∧
    (after (exec (.bexp (.m 8) (.m 9)) (setR 9 (-6) grp0))).mem.bytes (scratchAddr 0 0x800) 8 = bytesOf 4 10 ++ bytesOf 4 2 ∧
    (after (exec (.bwait (.m 10) (.m 8) (.m 9)) (setR 9 9 grp0))).ctx.g.m[10] = 9 ∧
    (after (exec (.btest (.m 10) (.m 8) (.m 9)) (setR 9 9 grp0))).ctx.g.m[10] = 1 ∧
    (after (exec (.btest (.m 10) (.m 8) (.m 9)) (setR 9 10 grp0))).ctx.g.m[10] = 0 ∧
    (after (exec (.gwait .z (.m 9)) (setR 9 9 grp0))).ctx.pc = 0x1004 ∧
    (after (exec (.barv (.m 10) (.m 8)) (setR 9 9 grp0))).ctx.g.m[10] = 9 ∧
    (after (exec (.garv (.m 10) .z) grp0)).mem.bytes (scratchAddr 0 0x804) 4 = bytesOf 4 0xFFFFFFFF ∧
    (after (exec (.grank (.m 10) .z) grp0)).ctx.g.m[10] = 1 ∧ (after (exec (.gsize (.m 10) .z) grp0)).ctx.g.m[10] = 2 ∧
    (after (exec (.grank (.m 10) (.m 9)) (setR 9 3 grp0))).ctx.g.m[10] = BitVec.allOnes 64 ∧
    (after (exec (.gsize (.m 10) (.m 9)) (setR 9 3 grp0))).ctx.g.m[10] = BitVec.allOnes 64 := by decide +kernel

/-- m10 = 5 names an event, m9 = 3; the event has a count of 1 and two waiters. -/
def ev0 (count : Nat) (latch : Bool) : State :=
  let s := setR 9 3 (setR 10 5 pad0)
  { s with sch := { s.sch with events := [⟨0, 5, count, latch, [0x3000, 0x4000]⟩] } }

theorem test_met_events : isOk (releasePkg (ev0 0 false)) ∧
    (evOf 0 5 (after (exec (.evsig (.m 10) (.m 9)) (ev0 0 false)))).count = 1 ∧
    (evOf 0 5 (after (exec (.evset (.m 10)) (ev0 0 false)))).waiters = [] ∧
    (evOf 0 5 (after (exec (.evclr (.m 10)) (ev0 1 true)))).latch = false ∧
    (after (exec (.evtry (.m 11) (.m 10)) (ev0 1 false))).ctx.g.m[11] = 1 ∧
    (evOf 0 5 (after (exec (.evtry (.m 11) (.m 10)) (ev0 1 false)))).count = 0 ∧
    (evOf 0 5 (after (exec (.evwait (.m 10)) (ev0 1 true)))).count = 1 ∧
    (after (exec (.evtry (.m 11) (.m 10)) (ev0 0 false))).ctx.g.m[11] = 0 := by decide +kernel

/-- The acting continuation's record: PRIO 2, SPILL 0, save and counter areas within the range. -/
def rec0 : Nat := 2 * 2 ^ 76 + (2 ^ 37 - 1) * 2 ^ 320 + 0x100000 * 2 ^ 384 + 0x200000 * 2 ^ 448

/-- Records lie at 0x20000, the acting one, STATE 2, and at 0x30000, in a state. -/
def tsk0 (st : Nat) : State :=
  let m := pad0.mem.writeAll 0x20000 (bytesOf 64 (rec0 + 2 * 2 ^ 72))
  { pad0 with mem := m.writeAll 0x30000 (bytesOf 64 (rec0 + st * 2 ^ 72)) }

theorem test_met_suspensions : isOk (suspendReady (tsk0 0)) ∧ (tsk0 0).ctx.info.key = some key0 ∧ (tsk0 0).ctx.info.service = none ∧
    (ownEngine (tsk0 0)) = none ∧ (after (exec .suspend (tsk0 0))).live = false ∧
    recState (ofBytes ((after (exec .suspend (tsk0 0))).mem.bytes (0x20000) 64)) = 5 ∧
    recState (ofBytes ((after (exec .yield (tsk0 0))).mem.bytes (0x20000) 64)) = 1 ∧
    recState (ofBytes ((after (exec .exit (tsk0 0))).mem.bytes (0x20000) 64)) = 6 ∧
    (after (exec .exit (after (exec (.mclaim .z) (tsk0 0))))).engines.length = 0 ∧
    isOk (suspendReady (popReg (.m 10) (demote .pkg (touch 0x1000 (flushLa (setR 10 5 (tsk0 0))))).2)) ∧
    (evOf 0 5 (after (exec (.evwait (.m 10)) (setR 10 5 (tsk0 0))))).waiters = [0x20000] := by decide +kernel

theorem test_met_spawn : okIs ((recordAccess 0x30000 (tsk0 0)).map Prod.fst) (0x30000) ∧
    spawnOk rec0 (tsk0 0) = true ∧ (tsk0 0).mem.wf = true ∧ isOk (releaseReady .pkg (tsk0 0)) ∧
    (after (exec (.spawn (.m 11) (.m 10)) (setR 10 0x30000 (tsk0 1)))).ctx.g.m[11] = 1 ∧
    (after (exec (.spawn (.m 11) (.m 10)) (setR 10 0x30000 (setR 11 9 (tsk0 0))))).ctx.g.m[11] = 0 ∧
    ((after (exec (.spawn (.m 11) (.m 10)) (setR 10 0x30000 (tsk0 0)))).sch.runq.map fun e => (e.rva, e.queue)) = [(0x30000, 2)] ∧
    (after (exec (.spawn (.m 11) (.m 10)) (setR 10 0x30000 (setR 11 9 { tsk0 0 with
      mem := (tsk0 0).mem.writeAll 0x30000 (bytesOf 64 (rec0 + 65 * 2 ^ 184)) })))).ctx.g.m[11] = 2 ∧
    ((after (exec (.resume (.m 10)) (setR 10 0x30000 (tsk0 5)))).sch.runq.map fun e => (e.rva, e.queue)) = [(0x30000, 2)] ∧
    (after (exec (.resume (.m 10)) (setR 10 0x30000 (tsk0 6)))).sch.runq.length = 0 := by decide +kernel

/-! ### System statements: their hypotheses are met -/

/-- With the trap registers, the status, the queues changed. -/
def onTr (f : TrapRegs → TrapRegs) (s : State) : State := { s with ctx := { s.ctx with tr := f s.ctx.tr } }
def onSt (f : Status → Status) (s : State) : State := { s with ctx := { s.ctx with st := f s.ctx.st } }
def onQs (f : Queues → Queues) (s : State) : State := { s with ctx := { s.ctx with qs := f s.ctx.qs } }

theorem test_met_system_registers : (settled pad0).ctx.g.m[4] = 7 ∧ isOk (writeReg (.m 9) 5 (settled pad0)) ∧
    isOk (readReg (.m 4) (settled pad0)) ∧
    (after (exec (.srd (.m 9) .fillv) pad0)).ctx.g.m[9] = 0 ∧
    (after (exec (.swr (.m 9) .fillv (.m 4)) pad0)).ctx.sys.fillv = 7 ∧
    (after (exec (.sset (.m 9) .mlimit (.m 4)) pad0)).ctx.g.m[9] = BitVec.allOnes 64 ∧
    (after (exec (.sclr (.m 9) .mlimit (.m 4)) pad0)).ctx.sys.mlimit = w64 (2 ^ 64 - 8) ∧
    (after (exec (.swr (.m 9) .vfid (.m 4)) pad0)).ctx.tr.scause = 1 ∧
    (after (exec (.swr (.m 9) .home (.m 4)) pad0)).ctx.tr.scause = 1 ∧
    (after (exec (.srd (.m 9) .svec) pad0)).ctx.tr.scause = 0x12 ∧ (after (exec (.sclr (.m 9) .sepc (.m 4)) pad0)).ctx.tr.scause = 0x12 ∧
    (after (exec (.swr (.m 9) .sepc (.m 4)) (asSup pad0))).ctx.tr.sepc = 7 ∧ (after (exec (.uien (.m 4)) pad0)).ctx.st.uien = true ∧
    wfiDone pad0 = false ∧ (after (exec .wfi pad0)).ctx.wfi = true ∧
    (after (exec .wfi (onQs (fun q => { q with qnt := [1] }) pad0))).ctx.pc = 0x1004 := by decide +kernel

theorem test_met_system_waits : okIs (sysReady pad0) (settled pad0) ∧
    (after (exec (.srd (.m 9) .fillv) { pad0 with ctx := { pad0.ctx with fences := [⟨.pkg, true, true, true, true, 9⟩], acks := [⟨0x100, 5, 1, false, false, 8⟩] } })).ctx.pc =
      0x1000 ∧
    (after (exec (.srd (.m 9) .fillv) (after (exec (.amoswap false .cell .z (.m 8) (.m 4)) pad0)))).ctx.pc = 0x1004 := by decide +kernel

theorem test_met_dist : (distRange (w64 (2 ^ 63 + 0x100)) 16 pad0).1.isSome ∧ (distRange (w64 (2 ^ 63 + 2 ^ 20 - 1)) 16 pad0).1 = none ∧
    (after (exec (.dist (.m 9) (.m 8) 16) pad0)).ctx.sys.tdmask = pad0.ctx.sys.tdmask ∧
    (after (exec (.dist (.m 9) (.m 10) 16) (setR 10 (w64 (2 ^ 63 + 2 ^ 20 - 1)) pad0))).ctx.g.m[9] = BitVec.allOnes 64 := by
  decide +kernel

theorem test_met_written_registers : sysRead .spillsz (sysWrite .spillsz 0x12345 pad0) = 65536 ∧
    sysRead .spillsz (sysWrite .spillsz 0x7FF pad0) = 0x400 ∧ (pad0.trans.vf? pad0.ctx.sys.vfid).isSome = true ∧
    sysRead .svec (sysWrite .svec 0x77 pad0) = 0x77 ∧ sysRead (.evsel 15) (sysWrite (.evsel 15) 0x1FF pad0) = 0xFF ∧
    sysRead .ax (sysWrite .ax 0x3FF pad0) = 0x1FF ∧ (sysRead .status (sysWrite .status (BitVec.allOnes 64) pad0)).getLsbD 5 = false := by
  decide +kernel

theorem test_met_traps : pad0.ctx.la = [] ∧ pad0.ctx.vec.gang = 1 ∧ pad0.ctx.tr.openSup = none ∧ pad0.ctx.tr.upvec = 0 ∧
    (after (exec (.trap 9) pad0)).ctx.tr.scause = 0x1000010 ∧ (after (exec (.trap 9) pad0)).ctx.tr.stval = 9 ∧
    (after (exec (.trap 9) (onTr (fun t => { t with upvec := 0x500 }) pad0))).ctx.pc = 0x500 ∧
    (after (exec (.trap 9) (onTr (fun t => { t with upvec := 0x500 }) pad0))).ctx.tr.cause = 0x10 ∧
    (after (exec (.trap 9) (onSt (fun t => { t with uh := true }) (onTr (fun t => { t with upvec := 0x500 }) pad0)))).ctx.st.mode = true ∧
    (after (exec .brk pad0)).ctx.tr.sepc = 0x1000 ∧ (after (exec (.reservedEncoding 0x1C) pad0)).ctx.tr.stval = 0x1C ∧
    (after (exec .fetchFault { pad0 with ctx := { pad0.ctx with pcBad := true } })).ctx.tr.stval = w64 (2 ^ 63 + 0x1000) ∧
    (after (exec .fetchFault { pad0 with ctx := { pad0.ctx with pcBad := true } })).ctx.tr.sepc = w64 (2 ^ 63 + 0x1000) ∧
    (after (exec .asynchronousTrap (onTr (fun t => { t with pendDie := 4 })
      { pad0 with ctx := { pad0.ctx with pcBad := true } }))).ctx.tr.sepc = 0x1000 ∧
    (after (exec .asynchronousTrap (onTr (fun t => { t with pendDie := 4 }) pad0))).ctx.tr.scause = 0x40F ∧
    (after (exec .asynchronousTrap (onTr (fun t => { t with pendEcc := [0x88] }) pad0))).ctx.tr.scause = 0x10D ∧
    (after (exec .userInterrupt (onSt (fun t => { t with uien := true })
      (onQs (fun q => { q with pendUi := [3, 4] }) (onTr (fun t => { t with uivec := 0x600 }) pad0))))).ctx.pc = 0x600 := by
  decide +kernel

/-- In a user handler, entered by a trap or by an interrupt; in a supervisor trap opened over user code. -/
def inUser (int : Bool) : State := onSt (fun t => { t with uh := true }) (onTr (fun t => { t with epc := 0x700, uhInt := int }) (tsk0 0))
def inSup : State :=
  onSt (fun t => { t with mode := true }) (onTr (fun t => { t with sepc := 0x800, openSup := some ⟨true, true, .user⟩ }) (tsk0 0))

theorem test_met_returns : (after (exec .uret (inUser false))).ctx.pc = 0x700 ∧ (after (exec .uret (inUser false))).ctx.st.uh = false ∧
    (after (exec .uiret (inUser true))).ctx.pc = 0x700 ∧ (after (exec .uiret (inUser false))).ctx.tr.scause = 1 ∧
    (after (exec .uret (tsk0 0))).ctx.tr.scause = 1 ∧ (after (exec .sret (tsk0 0))).ctx.tr.scause = 0x12 ∧
    (after (exec .sret inSup)).ctx.st.mode = false ∧ (after (exec .sret inSup)).ctx.st.uh = true ∧
    (after (exec .sret inSup)).ctx.tr.uhInt = true ∧ (after (exec .sret inSup)).ctx.g.active = .user ∧
    (tsk0 0).ctx.pc.toNat / 2 ^ 63 = (tsk0 0).ctx.sys.ax.toNat ∧
    (after (exec .sret (after (exec .brk (tsk0 0))))).ctx.pc = (tsk0 0).ctx.pc ∧
    (after (exec .sret (after (exec .fetchFault { tsk0 0 with ctx := { (tsk0 0).ctx with pcBad := true } })))).ctx.pcBad = true ∧
    (after (exec .sret (after (exec .brk { tsk0 0 with ctx := { (tsk0 0).ctx with pcBad := true } })))).ctx.pcBad = false ∧
    inSup.ctx.vec.gang = 1 ∧ inSup.ctx.vec.popc = none ∧ writesDone .pkg (coverOwn inSup) = true ∧ inSup.ctx.info.key = some key0 ∧ drained inSup = true ∧ (after (exec .brk inSup)).live = false ∧
    recState (ofBytes ((after (exec .brk inSup)).mem.bytes 0x20000 64)) = 5 := by decide +kernel

/-- A dirty line of the address in m10 lies in the cell's slice. -/
def line0 : State :=
  let s := setR 10 0x40040 pad0
  { s with fab := { s.fab with slices := [⟨0, 0, 0, 0x40040, 0x40040, 0, true, true, true, true, 0, none⟩] } }

theorem test_met_caches : lineBusy 0x40040 line0 = false ∧ (after (exec (.invl (.m 10)) line0)).fab.slices.length = 0 ∧
    ((after (exec (.flushl (.m 10)) line0)).fab.slices.map (·.dirty)) = [false] ∧
    (after (exec (.pref (.m 10)) line0)).ctx.pc = 0x1004 ∧
    (let s := { line0 with ctx := { line0.ctx with fences := [⟨.pkg, true, true, true, true, 9⟩], acks := [⟨0x100, 5, 1, false, false, 8⟩] } }
     waits (fenceGate true true (fixReads s)) = true ∧ (after (exec (.invl (.m 10)) s)).fab.slices.length = 1) ∧ ((after (exec (.invl (.m 8)) line0)).fab.slices.length) = 1 := by
  decide +kernel

/-- Page 0 of core 0 has moved to page 5. -/
def moved0 : State :=
  let s := asSup pad0
  { s with fab := { s.fab with tombs := [⟨0, 0, 0, 5⟩] } }

theorem test_met_supervisor_calls : (after (exec (.hmbump (.m 8)) pad0)).ctx.tr.scause = 0x12 ∧
    (after (exec (.relack (.m 8)) pad0)).ctx.tr.scause = 0x12 ∧ (after (exec (.vfcall (.m 9) (.m 10)) pad0)).ctx.tr.scause = 0x12 ∧
    isOk (releaseReady .pkg (asSup pad0)) ∧ slotBusy 0 0 (asSup pad0) = false ∧
    generation 0 1 (after (exec (.hmbump (.m 10)) (setR 10 0x80000000 (asSup pad0)))) = some 1 ∧
    ownsPage moved0 0 0 0 = true ∧ (tombOf moved0 0 0).isSome = true ∧ pageBusy 0 0 moved0 = false ∧ moved0.mem.wf = true ∧
    (tombOf (asSup pad0) 0 0).isNone ∧ goes (exec (.relack (.m 8)) (asSup pad0)) ∧
    (after (exec (.relack (.m 8)) moved0)).fab.tombs = [] ∧ (after (exec (.relack (.m 8)) moved0)).mem.byte (scratchAddr 0 0x100) = 0 ∧
    (after (exec (.relack (.m 8)) { moved0 with fab := { moved0.fab with retired := [0] } })).mem.byte (scratchAddr 0 0x100) = 0x80 := by
  decide +kernel

/-- m10 names a request of 64 bytes. -/
def call0 : State :=
  let s := setR 10 0x40040 (asSup pad0)
  { s with mem := s.mem.writeAll 0x40040 [7, 8] }

theorem test_met_vfcall : (call0.trans.acct? 0).isSome ∧ (call0.trans.acct? 0).any (fun a => a.mbox == none) = true ∧
    isOk (releaseAt (some .sys) call0) ∧
    isOk ((releaseAt (some .sys) call0).bind fun x => issueAccess 0x40040 64 .read (.big true) true (fun _ => .ok ()) x.2) ∧
    call0.mem.anyPoison 0x40040 64 = false ∧ (after (exec (.vfcall (.m 9) (.m 10)) (setR 9 5 call0))).ctx.g.m[9] = 0 ∧
    (((after (exec (.vfcall (.m 9) (.m 10)) call0)).trans.acct? 0).map fun a => (a.request.take 2, a.seq)) = some ([7, 8], 1) ∧
    (after (exec (.vfcall (.m 9) (.m 10)) (after (exec (.vfcall (.m 9) (.m 10)) call0)))).ctx.g.m[9] = BitVec.allOnes 64 := by
  decide +kernel

/-- An engine with a word in qmo; a mailbox of the VF. -/
noncomputable def rows0 : State :=
  let s := onMx (fun x => { x with qmo := [7, 8] }) mx0
  let t := onQs (fun q => { q with qcs := [3, 4], qnt := [5], qso := [6], outstanding := 1 }) s
  { t with
    api := { t.api with mboxes := [Mailbox.fresh 2 (some 0)] }
    ctx := { t.ctx with vec := { t.ctx.vec with qvs := [9, 10] } } }

theorem test_met_queue_rows : (after (exec .qcsPop rows0)).latch = 3 ∧ (after (exec .qcsPop rows0)).ctx.qs.qcs = [4] ∧
    (after (exec .qcsPop pad0)).ctx.tr.scause = 1 ∧ (after (exec .qntPop rows0)).latch = 5 ∧ (after (exec .qvsPop rows0)).latch = 9 ∧
    (after (exec .qmoPop rows0)).latch = 7 ∧ (mxOf (after (exec .qmoPop rows0))).qmo = [8] ∧ (mxOf rows0).qmi.length < 48 ∧
    (mxOf (after (exec (.qmiPush 11) rows0))).qmi = [11] ∧ (mxOf mx0).qmoOwed = 0 ∧ (after (exec .qmoPop mx0)).ctx.tr.scause = 0xB ∧
    (after (exec .qmoPop mx0)).ctx.tr.stval = 8 ∧ (ownEngine pad0).isNone ∧ (after (exec (.qmiPush 1) pad0)).ctx.tr.stval = 1 ∧
    (after (exec .qsoPop rows0)).latch = 6 ∧ (after (exec .qsoPop pad0)).ctx.tr.scause = 0xA ∧
    isOk (qsaHeaderCheck 0x102 rows0) ∧ isOk (charge (qsaCharge rows0) rows0) ∧
    (after (exec (.qsaPush 0x102) rows0)).ctx.qs.qsa = [0x102] ∧ (after (exec (.qsaPush 0x102) rows0)).ctx.qs.owed = 1 ∧
    (after (exec (.qsaPush 0x8002) rows0)).ctx.qs.sent = some [0x8002] := by decide +kernel

/-- The core waits at a queue register. -/
def held0 (i : Instr) (s : State) : Bool := (after (exec i s)).ctx.waitQ

/-- An engine whose qmi is full; a stream of one row that has not begun needs six of its words more than are there, or none. -/
noncomputable def full0 (need : Bool) : State :=
  onMx (fun x => { x with
    qmi := List.replicate 48 1
    queue := if need then [.mstream none 0 1 9 0 false false 0 (Vector.replicate 16 0)] else [] }) mx0

/-- A notice of the acting continuation waits in its VF's account. -/
def over0 : State :=
  let s := onQs (fun q => { q with qnt := [5] }) pad0
  { s with trans := { s.trans with acct := s.trans.acct.map fun a => { a with overflow := [(⟨0, 0x30000⟩, 8), (key0, 9)] } } }

theorem test_met_queue_waits : held0 .qcsPop (onQs (fun q => { q with outstanding := 1 }) pad0) = true ∧ held0 .qntPop pad0 = true ∧
    held0 .qvsPop pad0 = true ∧ held0 .qsoPop (onQs (fun q => { q with owed := 1 }) pad0) = true ∧ pad0.ctx.amo = none ∧
    held0 (.qmiPush 1) (full0 true) = true ∧ held0 (.qmiPush 1) (full0 false) = false ∧ (after (exec (.qmiPush 1) (full0 false))).ctx.tr.stval = 8 ∧
    held0 .qmoPop (onMx (fun x => { x with queue := [.mstream (some 0) 0 1 1 0 false true 0 (Vector.replicate 16 0)] }) mx0) = true ∧
    held0 (.qsaPush 7) (onQs (fun q => { q with sent := some [1] }) rows0) = true ∧
    over0.live = true ∧ over0.ctx.info.key = some key0 ∧ (after (exec .qntPop over0)).ctx.qs.qnt = [9] ∧
    ((after (exec .qntPop over0)).trans.acct.map fun a => a.overflow) = [[(⟨0, 0x30000⟩, 8)]] ∧
    (onQs (fun q => { q with qsa := [0x102] }) rows0).ctx.qs.qsa = [0x102] ∧
    isOk (charge (qsaCharge rows0) (onQs (fun q => { q with qsa := [0x102] }) rows0)) ∧
    (after (exec (.qsaPush 0x77) (onQs (fun q => { q with qsa := [0x102] }) rows0))).ctx.qs.sent = some [0x102, 0x77] := by decide +kernel

/-- A window is open; an acknowledgement is owed; the allowance of one write is over. -/
noncomputable def owed0 : State := after (exec (.ldW 2 (.m 9) (.m 8) 2) pad0)

def ack0 : State := { pad0 with ctx := { pad0.ctx with acks := [⟨0x100, 5, 1, false, false, 9⟩] } }

def allow0 (now : W64) : State :=
  { pad0 with
    gcycle := now
    mem := { pad0.mem with msgs := [⟨3, 0, 0, [⟨0x100, 1, []⟩], [], some 10, [], none, 0x100, false⟩,
      ⟨4, 0, 0, [⟨0x100, 1, []⟩, ⟨0x101, 2, []⟩], [], some 10, [], none, 0x100, false⟩] } }

theorem test_met_arrivals : (owed0.ctx.la.map (·.done)) = [false] ∧ CalmMemory owed0 ∧
    (owed0.ctx.la.map fun e => (e.read.map fun r => (r.place.win, isGlobal r.place.addr, r.cap, r.size), e.dests.length)) =
      [(some (0, false, false, 4), 1)] ∧ (ownStores ack0).all (fun e => e.id != 9) = true ∧
    (after (exec (.lookaheadResult 0) owed0)).ctx.g.m[9] = 0xFFFFFFFF8B8A8988 ∧ ack0.ctx.amo = none ∧
    (after (exec (.acknowledgement 0) ack0)).ctx.acks = [] ∧
    ((after (exec (.allowanceEnd 3) (allow0 1260))).mem.msgs.map (·.cells)) = [[⟨0x101, 2, []⟩]] ∧
    (after (exec (.allowanceEnd 3) (allow0 1259))).mem.msgs.length = 2 := by
  unfold CalmMemory
  decide +kernel

/-! ### Services, host and slices: the hypotheses are met -/

/-- A relocation of page 0 of core 0 is requested; page 6 is in reserve; cell 0 has counted 65,530 errors. -/
def serv0 : State :=
  { pad0 with
    fab := { pad0.fab with
      relocQ := [(0, 0, 0)]
      reserve := [⟨0, 0, 6⟩]
      softErr := [(0, 65530), (3, 7)] } }

theorem test_met_relocation : (tombOf serv0 0 0).isNone ∧ pageLost serv0 0 0 = false ∧ serv0.mem.wf = true ∧
    (after (exec .pageRelocation serv0)).fab.tombs = [⟨0, 0, 0, 6⟩] ∧ (after (exec .pageRelocation serv0)).fab.reserve = [] ∧
    (after (exec .pageRelocation serv0)).fab.relocQ = [] := by decide +kernel

theorem test_met_scrub : errorsOf 0 (after (exec (.scrub 0 6) serv0)) = 65535 ∧ (after (exec (.scrub 0 5) serv0)).fab.retiring = [0] ∧
    (after (exec (.scrub 3 25) serv0)).fab.retiring = [] ∧ errorsOf 3 (after (exec (.scrub 3 25) serv0)) = serv0.pf.flash.threshold ∧ (after (exec (.scrub 3 26) serv0)).fab.retiring = [3] ∧
    serv0.pf.flash.threshold = 32 ∧ errorsOf 3 (after (exec .softErrorHalving serv0)) = 3 ∧
    (serv0.fab.softErr.map Prod.fst).Nodup := by decide +kernel

/-- Cell 1 is marked and rests; page 2 of core 4, on it, is the VF's; core 0 runs. -/
def ret0 : State := { serv0 with fab := { serv0.fab with retiring := [1] } }

theorem test_met_retirement : (∀ p ∈ [(ret0.cur, ret0.ctx)] ++ ret0.parked, 1 ∉ p.2.memberCells p.1) ∧ ret0.mem.stores = [] ∧
    (pageVf 4 2 ret0).isSome = true ∧ (after (exec (.cellRetirement 1) ret0)).fab.retired = [1] ∧
    (after (exec (.cellRetirement 1) ret0)).fab.retiring = [] ∧ (after (exec (.cellRetirement 0) ret0)).fab.retired = [] ∧
    pageLost (after (exec (.cellRetirement 1) ret0)) 4 47 = true := by decide +kernel

/-- A miss is pending; the period of the VF is over at cycle 1000. -/
def miss0 (now : W64) : State :=
  { pad0 with
    gcycle := now
    trans := { pad0.trans with misses := [⟨0, 0, 0x40000, [⟨0, 0x40000, true, 0xFFFF, key0, Vector.replicate 16 0, none⟩]⟩], acct := pad0.trans.acct.map fun a => { a with budget := 3 } } }

theorem test_met_translation_services : ((miss0 0).trans.vf? 0).isSome = true ∧
    (after (exec (.stage2Load 0) (miss0 0))).trans.resident = [0] ∧ (after (exec (.stage2Load 1) (miss0 0))).trans.resident = [] ∧
    (nextMiss 0 (miss0 0)).isSome = true ∧ (after (exec (.pageWalk 0) (miss0 0))).trans.misses.length = 1 ∧
    (let s := after (exec (.stage2Load 0) (miss0 0))
     (nextMiss 0 s).any (fun m => s.trans.resident.contains m.vf) = true ∧ (after (exec (.pageWalk 0) s)).trans.misses = [] ∧
       (after (exec (.pageWalk 0) s)).fab.slices.length = 1) ∧
    ((after (exec (.periodRefill 0) (miss0 999))).trans.acct? 0).map (·.budget) = some 3 ∧
    ((after (exec (.periodRefill 0) (miss0 1000))).trans.acct? 0).map (·.budget) = some 100 := by decide +kernel

theorem test_met_dies : (ack0.ctx.acks[0]?).isSome ∧
    (after (exec (.ackTimeout 0) { ack0 with gcycle := 25004 })).fab.lost = 0 ∧
    (after (exec (.ackTimeout 0) { ack0 with gcycle := 25005 })).fab.lost = 1 ∧
    (after (exec (.hivePortFailure 11) (allow0 0))).fab.lost = 0x800 ∧ (allow0 0).fab.lost.getLsbD 11 = false ∧
    (after (exec (.hivePortFailure 11) (allow0 0))).mem.msgs = [] ∧ (allow0 0).mem.veil = [] ∧ (allow0 0).mem.wf = true ∧
    (after (exec .hiveDieFault (allow0 0))).pf.phase = 0 ∧
    (after (exec .hiveDieFault { pad0 with mem := pad0.mem.writeAll (2 ^ 47) [5] })).mem.byte (2 ^ 47) = 5 ∧
    (after (exec .hiveDieFault pad0)).mem.byte (scratchAddr 0 0x100) = 0 := by decide +kernel

theorem test_met_host : reservedPa 0x100 = false ∧ reservedPa 0x104 = false ∧ commitsIn 0x100 3 (allow0 0) = [] ∧
    (after (exec (.hostWrite (.mem 0x100) [1, 2, 3]) (allow0 0))).mem.byte 0x102 = 3 ∧
    (∃ pa, reservedPa pa = true ∧ goes (exec (.hostRead (.mem pa) 1) pad0) = false) ∧ serves pad0 = true ∧
    (after (exec (.hostWrite (.pfBar 0 0x100) (List.replicate 63 9)) pad0)).pf.cmd[62]? = some 9 ∧
    (after (exec (.hostRead (.mem 0x100) 3) (allow0 0))).hostLatch.length = 3 ∧
    (after (exec (.hostRead (.pfBar 0 0x10) 3) { pad0 with pf := { pad0.pf with phase := 15 } })).hostLatch = [0, 0, 0] ∧
    goes (exec (.hostWrite (.vfBar 0 0) [1]) pad0) ∧
    (areaOf 1 (after (exec (.hostWrite (.pfBar 1 0x104) [7]) pad0))).cmd[4]? = some 7 ∧
    (areaOf 0 (after (exec (.hostWrite (.pfBar 1 0x104) [7]) pad0))).cmd = pad0.pf.cmd ∧
    (areaOf 0 { pad0 with pf := { pad0.pf with cmdStatus := w64 (2 ^ 63) } }).cmdStatus.getLsbD 63 = true ∧
    (after (exec (.hostWrite (.pfBar 0 0x100) [1]) { pad0 with pf := { pad0.pf with cmdStatus := w64 (2 ^ 63) } })).pf.cmd = pad0.pf.cmd ∧
    (after (exec (.hostWrite (.pfBar 0 0x100) [1]) { pad0 with pf := { pad0.pf with phase := 1 } })).pf.cmd = pad0.pf.cmd := by
  refine ⟨by decide +kernel, by decide +kernel, by decide +kernel, by decide +kernel, ⟨2 ^ 47 - 1, ?_⟩, ?_⟩ <;> decide +kernel

/-- Slot 0 of VF 0 holds a launch of two threads on queue 5; `patch` changes bytes of it. -/
def slot0 (patch : List (Nat × List Byte)) : State :=
  let base := 0x76F5940000
  let m := pad0.mem.writeAll base ([0x10, 0] ++ List.replicate 7 0 ++ [5, 2])
  let m1 := ((m.writeAll (base + 64) (bytesOf 8 0x10000)).writeAll (base + 72) (bytesOf 8 0x100000)).writeAll (base + 80) (bytesOf 8 0x20000)
  { pad0 with mem := patch.foldl (fun m p => m.writeAll (base + p.1) p.2) m1 }

/-- The LSTAT byte of slot 0. -/
def lstat0 (s : State) : Nat := (s.mem.byte (0x76F5940000 + 240)).toNat

theorem test_met_launches : (slot0 []).mem.wf = true ∧ slotByte 0 0 (slot0 []) = 0x76F5940000 ∧
    lstat0 (after (exec (.launchCommit 0 0) (slot0 [(9, [0x15])]))) = 0x10 ∧
    lstat0 (after (exec (.launchCommit 0 0) (slot0 [(13, [65])]))) = 0x13 ∧
    lstat0 (after (exec (.launchCommit 0 0) (slot0 [(72, [1])]))) = 0x11 ∧
    lstat0 (after (exec (.launchCommit 0 0) (slot0 [(14, [1])]))) = 0x12 ∧
    ((after (exec (.launchCommit 0 0) (slot0 []))).sch.runq.map fun e => (e.rva, e.queue)) = [(0x10000, 5), (0x10040, 5)] ∧
    (after (exec (.launchCommit 0 0) (slot0 []))).sch.nextLaunch = 2 ∧
    (after (exec (.launchCommit 0 0) (slot0 [(255, [1])]))).sch.nextLaunch = 1 := by decide +kernel

theorem test_met_launch_group : (readGroups 0 ((slot0 [(14, [1])]).mem.bytes 0x76F5940000 256) (slot0 [(14, [1])]) 1 0 []).toBool = false ∧
    (let s := { slot0 [] with sch := { (slot0 []).sch with launches := [⟨4, 0, 0, (slot0 []).mem.bytes 0x76F5940000 256, [], 0⟩] } }
     lstat0 (after (exec (.launchCompletion 4) s)) = 2 ∧ (after (exec (.launchCompletion 4) s)).sch.launches.length = 0) := by
  decide +kernel

/-- Bytes that come with no poison. -/
def sound (bs : List Byte) : List (Byte × Bool) := bs.map fun b => (b, false)

/-- Ring 3 is published to VF 2 over link 1: the ring of four slots of 64 bytes. -/
def peer0 : State :=
  let s := ring0 0 0 pad0
  { s with cp := { s.cp with rings := [(3, 0, scratchAddr 0 0x800, 1, 2)] } }

/-- Ring 3 with two slots of 8,192 bytes; with `n` claimed, slot 0 by a command of which a first chunk has come. -/
def peer1 (n : Nat) : State :=
  let h := bytesOf 4 0 ++ bytesOf 4 n ++ List.replicate 8 (0 : Byte) ++ bytesOf 4 8192 ++ bytesOf 4 2 ++ bytesOf 8 (2 ^ 63 + 0x1000)
  { peer0 with
    mem := pad0.mem.writeAll (scratchAddr 0 0x800) h
    cp := { peer0.cp with peerSlots := if n = 0 then [] else [(1, 3, 2, 9, 0)] } }

theorem test_met_peer_chunks : (peer1 0).mem.wf = true ∧ (peer1 1).mem.wf = true ∧ (peer1 1).cp.cmds = [] ∧
    ptrWin (ringBase (scratchAddr 0 0x800) (peer1 0)) = 0 ∧ ringFull (scratchAddr 0 0x800) (peer1 0) = false ∧
    (ringSide (peerCmd 0 0 (scratchAddr 0 0x800) 4100 0 CopySide.none none (peer1 0)) (peer1 0)).toBool = true ∧
    (slotSide 0 (scratchAddr 0 0x800) 4100 0 (peer1 1)).core = 0 ∧ (slotSide 0 (scratchAddr 0 0x800) 4100 0 (peer1 1)).base = 0x1000 ∧
    (peer1 1).mem.stores = [] ∧ (peer1 1).mem.poison = [] ∧ (peer1 1).mem.checks = [] ∧ (peer1 1).mem.msgs = [] ∧
    ringClaimed (scratchAddr 0 0x800) (peer1 1) = 1 ∧
    ringFilled (scratchAddr 0 0x800) (after (exec (.peerChunkArrival 1 3 2 9 4100 1 (sound [5, 6, 7, 8])) (peer1 1))) = 1 ∧
    (after (exec (.peerChunkArrival 1 3 2 9 4100 1 [(5, false), (6, true), (7, false), (8, false)]) (peer1 1))).mem.poisoned
      (scratchAddr 0 0x2001) = true ∧
    (after (exec (.peerChunkArrival 1 3 2 9 4100 1 (sound [5, 6, 7, 8])) (peer1 1))).mem.bytes (scratchAddr 0 0x2000) 4 = [5, 6, 7, 8] := by
  decide +kernel

theorem test_met_peer : ringFull (scratchAddr 0 0x800) peer0 = false ∧
    (ringSide (peerCmd 0 0 (scratchAddr 0 0x800) 64 0 CopySide.none none peer0) peer0).toBool = true ∧
    (after (exec (.peerChunkArrival 1 3 2 9 64 0 (sound (List.replicate 64 7))) peer0)).cp.nextId = 1 ∧
    (after (exec (.peerChunkArrival 1 3 2 9 64 0 (sound (List.replicate 64 7))) peer0)).mem.byte (scratchAddr 0 0x103F) = 7 ∧
    (after (exec (.peerChunkArrival 1 3 1 9 64 0 (sound (List.replicate 64 7))) peer0)).cp.nextId = 0 ∧
    (after (exec (.peerChunkArrival 1 3 2 9 64 1 (sound (List.replicate 64 7))) peer0)).cp.nextId = 0 ∧
    (after (exec (.peerChunkArrival 1 3 2 9 64 0 []) { peer0 with pf := { peer0.pf with linksDown := [1] } })).cp.nextId = 0 := by
  decide +kernel

/-- Core 0 is free; the record at 0x30000 is runnable in queue 2 and has its image. -/
def free0 (patch : Nat) : State :=
  let k : Key := ⟨0, 0x30000⟩
  let s := tsk0 1
  { s with
    live := false
    ctx := Ctx.blank
    mem := s.mem.writeAll 0x30000 (bytesOf 64 (rec0 + 2 ^ 72 + 0x1040 + patch))
    sch := { s.sch with
      runq := [⟨0, 0x30000, 2, false, 0⟩]
      fresh := [k]
      images := [⟨0, 0x100000, 0x30000, initialCtx k 0 0 0 0x100000 0x200000 0 2 0 1⟩] } }

theorem test_met_dispatch : (candidates 0 0 (free0 0)).length = 1 ∧ (chooseRecord 0 0 (free0 0)).isSome = true ∧
    isFollower 0 (free0 0) = false ∧ dieLost (free0 0) (dieOf 0) = false ∧ sliceVf 0 (free0 0) = some 0 ∧
    (recRead ⟨0, 0x30000⟩ (free0 0)).isSome = true ∧
    (after (exec .dispatch (free0 0))).live = true ∧ (after (exec .dispatch (free0 0))).ctx.pc = 0x1040 ∧
    recState (ofBytes ((after (exec .dispatch (free0 0))).mem.bytes 0x30000 64)) = 2 ∧
    (after (exec .dispatch (free0 (2 ^ 166)))).live = false ∧
    recState (ofBytes ((after (exec .dispatch (free0 (2 ^ 166)))).mem.bytes 0x30000 64)) = 6 ∧ goes (exec .dispatch (tsk0 0)) := by
  decide +kernel

/-- Node 0's entries: VF 0 alone, or VF 0 and VF 1 in turn; the ending of the slice has been noted. -/
def turn0 (two : Bool) (ph : NodePhase) (now : W64) : State :=
  { tsk0 0 with
    gcycle := now
    trans := { (tsk0 0).trans with vfs := [vf0, { vf0 with id := 1 }] }
    sch := { (tsk0 0).sch with
      runq := [⟨1, 0x50000, 0, false, 12500⟩]
      nodes := [⟨0, (0, 1, true) :: (1, 2, two) :: List.replicate 14 (0, 1, false), 0, ph, true⟩] } }

/-- It has not. -/
def quiet0 (s : State) : State := { s with sch := { s.sch with nodes := s.sch.nodes.map fun n => { n with noticed := false } } }

/-- The phase of the one node. -/
def phase0 (s : State) : List (Nat × NodePhase × Bool) := s.sch.nodes.map fun n => (n.pos, n.phase, n.noticed)

theorem test_met_slice_ends :
    phase0 (after (exec (.sliceEnding 0) (quiet0 (turn0 true (.slice 0 12500) 6249)))) = [(0, .slice 0 12500, false)] ∧
    phase0 (after (exec (.sliceEnding 0) (quiet0 (turn0 true (.slice 0 12500) 6250)))) = [(0, .slice 0 12500, true)] ∧
    phase0 (after (exec (.sliceEnd 0) (turn0 false (.slice 0 12500) 12499))) = [(0, .slice 0 12500, true)] ∧
    phase0 (after (exec (.sliceEnd 0) (turn0 false (.slice 0 12500) 12500))) = [(0, .slice 0 25000, false)] ∧
    phase0 (after (exec (.sliceEnd 0) (turn0 true (.slice 0 12500) 12399))) = [(0, .slice 0 12500, true)] ∧
    phase0 (after (exec (.sliceEnd 0) (turn0 true (.slice 0 12500) 12400))) = [(0, .stopping 0 12500, true)] ∧
    phase0 (after (exec (.sliceEnd 0) (quiet0 (turn0 true (.slice 0 12500) 12400)))) = [(0, .slice 0 12500, false)] := by
  decide +kernel

theorem test_met_slice_starts :
    phase0 (after (exec (.sliceStart 0) (turn0 true .stopped 13000))) = [(1, .slice 1 38000, false)] ∧
    phase0 (after (exec (.sliceStart 0) { turn0 true .stopped 13000 with pf := { State.reset.pf with save := true } })) = [(0, .stopped, true)] := by
  decide +kernel

theorem test_met_stop : stopDue (turn0 true (.stopping 0 12500) 12500) = true ∧ stopDue (turn0 true (.stopping 0 12500) 12499) = false ∧
    (after (exec .coreHalt (turn0 true (.stopping 0 12500) 12500))).ctx.halted = true ∧
    flushed 0 0 (after (exec .coreHalt (turn0 true (.stopping 0 12500) 12500))) = true ∧
    flushed 0 0 (turn0 true (.stopping 0 12500) 12500) = false ∧
    (let s := after (exec .coreHalt { turn0 true (.stopping 0 12500) 12500 with mem := stored0.mem })
     flushed 0 0 s = false ∧ (s.mem.stores.map (·.held)) = [none] ∧
       flushed 0 0 { s with mem := { s.mem with stores := s.mem.stores.map fun e => { e with addr := 0x100 } } } = true ∧
       ((after (exec (.flushComplete 0) { s with mem := { s.mem with stores := s.mem.stores.map fun e => { e with addr := 0x100 } } })).mem.stores.map
         (·.held)) = [some 0]) ∧
    phase0 (after (exec (.flushComplete 0) (after (exec .coreHalt (turn0 true (.stopping 0 12500) 12500))))) = [(0, .stopped, false)] ∧
    (after (exec (.flushComplete 0) (after (exec .coreHalt (turn0 true (.stopping 0 12500) 12500))))).live = false := by decide +kernel

/-! ### Apiary statements: their hypotheses are met -/

/-- Mailbox 2 of VF 0 with an image of 8 bytes at 0x40040 that starts at 4; the header of an action without words, its version 5, is owed. -/
def mb0 : Mailbox := { Mailbox.fresh 2 (some 0) with
  owed := some key0
  image := some (0x40040, 8, 4) }

/-- A record is on its way to the apiary. -/
def api0 (ws : List W64) (f : Mailbox → Mailbox) : State :=
  let s := onQs (fun q => { q with sent := some ws, owed := 1 }) call0
  { s with api := ⟨[f mb0], [], [], 0⟩ }

/-- The mailbox, and what the pusher finds in qso. -/
def box (s : State) : Mailbox := (mbox? s 2).getD (Mailbox.fresh 0 none)

theorem test_met_records : (acceptable (api0 [0x58002] id)).isSome = true ∧
    (box (after (exec .setmin (api0 [0x58002] id)))).minver = 5 ∧
    (box (after (exec .setwd (api0 [0x700058102] id)))).wdstep = 5 ∧ (box (after (exec .setwd (api0 [0x700058102] id)))).wdtotal = 7 ∧
    (box (after (exec .setimg (api0 [0x8202, 0x40000, 2 ^ 19 * 4 + 8, 0] id)))).image = some (0x40000, 8, 4) ∧
    (box (after (exec .actionRecord (api0 [0x50002] fun m => { m with state := .live })))).state = .running ∧
    (after (exec .actionRecord (api0 [0x50002] fun m => { m with pendingEnd := some 2 }))).ctx.qs.qso = [0x50002, w64 (2 * 2 ^ 56)] ∧
    (after (exec .actionRecord (api0 [0x50002] fun m => { m with minver := 6 }))).ctx.qs.qso = [0x50002, w64 (3 * 2 ^ 56)] ∧
    (after (exec .actionRecord (api0 [0x50002] fun m => { m with image := none }))).ctx.qs.qso = [0x50002, w64 (4 * 2 ^ 56)] ∧
    (box (after (exec .actionRecord (api0 [0x50002] fun m => { m with zeroing := some 4 })))).waiting.isSome = true ∧
    (box (after (exec .actionRecord (api0 [0x50002] fun m => { m with posted := true })))).waiting = none ∧
    (after (exec .actionRecord (api0 [0x50002] fun m => { m with vf := some 1 }))).ctx.qs.sent = none := by decide +kernel

/-- Episode 2 of an action of VF 0, its hart at `pc` with x1 = 5, x2 = 7; environment core 3 runs it. -/
def epi0 (pc : Nat) (on : Bool) (f : Mailbox → Mailbox) (now : W64) : State :=
  let x : Vector W64 32 := Vector.ofFn fun i => if i.val = 1 then 5 else if i.val = 2 then 7 else 0
  let cb : CtlBlock := ⟨0, Vector.replicate 6 0, 1, 9, 0, (Vector.replicate 14 0).set 0 0x33⟩
  let h : Hart := ⟨x, Vector.replicate 32 0, 0, w64 pc, none, 0, cb, none⟩
  let m := { mb0 with
    state := .live
    hart := some h
    current := some ⟨key0, 0x50002, []⟩
    step := 6 }
  let code := bytesOf 4 0x002081B3 ++ bytesOf 4 0x73 ++ bytesOf 4 0x00103183
  { pad0 with
    gcycle := now
    mem := pad0.mem.writeAll (regionAddr 2 0) code
    api := ⟨[f m], if on then [(3, 2)] else [], if on then [] else [2], 0⟩ }

/-- Steps of an episode's core. -/
def epi : State := epi0 0 true id 0

theorem test_met_turns : nextDelivery (epi0 0 false id 0) = some (2, 0) ∧ episodeOn 3 (epi0 0 false id 0) = none ∧
    (after (exec (.actionDelivery 3) (epi0 0 false (fun m => { m with waiting := some ⟨key0, 0x70002, []⟩, current := none }) 0))).api.cores = [(3, 2)] ∧
    (after (exec (.actionDelivery 64) (epi0 0 false id 0))).api.cores = [] ∧ episodeOn 3 epi = some 2 ∧
    (ctxOf key0 epi).isSome = true ∧
    (after (exec (.post 3) epi)).ctx.qs.qso = [0x50102, w64 (7 * 2 ^ 32 + 9), 0x33] ∧
    (box (after (exec (.post 3) (epi0 0 true (fun m => { m with state := .starting }) 0)))).state = .live ∧
    (box (after (exec (.post 3) (epi0 0 true (fun m => { m with
      hart := m.hart.map fun h => { h with cb := { h.cb with status := 1 } } }) 0)))).zeroing = some 1 ∧
    (box (after (exec (.post 3) (epi0 0 true (fun m => { m with current := none }) 0)))).zeroing = some 4 ∧
    (box (after (exec (.wait 3) epi))).zeroing = some 4 ∧
    (box (after (exec (.wait 3) (epi0 0 true (fun m => { m with current := none }) 10)))).used = 10 ∧
    (after (exec (.wait 3) (epi0 0 true (fun m => { m with current := none }) 10))).api.cores = [] := by decide +kernel

theorem test_met_control_block : ((box (after (exec (.controlBlockWrite 3 0x80 14) epi))).hart.map fun h => h.cb.obsn) = some 14 ∧
    (box (after (exec (.controlBlockWrite 3 0x80 15) epi))).zeroing = some 4 ∧
    ((box (after (exec (.controlBlockWrite 3 0x88 (w64 (2 ^ 32 + 3))) epi))).hart.map fun h => h.cb.reward) = some 3 ∧
    ((box (after (exec (.controlBlockWrite 3 0x90 1) epi))).hart.map fun h => h.cb.status) = some 1 ∧
    (box (after (exec (.controlBlockWrite 3 0x90 2) epi))).zeroing = some 4 ∧
    ((box (after (exec (.controlBlockWrite 3 0x128 6) epi))).hart.map fun h => h.cb.obs[13]) = some 6 ∧
    (box (after (exec (.controlBlockWrite 3 0x130 6) epi))).zeroing = some 4 ∧
    goes (exec (.controlBlockWrite 4 0x130 6) epi) ∧ goes (exec (.post 4) epi) := by decide +kernel

theorem test_met_episode_code : epi.mem.wf = true ∧
    ((box (after (exec (.environmentCoreInstruction 3) epi))).hart.map fun h => (h.x[3], h.pc, h.instret)) = some (12, 4, 1) ∧
    (box (after (exec (.environmentCoreInstruction 3) (epi0 4 true id 0)))).zeroing = some 4 ∧
    (box (after (exec (.environmentCoreInstruction 3) (epi0 8 true id 0)))).zeroing = some 4 ∧
    (box (after (exec (.environmentCoreInstruction 3) (epi0 262144 true id 0)))).zeroing = some 4 ∧
    (box (after (exec (.environmentCoreInstruction 3) (epi0 1 true id 0)))).zeroing = some 4 ∧
    (box (after (exec (.watchdogExpiry 2) (epi0 0 true id 1250000)))).zeroing = none ∧
    (box (after (exec (.watchdogExpiry 2) (epi0 0 true id 1250001)))).zeroing = some 2 ∧
    (box (after (exec (.watchdogExpiry 2) (epi0 0 false id 1250001)))).zeroing = none := by decide +kernel

/-- A turn past its limit ends whatever its core does. -/
theorem test_met_late_turn : watchdogDue (box epi) epi = false ∧ watchdogDue (box (epi0 0 true id 1250001)) (epi0 0 true id 1250001) = true ∧
    (box (after (exec (.post 3) (epi0 0 true id 1250001)))).zeroing = some 2 ∧
    (box (after (exec (.wait 3) (epi0 0 true id 1250001)))).zeroing = some 2 ∧
    (box (after (exec (.controlBlockWrite 3 0x80 1) (epi0 0 true id 1250001)))).zeroing = some 2 ∧
    (box (after (exec (.environmentCoreInstruction 3) (epi0 0 true id 1250001)))).zeroing = some 2 := by decide +kernel

theorem test_met_episode_end : (box (after (exec (.episodeZeroed 2) (epi0 0 false (fun m => { m with zeroing := some 1 }) 0)))).current = none ∧
    (box (after (exec (.episodeZeroed 2) (epi0 0 false (fun m => { m with zeroing := some 4, current := none }) 0)))).pendingEnd = some 4 ∧
    (after (exec (.episodeZeroed 2) (epi0 0 false (fun m => { m with zeroing := some 2 }) 0))).ctx.qs.qso =
      [0x50002, w64 (2 * 2 ^ 56 + 6 * 2 ^ 32)] ∧ epi.mem.veil = [] := by decide +kernel

theorem test_met_episode_start : (imageBytes 0 0x40040 8 (api0 [0x50002] id)).isSome = true ∧
    ((box (after (exec .actionRecord (api0 [0x50002] id)))).hart.map fun h => (h.pc, h.x[2], h.x[10])) = some (4, 0x40000, 2) ∧
    (after (exec .actionRecord (api0 [0x50002] id))).mem.bytes (regionAddr 2 0) 9 = [7, 8, 0, 0, 0, 0, 0, 0, 0] := by decide +kernel

/-! ### Power and PF statements: their hypotheses are met -/

/-- A serving part with one collective over node 0 at cadence 4, the notices of its VF and a chip link or none. -/
def pow0 (links : List Nat) (pend : Option (Nat × Nat)) : State :=
  { run0 with
    gcycle := 1000
    pow := { run0.pow with
      colls := [⟨1, [0], 4, pend, links⟩]
      grant := 500
      trades := [(3, false, 200)] } }

/-- At a GCYCLE value. -/
def onTime (now : W64) (s : State) : State := { s with gcycle := now }

/-- The one collective. -/
def coll0 (s : State) : List (Nat × Option (Nat × Nat)) := s.pow.colls.map fun c => (c.cadence, c.pending)

/-- The energies that node 0 would take at cadences 1 and up: too much below a cadence, enough room from there on. -/
def need0 (m : Nat) (peers : List Nat) : CapNeed := ⟨0, [List.replicate (m - 1) 900 ++ List.replicate (17 - m) 400], peers⟩

theorem test_met_need : needOf 0 0 ((need0 9 []).pred.headD []) (pow0 [] none) = 9 ∧ needOf 0 0 [] (pow0 [] none) = 1 ∧
    needOf 0 0 (List.replicate 16 900) (pow0 [] none) = 16 ∧ nodeBudget 0 (pow0 [] none) = 500 ∧
    0 < ((((pow0 [] none).sch.nodes.map fun n => n.num).filter fun m => !nodeIdle m (pow0 [] none)).map fun m => nodeShare m (pow0 [] none)).sum ∧
    planBudget { pow0 [] none with pf := { (pow0 [] none).pf with est := true } } = 450 := by decide +kernel

theorem test_met_tokens : (collective 1 (pow0 [] none)).isSome = true ∧ (pow0 [] none).pf.phase = 4 ∧
    coll0 (after (exec (.cappingDecision 1 (need0 9 [])) (pow0 [] none))) = [(4, some (9, 13500))] ∧
    coll0 (after (exec (.cappingDecision 1 (need0 1 [])) (pow0 [7] none))) = [(4, some (3, 126000))] ∧
    coll0 (after (exec (.cappingDecision 1 (need0 1 [6])) (pow0 [7] none))) = [(4, some (6, 126000))] ∧
    coll0 (after (exec (.cappingDecision 1 (need0 4 [])) (pow0 [] none))) = [(4, none)] ∧
    coll0 (after (exec (.cappingDecision 1 (need0 9 [])) (pow0 [] (some (5, 2000))))) = [(4, some (5, 2000))] ∧
    coll0 (after (exec (.cappingDecision 1 (need0 9 [])) (pow0 [] (some (5, 1000))))) = [(5, some (9, 13500))] ∧
    ((after (exec (.cappingDecision 1 (need0 9 [])) (pow0 [] none))).trans.acct.map (·.notices)) = [1] := by decide +kernel

theorem test_met_cadence :
    coll0 (after (exec (.cadenceApply 1) (pow0 [] (some (5, 1000))))) = [(5, none)] ∧
    coll0 (after (exec (.cadenceApply 1) (pow0 [] (some (5, 1001))))) = [(4, some (5, 1001))] ∧
    ((after (exec (.chipLinkFailure 7) (pow0 [7, 8] none))).pow.colls.map (·.links)) = [[8]] ∧
    (after (exec (.chipLinkFailure 1) (peer1 1))).cp.peerSlots = [] ∧
    ringFilled (scratchAddr 0 0x800) (after (exec (.chipLinkFailure 1) (peer1 1))) = 1 ∧
    (after (exec (.tokenTrade false 300) (pow0 [] none))).pow.trades.length = 2 ∧
    (after (exec (.tokenTrade false 301) (pow0 [] none))).pow.trades.length = 1 ∧
    (after (exec .fallbackGrant (onTime 13750000 (pow0 [] none)))).pow.grant = 2800 ∧
    (after (exec .fallbackGrant (onTime 13749999 (pow0 [] none)))).pow.grant = 500 ∧
    (after (exec (.tokenGrant 77) (pow0 [] none))).pow.grant = 77 := by decide +kernel

theorem test_met_estimation : (after (exec (.estimatorRefit none 0 [1]) (pow0 [] none))).pf.est = true ∧
    (after (exec (.estimatorRefit (some 200) 10 [1]) (pow0 [] none))).pow.goodFits = 1 ∧
    (after (exec (.estimatorRefit (some 199) 10 [1]) (pow0 [] none))).pow.badFits = 1 ∧
    ((pow0 [] none).trans.acct? 0).isSome = true ∧
    (let s := { pow0 [] none with pf := { (pow0 [] none).pf with est := true } }
     (((after (exec (.energyRefresh 0 ⟨[], [], 0, 0, 0⟩) s)).trans.acct? 0).map (·.energy)) = some 0) := by decide +kernel

theorem test_met_supply : (after (exec (.setv 0 599) (pow0 [] none))).pf.eff = 1 ∧ (after (exec (.setv 0 851) (pow0 [] none))).pf.eff = 2 ∧
    (after (exec (.setv 0 850) (pow0 [] none))).pf.eff = 0 ∧ supplyAt 0 (after (exec (.setv 0 840) (pow0 [] none))) = ⟨0, 850, 850⟩ ∧
    (after (exec (.setv 0 600) { pow0 [] none with pow := { (pow0 [] none).pow with clusters := [⟨0, 4, 0, 0, none, 0, 0⟩] } })).pf.eff = 3 ∧
    (after (exec (.setfb 0 4 0) (pow0 [] none))).pf.eff = 0 ∧ (after (exec (.setfb 0 4 (-50)) (pow0 [] none))).pf.eff = 4 ∧
    (clusterAt 0 (after (exec (.setfb 0 4 0) (pow0 [] none)))).freq = 4 ∧
    (clusterAt 0 (after (exec (.setfb 0 4 50) (pow0 [] none)))).settling = some (4, 50) ∧
    (clusterAt 0 (after (exec (.setfb 0 5 0) (pow0 [] none)))).freq = 0 ∧
    stopOnCluster 0 (turn0 true (.stopping 0 12500) 0) = true ∧
    (clusterAt 0 (after (exec (.setfb 0 4 0) (turn0 true (.stopping 0 12500) 0)))).settling = some (4, 0) := by decide +kernel

/-- Cluster 0 settles at 1.25 GHz, with these supplies. -/
def settle0 (l : List Supply) : State :=
  { pow0 [] none with pow := { (pow0 [] none).pow with
    clusters := [⟨0, 1, 0, 0, some (4, 0), 0, 0⟩]
    supplies := l } }

theorem test_met_settling : (clusterAt 0 (settle0 [])).settling = some (4, 0) ∧ vmin 4 0 ≤ ((supplyAt 0 (settle0 [])).mv : Int) ∧
    (clusterAt 0 (after (exec (.biasSettled 0) (settle0 [])))).freq = 4 ∧
    ((supplyAt 0 (settle0 [⟨0, 600, 640⟩])).mv : Int) < vmin 4 0 ∧
    (clusterAt 0 (after (exec (.biasSettled 0) (settle0 [⟨0, 600, 640⟩])))).freq = 1 ∧
    (supplyAt 0 (after (exec (.voltageStepSettled 0) (settle0 [⟨0, 600, 640⟩])))).mv = 625 ∧
    (supplyAt 0 (after (exec (.voltageStepSettled 0) (settle0 [⟨0, 625, 640⟩])))).mv = 640 := by decide +kernel

/-- A stack was at its second refresh step; node 0 was hot. -/
def heat0 : State := { pow0 [] none with pow := { (pow0 [] none).pow with
  refresh := [(0, 2)]
  hot := [0] } }

theorem test_met_heat : heat0.pf.save = false ∧ (after (exec (.thermalSample 5 97) heat0)).pow.hot = [0] ∧
    (after (exec (.thermalSample 5 96) heat0)).pow.hot = [] ∧ (after (exec (.thermalSample 6 99) (pow0 [] none))).pow.hot = [] ∧
    (after (exec (.thermalSample 6 100) (pow0 [] none))).pow.hot = [0] ∧
    (after (exec (.thermalSample 5 96) (after (exec (.thermalSample 6 98) heat0)))).pow.hot = [0] ∧
    (after (exec (.thermalSample 6 118) heat0)).pow.off = true ∧ (after (exec (.thermalSample 6 108) heat0)).pf.save = true ∧
    ((after (exec (.thermalSample 132 93) heat0)).pow.refresh.find? fun e => e.1 == 0).map Prod.snd = some 2 ∧
    ((after (exec (.thermalSample 132 92) heat0)).pow.refresh.find? fun e => e.1 == 0).map Prod.snd = some 1 ∧
    (let s := turn0 true (.stopping 0 12500) 0
     let t := { s with pow := { s.pow with clusters := [⟨0, 4, 0, 0, none, 0, 0⟩] } }
     (clusterAt 0 (after (exec (.thermalSample 132 106) t))).settling = some (0, 0)) ∧
    (after (exec (.thermalSample 132 106) heat0)).pf.save = true ∧ (after (exec (.coolantFlowLow 29) heat0)).pf.save = true ∧
    (after (exec (.coolantFlowLow 30) heat0)).pf.flow = true ∧ (after (exec (.coolantFlowLow 60) heat0)).pf.flow = false := by decide +kernel

/-- The record at 0x20000 has its image; the save has begun and every slice is stopped; the save region has room for one context. -/
def save0 (done : Nat) : State :=
  { tsk0 0 with
    live := false
    ctx := Ctx.blank
    sch := { (tsk0 0).sch with
      nodes := [{ node0 with phase := .stopped }]
      images := [⟨0, 0x100000, 0x20000, { (tsk0 0).ctx with info := { (tsk0 0).ctx.info with saveptr := 0x100000, ctrptr := 0x200000 } }⟩] }
    pow := { (tsk0 0).pow with
      saveRegion := some (2 ^ 47, 0x20000)
      saved := done }
    pf := { (tsk0 0).pf with save := true } }

theorem test_met_save : allStopped (save0 0) = true ∧ allStopped { pow0 [] none with pf := { run0.pf with save := true } } = false ∧
    (savedCtxs (save0 0)).length = 1 ∧ (save0 0).mem.wf = true ∧
    (after (exec (.coolantFlowLow 60) (save0 0))).pow.saved = 1 ∧ (after (exec (.coolantFlowLow 60) (save0 1))).pow.off = true ∧
    (let s := { pow0 [] none with pow := { (pow0 [] none).pow with saveRegion := some (2 ^ 47, 0x20000) }, mem := pad0.mem.writeAll (2 ^ 47) [1] }
     (allCtxs s).length = 1 ∧ s.mem.wf = true ∧ s.mem.veil = [] ∧
       (after (exec (.coolantFlowLow 29) s)).mem.byte (2 ^ 47) = 0) := by decide +kernel

/-- A phase of boot with parts of flash missing. -/
def boot0 (phase : Nat) (f : Flash → Flash) : State :=
  { State.reset with pf := { State.reset.pf with phase := phase, flash := f State.reset.pf.flash } }

/-- Phase and fail code. -/
def pfst (s : State) : Nat × Nat := (s.pf.phase, s.pf.fail)

/-- SM3 of "abc", the standard's first example (GB/T 32905, annex A). -/
theorem test_sm3 : beNat (digest [0x61, 0x62, 0x63]) = 0x66c7f0f462eeedd9d1f2d46bdc10e4e24167c4875cf2f7a2297da02b8f4ba8e0 := by
  decide +kernel

/-- The public key and the hash of "message digest" in the standard's example of a signature (GB/T 32918.5, annex A). -/
theorem test_sm2 :
    let x := 0x09F9DF311E5421A150DD7D161E4BC5C672179FAD1833FC076BB08FF356F35020
    let y := 0xCCEA490CE26775A52DC6EA718CC1AA600AED05FBF35E084A6632F6072DA9AD13
    sm2Public 0x3945208F7B2144B13F36E38AC6D39F95889393692860B51A42FB81EF4DF7C5B8 = beBytes 32 x ++ beBytes 32 y ∧
    sm2Hash x y [0x6D, 0x65, 0x73, 0x73, 0x61, 0x67, 0x65, 0x20, 0x64, 0x69, 0x67, 0x65, 0x73, 0x74] =
      0xF0B43E94BA45ACCAACE692ED534382EB17E6AB5A19CE7B31F4486FDFC0D28640 := by decide +kernel

theorem test_met_boot : pfst (after (exec .powerOnReset (boot0 0 id))) = (1, 0) ∧
    pfst (after (exec .powerOnReset (boot0 1 fun f => { f with imagePresent := false }))) = (15, 1) ∧
    pfst (after (exec .powerOnReset (boot0 3 id))) = (3, 0) ∧ (boot0 2 id).pf.phase = 2 ∧
    pfst (after (exec .enterReduced (boot0 4 id))) = (4, 0) ∧ pfst (after (exec .enterFull (boot0 3 id))) = (4, 0) ∧
    (clusterAt 127 (after (exec .enterFull (boot0 3 id)))).freq = 4 ∧ pfst (after (exec .enterFull (boot0 2 id))) = (2, 0) := by
  decide +kernel

/-- The status a command leaves; 9 stands there before it. -/
def st0 (i : Instr) (f : State → State) : W64 := (after (exec i (f { run0 with pf := { run0.pf with cmdStatus := 9 } }))).pf.cmdStatus

theorem test_met_pf_commands : serves run0 = true ∧
    serves (boot0 2 id) = false ∧ (after (exec (.assignvf 5 1 1 true) (boot0 2 id))).trans.vfs.length = 0 ∧
    st0 (.assignvf 1023 0 1 true) id = 0 ∧ st0 (.assignvf 1024 0 1 true) id = 2 ∧ st0 (.assignvf 5 4095 1 true) id = 2 ∧
    st0 (.assignvf 5 0 1 true) (fun s => { s with pf := { s.pf with phase := 3 } }) = 3 ∧
    st0 (.sets2 7 0 0) id = 2 ∧ st0 (.sets2 0 47 0) id = 0 ∧
    st0 (.sets2 0 48 0) (fun s => { s with trans := { s.trans with vfs := [{ vf0 with compat := false }] } }) = 2 ∧
    st0 (.sets2 0 0 (BitVec.ofNat 128 (1 + 2 ^ 112 + 2 ^ 80 * 0xFFFFFFFF))) id = 3 ∧
    s2Allowed vf0 (BitVec.ofNat 128 (1 + 2 ^ 112 + 2 ^ 80 * 0xFFFFFFFF)) = false ∧
    st0 (.setslice 0 15 0 255 true) id = 0 ∧ st0 (.setslice 0 15 0 256 true) id = 2 ∧ st0 (.setslice 0 16 0 1 true) id = 2 ∧
    st0 (.setslice 0 15 3 1 true) id = 3 ∧ st0 (.setslice 0 15 0 0 true) id = 2 ∧ st0 (.setcoll 0 1) id = 0 ∧
    st0 (.setcoll 1 1) id = 2 ∧ st0 (.setway 0 2047 0xF) id = 0 ∧ st0 (.setscope 0 .die) id = 0 ∧ st0 (.setmbox 255 (some 0)) id = 0 ∧
    st0 (.setmbox 3 none) id = 0 ∧ st0 (.setbudget 0 5 9 16) id = 0 ∧ st0 (.setbudget 0 5 9 17) id = 2 ∧ st0 (.setbudget 0 5 9 0) id = 2 := by
  decide +kernel

/-- A store of VF 0's core to global memory is on its way. -/
def busy0 (s : State) : State := { s with mem := { s.mem with stores := [⟨0, 0x40040, [1], .plain, false, none, 0x40040, 0, 0, none, [], none, key0⟩] } }

theorem test_met_more_commands : st0 (.resetdie 12) id = 2 ∧ st0 (.resetdie 11) id = 3 ∧
    st0 (.resetdie 11) (fun s => { s with fab := { s.fab with lost := 0x800 } }) = 0 ∧
    st0 (.saveregion (2 ^ 47) 1) id = 0 ∧ st0 (.saveregion (2 ^ 47) 0) id = 2 ∧ st0 (.saveregion (2 ^ 47) (2 ^ 47 + 1)) id = 2 ∧
    st0 (.saveregion (2 ^ 47 - 1) 1) id = 2 ∧ st0 (.attest (List.replicate 32 0)) id = 0 ∧
    (after (exec (.setslice 0 15 0 255 true) { run0 with pf := { run0.pf with cmdStatus := w64 (2 ^ 63 + 9) } })).pf.cmdStatus = w64 (2 ^ 63 + 9) ∧
    st0 (.assignvf 0 0 1 false) id = 3 ∧ st0 (.sets2 0 48 0) id = 0 ∧ vfBusy 0 run0 = false ∧ vfBusy 0 (busy0 run0) = true ∧
    st0 (.sets2 0 47 0) busy0 = 9 ∧ st0 (.assignvf 0 0 1 false) (fun s => { busy0 s with live := false, ctx := Ctx.blank }) = 9 ∧
    st0 (.assignvf 0 0 1 false) (fun s => { s with live := false, ctx := Ctx.blank }) = 0 ∧ st0 (.s2reply 0 0 0) id = 3 ∧
    st0 (.s2reply 0 0 0) (fun s => { s with trans := { s.trans with acct := s.trans.acct.map fun a => { a with s2wait := true, mbox := some (0, key0) } } }) = 0 := by
  decide +kernel

/-- VF 0 alone on one half of the chip, idle. -/
def half0 : State :=
  { run0 with
    live := false
    ctx := Ctx.blank
    trans := { run0.trans with vfs := [{ vf0 with node := 1 }] }
    sch := { run0.sch with nodes := [{ node0 with num := 1 }] } }

theorem test_met_moves : (half0.trans.vf? 0).map (·.node) = some 1 ∧ ((after (exec (.assignvf 0 2 1 true) half0)).trans.vf? 0).map (·.node) = some 2 ∧
    (nodeAt 1 (after (exec (.assignvf 0 2 1 true) half0))).isNone = true ∧
    ((nodeAt 1 (after (exec (.assignvf 0 2 1 true) { half0 with trans := { half0.trans with vfs := half0.trans.vfs ++ [{ vf0 with id := 1, node := 1 }] } }))).map
      fun n => n.slices.all fun e => !e.2.2) = some true ∧
    nodeIdle 1 half0 = true ∧ nodeBudget 1 { half0 with pow := { half0.pow with grant := 500 } } = 0 := by decide +kernel

/-- VF 0 asks: a request of a code with two arguments, sequence number 6. -/
def ask0 (code a0 a1 : Nat) : State :=
  { pad0 with trans := { pad0.trans with acct := pad0.trans.acct.map fun a =>
      { a with mbox := some (6, key0), request := bytesOf 8 code ++ bytesOf 8 a0 ++ bytesOf 8 a1 ++ List.replicate 40 0 } } }

/-- The answer in the issuer's queue: sequence number, status and result. -/
def ans0 (i : Instr) (s : State) : List (Nat × Nat × Nat) :=
  (after (exec i s)).ctx.qs.qnt.map fun w => (fld w.toNat 0 16, fld w.toNat 16 16, fld w.toNat 32 24)

/-- The pointer of byte `o` of core 0's scratchpad. -/
def raw (o : Nat) : Nat := 2 ^ 63 + o

/-- With pages in reserve; with ring 3 published. -/
def kept0 (n : Nat) (s : State) : State := { s with fab := { s.fab with reserve := (List.range n).map fun i => ⟨0, 4, i⟩ } }
def ringed0 (s : State) : State := { s with cp := { s.cp with rings := [(3, 0, 0, 0, 0)] } }

theorem test_met_requests : (ask0 1 0x4000 0).trans.acct.map (fun a => (a.request.take 2, a.s2wait)) = [([1, 0], false)] ∧
    vfPage 0 (w64 (raw 0x5000)) (ask0 1 0 0) = some (0, 5) ∧ vfPage 0 0 (ask0 1 0 0) = none ∧
    ans0 (.setroot 0) (ask0 1 0x4000 0) = [(6, 0, 0)] ∧ ans0 (.setroot 0) (ask0 1 0x4001 0) = [(6, 2, 0)] ∧
    ans0 (.reserve 0) (ask0 2 (raw 0x5000) 0) = [(6, 0, 1)] ∧ ans0 (.reserve 0) (ask0 2 (raw 0x5001) 0) = [(6, 2, 0)] ∧
    ans0 (.reserve 0) (ask0 2 0 0) = [(6, 2, 0)] ∧ ans0 (.relocate 0) (ask0 3 (raw 0x5000) 0) = [(6, 4, 0)] ∧
    ans0 (.relocate 0) (kept0 1 (ask0 3 (raw 0x5000) 0)) = [(6, 0, 0)] ∧
    ((after (exec (.setroot 0) (busy0 (ask0 1 0x4000 0)))).ctx.qs.qnt = []) ∧
    ans0 (.relocate 0) { kept0 2 (ask0 3 (raw 0x5000) 0) with fab := { (kept0 2 (ask0 3 (raw 0x5000) 0)).fab with relocQ := [(0, 0, 5)] } } = [(6, 2, 0)] ∧
    ans0 (.reserve 0) (kept0 64 (ask0 2 (raw 0x5000) 0)) = [(6, 4, 0)] ∧
    ans0 (.setq 0) (ask0 4 3 0x102) = [(6, 0, 0)] ∧ ans0 (.setq 0) (ask0 4 3 0x200) = [(6, 2, 0)] := by decide +kernel

theorem test_met_more_requests :
    ((after (exec (.s2req 0) (ask0 5 0 0))).trans.acct.map (·.s2wait)) = [true] ∧
    ans0 (.publish 0) (ask0 6 (raw 0x800) 1) = [(6, 0, 0)] ∧ ans0 (.publish 0) (ask0 6 (raw 0x801) 1) = [(6, 2, 0)] ∧
    ans0 (.unpublish 0) (ask0 7 3 0) = [(6, 2, 0)] ∧
    ans0 (.unpublish 0) (ringed0 (ask0 7 3 0)) = [(6, 0, 0)] ∧
    ((ans0 (.pwrread 0) (ask0 8 0 0)).map fun a => a.2.1) = [0] ∧ ans0 (.setq 0) (ask0 9 0 0) = [(6, 1, 0)] ∧
    ans0 (.setroot 0) (ask0 0 0 0) = [(6, 1, 0)] := by decide +kernel

/-- Reserved bytes of a request, whatever row meets it; a command of the peer is under way to the ring that UNPUBLISH names. -/
theorem test_met_reserved_requests :
    ([Instr.setroot 0, .reserve 0, .relocate 0, .setq 0, .s2req 0, .publish 0, .unpublish 0, .pwrread 0].all fun i =>
      ans0 i (ask0 (5 + 65536) 0 0) == [(6, 2, 0)]) = true ∧ ans0 (.s2req 0) (ask0 9 0 0) = [(6, 1, 0)] ∧
    (let s := ask0 7 3 0
     let t := { s with
       mem := (peer1 1).mem
       cp := { (peer1 1).cp with rings := [(3, 0, scratchAddr 0 0x800, 1, 2)] } }
     ans0 (.unpublish 0) t = [(6, 0, 0)] ∧ (after (exec (.unpublish 0) t)).cp.peerSlots = [] ∧ (after (exec (.unpublish 0) t)).cp.rings = []) := by
  decide +kernel

/-! ### The step: its hypotheses are met -/

/-- The turn of core 0 with a word at its pc; another turn. -/
def fed0 (w : Nat) (s : State) : State :=
  { s with
    schedule := [⟨0, .instr⟩]
    mem := s.mem.writeAll 0x1000 (bytesOf 4 w) }

def turned0 (t : Act) (s : State) : State := { s with schedule := [⟨0, t⟩] }

/-- What the turn finds. -/
def found0 (s : State) : State := swapTo 0 { s with schedule := [] }

theorem test_met_step : (fed0 0x1C616503 run0).pow.off = false ∧ (fed0 0x1C616503 run0).pf.phase = 4 ∧
    idleCore (found0 (fed0 0x1C616503 run0)) = false ∧ (found0 (fed0 0x1C616503 run0)).ctx.tr.pendFault = none ∧
    asyncDue (found0 (fed0 0x1C616503 run0)) = none ∧ (found0 (fed0 0x1C616503 run0)).ctx.qs.pendUi = [] ∧
    okIs ((fetch (found0 (fed0 0x1C616503 run0))).map Prod.fst) 0x1C616503 ∧
    okIs ((fetch (found0 (fed0 0x1C616502 run0))).map Prod.fst) 0x6502 ∧ (run0.ctx.pcBad = false) ∧
    isOk (fetchXl 0 0 0x1000 true 0x1000 run0) ∧
    checkedFirst (.sltu (.m 10) (.m 11) (.m 12)) run0 = .ok () ∧
    laviol (.sltu (.m 10) (.m 11) (.m 12)) run0 = none ∧ decodeWord 0 = none := by
  refine ⟨?_, ?_, ?_, ?_, ?_, ?_, ?_, ?_, ?_, ?_, ?_, ?_, ?_⟩ <;> first | decide +kernel | rfl

theorem test_step_runs : (after (step (fed0 0x1C616503 run0))).ctx.g.m[10] = 1 ∧
    (after (step (fed0 0x1C616503 run0))).ctx.pc = 0x1004 ∧ (after (step (fed0 0 run0))).ctx.tr.scause = 1 ∧
    (after (step { fed0 0x1C616503 run0 with ctx := { run0.ctx with pcBad := true } })).ctx.tr.scause = 5 ∧
    (after (step (fed0 0x1C616503 (onTr (fun t => { t with pendDie := 4 }) run0)))).ctx.tr.scause = 0x40F ∧
    (after (step (turned0 (.event (.tokenGrant 7)) run0))).pow.grant = 7 ∧ agentRow (.tokenGrant 7) = true ∧
    (after (step (turned0 (.elapse 9) run0))).gcycle = 9 ∧ (after (step State.reset)).pf.phase = 1 ∧
    (after (step (boot0 1 fun f => { f with imagePresent := false }))).pf.phase = 15 := by decide +kernel

/-- A count of a vector mask waits for its result: the instruction goes on although a trap is pending. -/
theorem test_step_counts : (after (step (fed0 0x0E002241 (onTr (fun t => { t with pendDie := 4 })
      { run0 with ctx := { run0.ctx with vec := { run0.ctx.vec with popc := some (some 9) } } })))).ctx.g.m[4] = 9 := by decide +kernel

theorem test_step_checks : (after (step (fed0 0x1C616503 { owed0 with ctx := { owed0.ctx with pc := 0x1000, la := owed0.ctx.la.map fun e =>
      { e with dests := [(.m 11, 5)], left := 1 } } }))).ctx.tr.scause = 2 := by decide +kernel

/-- The word withFetchWord places is the first one the machine runs. -/
theorem test_fetch_word : (after (step (State.reset.withFetchWord 32 0x1C616503))).ctx.pc =
    pcAdd (State.reset.withFetchWord 32 0x1C616503).ctx.pc 4 := by decide +kernel

/-- The invariant holds somewhere else than at reset. -/
theorem test_met_invariant : pad0.Inv ∧ goes (step (fed0 0x1C616503 pad0)) = true := by
  refine ⟨?_, by decide +kernel⟩
  show pad0.mem.wf = true
  decide +kernel

theorem test_met_encoding : (Instr.sltu (.m 10) (.m 11) (.m 12)).wf = true ∧
    (encode (.sltu (.m 10) (.m 11) (.m 12))).map (fun e => (e.len, e.bits)) = some (32, 0x1C616503) := by decide +kernel

end Sys2Proof.Tests
end

section
/-!
PROOFS. The machine as a whole: what stands right after reset, what a step does with the turn it takes, and the one place where the
statement about the PF's commands fails.
-/

namespace Sys2Proof.Machine

open Sys2Proof.Stmt
open Host (Outcome)

/-! ### Reset and the start of a continuation (R95, R398) -/

/-- Every place of a vector filled with one value holds it. -/
theorem getElem?_replicate_of_lt {α : Type} {n j : Nat} (a : α) (h : j < n) : (Vector.replicate n a)[j]? = some a :=
  Vector.getElem?_replicate.trans (if_pos h)

/-- R95: the main registers of a continuation that starts: the stack pointer, the argument, and zeros. -/
theorem initialCtx_m (k : Key) (gthread ax code : Nat) (saveptr ctrptr arg : W64) (prio launch : Nat) (seed : W128) {j : Nat}
    (h : j < 32) : (initialCtx k gthread ax code saveptr ctrptr arg prio launch seed).g.m[j]? =
      some (if j = 2 then w64 (2 ^ 63 + 15 * 2 ^ 20 + code * 1024) else if j = 4 then arg else 0) := by
  rw [Vector.getElem?_eq_getElem h]
  simp only [initialCtx, Ctx.blank, Vector.getElem_set, Vector.getElem_replicate, eq_comm (b := j)]
  by_cases h2 : j = 2
  · simp [h2]
  · simp [h2]

/-- R95: every lane of every vector register of a blank context is zero. -/
theorem blank_lane {j n : Nat} (hj : j < 32) (hn : n < 128) : (Ctx.blank.vec.v[j]?).bind (fun v => v[n]?) = some 0 := by
  rw [show Ctx.blank.vec.v = Vector.replicate 32 (Vector.replicate 128 0) from rfl, getElem?_replicate_of_lt _ hj]
  exact getElem?_replicate_of_lt _ hn

/-- R2: nothing is listed or veiled right after reset, so that every byte reads 0 (log 2). -/
theorem reset_byte (a : Nat) : State.reset.mem.byte a = 0 := rfl

/-- Settles O59: the machine's fields are read off `State.reset`, a starting continuation's off `initialCtx`, which differs from the
blank context in m2, m4, the system registers, the generator and the record it names. -/
theorem resetLeavesNothingRunning : Obligations.ResetLeavesNothingRunning := by
  unfold Obligations.ResetLeavesNothingRunning
  refine ⟨reset_wf, rfl, rfl, rfl, rfl, rfl, rfl, rfl, rfl, rfl, rfl, rfl, rfl, rfl, reset_byte, ?_⟩
  intro k gthread ax code saveptr ctrptr arg prio launch seed
  refine ⟨fun j hj => initialCtx_m k gthread ax code saveptr ctrptr arg prio launch seed hj,
    fun j hj => getElem?_replicate_of_lt _ hj, fun j hj => getElem?_replicate_of_lt _ hj,
    fun j hj => getElem?_replicate_of_lt _ hj, fun j hj n hn => blank_lane hj (by omega),
    fun j hj => getElem?_replicate_of_lt _ hj, rfl, rfl, rfl, rfl, ?_⟩
  exact BitVec.toNat_ofNat gthread 24

/-! ### The turn taken (R11, R395, R398) -/

@[simp] theorem swapTo_pow (core : Nat) (s : State) : (swapTo core s).pow = s.pow := by
  unfold swapTo
  split
  · rfl
  · dsimp only
    split <;> rfl

@[simp] theorem swapTo_pf (core : Nat) (s : State) : (swapTo core s).pf = s.pf := by
  unfold swapTo
  split
  · rfl
  · dsimp only
    split <;> rfl

/-- A part that serves takes the turn at the head of its schedule. -/
theorem step_of_schedule {s : State} {core : Nat} {a : Act} {rest : List Turn} (hon : s.pow.off = false)
    (hphase : s.pf.phase = 3 ∨ s.pf.phase = 4) (hs : s.schedule = ⟨core, a⟩ :: rest) :
    step s = act a (swapTo (core % 8192) { s with schedule := rest }) := by
  have hboot : ¬ (s.pf.phase = 0 ∨ s.pf.phase = 1) := by omega
  have hfirm : s.pf.phase ≠ 2 := by omega
  have hserves : ¬ (s.pf.phase ≠ 3 ∧ s.pf.phase ≠ 4) := by omega
  simp [step, oneStep, runTurn, takeTurn, hs, hon, hboot, hfirm, hserves]

/-- R395, R398: the ROM and then firmware go on by themselves. -/
theorem step_of_rom {s : State} (hon : s.pow.off = false) (hphase : s.pf.phase = 0 ∨ s.pf.phase = 1) :
    step s = exec .powerOnReset s := by
  simp [step, oneStep, hon, hphase]

theorem step_of_firmware {s : State} (hon : s.pow.off = false) (hphase : s.pf.phase = 2) :
    step s = exec .enterReduced s := by
  simp [step, oneStep, hon, hphase]

@[simp] theorem elapse_gcycle (n : Nat) (s : State) : (elapse n s).gcycle = s.gcycle + w64 n := rfl
@[simp] theorem elapse_mem (n : Nat) (s : State) : (elapse n s).mem = s.mem := rfl

@[simp] theorem Ctx.addEvent_g (c : Ctx) (code n : Nat) : (c.addEvent code n).g = c.g := rfl
@[simp] theorem Ctx.addEvent_pc (c : Ctx) (code n : Nat) : (c.addEvent code n).pc = c.pc := rfl

/-- Time moves only the event counters of a context (R240). -/
theorem Ctx.elapse_same (n : Nat) (c : Ctx) : (c.elapse n).g = c.g ∧ (c.elapse n).pc = c.pc := by
  simp only [Ctx.elapse]
  split
  · exact ⟨rfl, rfl⟩
  · split <;> simp only [Ctx.addEvent_g, Ctx.addEvent_pc, and_self]

theorem elapse_ctx_same (n : Nat) (s : State) :
    (elapse n s).ctx.g = s.ctx.g ∧ (elapse n s).ctx.pc = s.ctx.pc := by
  unfold elapse
  dsimp only
  split
  · exact s.ctx.elapse_same n
  · exact ⟨rfl, rfl⟩

/-! ### What comes before the instruction (R149, R358) -/

/-- Nothing is due before the instruction: a mask count waits for its result, or no asynchronous trap can be entered and no user
interrupt is due. -/
def boundaryQuiet (s : State) : Prop :=
  s.ctx.vec.popc.isSome = true ∨
    (asyncDue s = none ∨ supOpen s = true) ∧ (s.ctx.qs.pendUi = [] ∨ interruptDue s = false)

theorem instrTurn_of_quiet {s : State} (hidle : idleCore s = false) (hf : s.ctx.tr.pendFault = none) (hq : boundaryQuiet s) :
    instrTurn s = runNext s := by
  unfold instrTurn
  rw [hidle, if_neg Bool.false_ne_true]
  rcases hq with hcount | ⟨hasync, hint⟩
  · rw [if_pos hcount]
  · have hno : ((asyncDue s).isSome && !supOpen s) = false := by rcases hasync with h | h <;> simp [h]
    have hnone : (!s.ctx.qs.pendUi.isEmpty && interruptDue s) = false := by rcases hint with h | h <;> simp [h]
    simp [hno, hnone, hf]

theorem instrTurn_of_async {s : State} (hidle : idleCore s = false) (hcount : ¬ s.ctx.vec.popc.isSome = true)
    (hasync : (asyncDue s).isSome = true) (hsup : supOpen s = false) : instrTurn s = exec .asynchronousTrap s := by
  simp only [instrTurn, hidle, hcount, hasync, hsup, Bool.false_eq_true, if_false, Bool.not_false, Bool.and_self, if_true]

theorem instrTurn_of_interrupt {s : State} (hidle : idleCore s = false) (hcount : ¬ s.ctx.vec.popc.isSome = true)
    (hasync : asyncDue s = none) (hpend : s.ctx.qs.pendUi ≠ []) (hdue : interruptDue s = true) :
    instrTurn s = exec .userInterrupt s := by
  simp [instrTurn, hidle, hcount, hasync, hpend, hdue]

/-! ### Decoding and issue (R22, R34, R60) -/

theorem runNext_of_fetch_error {s : State} {e : Stop} (h : fetch s = .error e) : runNext s = exec .fetchFault s := by
  simp only [runNext, h]

theorem runNext_of_reserved {s u : State} {w : Nat} (h : fetch s = .ok (w, u)) (hd : decodeWord w = none) :
    runNext s = exec (.reservedEncoding (BitVec.ofNat 32 w)) { u with insn := w64 w } := by
  simp only [runNext, h, hd]

theorem runNext_of_decoded {s u : State} {w : Nat} {i : Instr} (h : fetch s = .ok (w, u)) (hd : decodeWord w = some i) :
    runNext s = issue i { u with insn := w64 w } := by
  simp only [runNext, h, hd]

theorem issue_of_check_error {i : Instr} {s : State} {e : Stop} (h : checkedFirst i s = .error e) :
    issue i s = finish s (.error e) := by
  simp only [issue, h]

theorem issue_of_laviol {i : Instr} {s : State} {e : LaEnt} (h : checkedFirst i s = .ok ()) (hl : laviol i s = some e) :
    issue i s = finish s (raise cLAVIOL (w64 (e.pc.toNat % 2 ^ 63))) := by
  simp only [issue, h, hl]

theorem issue_of_checked {i : Instr} {s : State} (h : checkedFirst i s = .ok ()) (hl : laviol i s = none) :
    issue i s = exec i s := by
  simp only [issue, h, hl]

/-! ### The bytes fetched (R21, R23, R401) -/

/-- With no write and no store on its way, a read of the acting core returns the bytes of memory and changes nothing. -/
theorem readMem_of_calm {s : State} (hm : s.mem.msgs = []) (hs : s.mem.stores = []) (a n : Nat) :
    readMem a n s = (s.mem.bytes a n, s) := by
  simp [readMem, readGlobal, shownStores, hm, hs]

/-- The parcel at a place of memory, as a number (R2, R21). -/
def parcelAt (pa : Nat) (s : State) : Nat := (s.mem.byte pa).toNat + 256 * (s.mem.byte (pa + 1)).toNat

theorem fetchParcel_of_calm {s u : State} {a pa : Nat}
    (hx : fetchXl s.cur s.vfid (a / 2 * 2) (!s.ctx.st.mode) (w64 (a % 2 ^ 63)) s = .ok (pa, u))
    (hm : u.mem.msgs = []) (hs : u.mem.stores = []) :
    fetchParcel a s = .ok (parcelAt pa u, { u with mem := u.mem.noted pa 2 }) := by
  simp only [fetchParcel, hx, res_bind_ok, readMem_of_calm hm hs]
  rfl

theorem fetch_of_short {s u : State} {p : Nat} (hbad : s.ctx.pcBad = false)
    (h : fetchParcel s.ctx.pc.toNat s = .ok (p, u)) (hp : p % 2 = 0) : fetch s = .ok (p, u) := by
  simp [fetch, must, hbad, h, hp]

theorem fetch_of_long {s u v : State} {p q : Nat} (hbad : s.ctx.pcBad = false)
    (h : fetchParcel s.ctx.pc.toNat s = .ok (p, u)) (hp : p % 2 = 1)
    (hq : fetchParcel (pcAdd s.ctx.pc 2).toNat u = .ok (q, v)) : fetch s = .ok (p + 65536 * q, v) := by
  simp [fetch, must, hbad, h, hp, hq]

/-! ### The step as a whole -/

theorem step_of_issues {core : Nat} {s t : State} (h : Issues core s t) :
    step s = instrTurn t ∧ idleCore t = false ∧ t.ctx.tr.pendFault = none := by
  obtain ⟨hon, hphase, ⟨rest, hs, ht⟩, hidle, hf⟩ := h
  refine ⟨?_, hidle, hf⟩
  rw [step_of_schedule hon hphase hs, ← ht]
  rfl

/-- Settles O60: the step is the act of the turn at the head of the schedule; an instruction's turn goes through what is due at the
boundary, then fetch, decoding, and the checks before its own. -/
theorem stepRunsDecodedInstruction : Obligations.StepRunsDecodedInstruction := by
  unfold Obligations.StepRunsDecodedInstruction
  intro s t core
  refine ⟨?issues, ?fetched, ?turns, ?boot⟩
  case issues =>
    intro h
    obtain ⟨hstep, hidle, hf⟩ := step_of_issues h
    simp only [hstep]
    refine ⟨fun hq w u hw => ⟨fun hd => ?reserved, fun i hd =>
        ⟨fun e he => ?checks, fun hc => ⟨fun hl => ?runs, fun e hl => ?window⟩⟩⟩,
      fun hq e he => ?fault, instrTurn_of_async hidle, instrTurn_of_interrupt hidle⟩
    case reserved => rw [instrTurn_of_quiet hidle hf hq, runNext_of_reserved hw hd]
    case checks => rw [instrTurn_of_quiet hidle hf hq, runNext_of_decoded hw hd, issue_of_check_error he]
    case runs => rw [instrTurn_of_quiet hidle hf hq, runNext_of_decoded hw hd, issue_of_checked hc hl]
    case window =>
      rw [instrTurn_of_quiet hidle hf hq, runNext_of_decoded hw hd, issue_of_laviol hc hl]
      rfl
    case fault => rw [instrTurn_of_quiet hidle hf hq, runNext_of_fetch_error he]
  case fetched =>
    intro hbad pa u hx hm hs
    have hfirst := fetchParcel_of_calm hx hm hs
    refine ⟨fetch_of_short hbad hfirst, fun hp pb x hx2 hm2 hs2 => ?_⟩
    exact fetch_of_long hbad hfirst hp (fetchParcel_of_calm hx2 hm2 hs2)
  case turns =>
    intro rest hon hphase
    refine ⟨fun e hs hrow => ?event, fun n hs => ?time⟩
    case event =>
      rw [step_of_schedule hon hphase hs]
      simp only [act, hrow, if_true]
    case time =>
      obtain ⟨hg, hpc⟩ := elapse_ctx_same n (swapTo (core % 8192) { s with schedule := rest })
      exact ⟨_, step_of_schedule hon hphase hs, elapse_gcycle .., elapse_mem .., hg, hpc⟩
  case boot => exact fun hon => ⟨step_of_rom hon, step_of_firmware hon⟩

/-! ### A slot's generation comes round to 0 at SETS2 (R180, R194) -/

/-- VF 0 with slot 0 at its last generation, and in cell 0's slice a dirty line of that slot whose stored check value is wrong. -/
def lastGeneration : State :=
  { State.reset with
    pf := { State.reset.pf with phase := 4 }
    trans := { State.reset.trans with vfs := [{ Vf.fresh 0 0 1 false with gens := [(0, 4095)] }] }
    fab := { State.reset.fab with slices := [⟨0, 0, 0, 0x40040, 0x40040, 4095, true, true, true, true, 0, none⟩] }
    mem := { State.reset.mem with checks := [(0x40040, 0)] } }

theorem exec_sets2 (vf i : Nat) (e : W128) (s : State) :
    exec (.sets2 vf i e) s = .next (pfRow s (setS2 vf i e s)) := rfl

/-- SETS2 on it, with an entry that is not valid, poisons the line that fails its check. -/
theorem sets2_lastGeneration_poison {t : State} (h : exec (.sets2 0 0 0) lastGeneration = .next t) :
    t.mem.poison = [0x40040] := by
  rw [exec_sets2] at h
  rw [← Outcome.next.inj h]
  decide +kernel

/-- Refutes O54: SETS2 may change memory. It bumps every slot of the VF; where a slot's generation comes round to 0, the slot's dirty
lines go home and are checked on their way, and one that fails its check is poisoned (R180, R194), which `t.mem = s.mem` denies. -/
theorem not_pfCommandsActOrRefuse : ¬ Obligations.PfCommandsActOrRefuse := by
  unfold Obligations.PfCommandsActOrRefuse
  intro h
  obtain ⟨-, hserving⟩ := h lastGeneration
  obtain ⟨-, hsets2, -⟩ := hserving (by decide) (by decide)
  obtain ⟨-, hvf⟩ := hsets2 0 0 0
  obtain ⟨-, hentry, -⟩ := hvf _ rfl
  have hinvalid : (0 : BitVec 128).getLsbD 0 ≠ true := by decide
  obtain ⟨-, -, hdone⟩ := hentry (by decide) (by decide) (by decide) (fun hv => absurd hv hinvalid)
  obtain ⟨t, ht, -, -, hmem, -⟩ := hdone (fun hv => absurd hv hinvalid) (by decide +kernel)
  have hpoison : [0x40040] = lastGeneration.mem.poison :=
    (sets2_lastGeneration_poison ht).symm.trans (congrArg Memory.poison hmem)
  exact absurd hpoison (by decide)

end Sys2Proof.Machine
end
